-- ==== Sys2Proof/Word.lean ====
section
/-!
DEFINITION. The plainest data of the model: bytes, byte strings and sparse tables.
Numbers, sizes, indexes and floating-point bit patterns are `Nat`; memory cells are `BitVec 8`.
-/
namespace Sys2Proof

/-- One byte of memory, of a packet or of a record (R3: byte 0 comes first). -/
abbrev Byte := BitVec 8

/-- A byte string, lowest address first (R3). -/
abbrev Bytes := List Byte

/-- Sparse data by index: one entry per key, keys strictly rising, no entry equal to what an unlisted key reads as. -/
abbrev Table (α : Type) := List (Nat × α)

end Sys2Proof
end

