-- ==== Sys2Proof/Config.lean ====
section
/-!
DEFINITION. What the manual fixes as counts and sizes, and the free values: constants without a body, for results the
manual leaves open. Nothing can be proved about the value of a free value, so a claim about it holds whatever it is.
-/
namespace Sys2Proof.Config

/-- Lots (R363), each named by its dye tag. -/
abbrev lots : Nat := 64
/-- Submission queues of one lot (R29). -/
abbrev queuesPerLot : Nat := 16
/-- Stream contexts (R41). -/
abbrev streams : Nat := 262144
/-- Compute clusters (R17). -/
abbrev clusters : Nat := 32
/-- Cores (R17). -/
abbrev cores : Nat := 256
/-- Memory stacks (R17). -/
abbrev memStacks : Nat := 20
/-- Weft ports (R19). -/
abbrev ports : Nat := 96
/-- DMA channels, 512 in the clusters and 64 in the hub (R228). -/
abbrev channels : Nat := 576
/-- Host attachments (R351). -/
abbrev attachments : Nat := 16
/-- Rails (R448). -/
abbrev rails : Nat := 10
/-- Bytes of one stack (R202). -/
abbrev stackBytes : Nat := 0xC00000000
/-- First device address a command may not name (R202). -/
abbrev memTop : Nat := 0xF000000000
/-- Bytes of one extent: 2 MiB. -/
abbrev extentBytes : Nat := 2097152
/-- Extents of one stack. -/
abbrev extentsPerStack : Nat := 24576
/-- Bytes of a core's local store: 4 MiB (R17). -/
abbrev localStoreBytes : Nat := 4194304
/-- SYSTEM extents on each of the two stacks that hold them (R204, text before it). -/
abbrev systemExtentsPerStack : Nat := 384
/-- Solver save slots (R196). -/
abbrev saveSlots : Nat := 32
/-- Selvage log entries (R440). -/
abbrev selvageEntries : Nat := 65536
/-- Entries a power-fail flush writes (R416). -/
abbrev flushEntries : Nat := 4096

/-- FREE VALUE (assumption 3, DESIGN CHOICE). A fresh 64-bit value for each use, indexed by the counter `Counters.free`. -/
opaque freeBits : Nat → BitVec 64

/-- FREE VALUE (assumption 53, DESIGN CHOICE). The bytes of a message between devices whose layout no rule gives, by the same counter. -/
opaque messageBytes : Nat → List (BitVec 8)

/-- FREE VALUE (assumption 4, DESIGN CHOICE). Which of the results that R81 allows a transcendental function gives on an FP32 operand: the rule
fixes one algorithm and a 2 ulp bound but not the bits. Arguments: the function's code, the operand. -/
opaque transcendental : Nat → Nat → Nat

/-- FREE VALUE (assumption 4, DESIGN CHOICE). Which of the results that R103 allows a drain function (R104) gives at a finite argument, where it
is not elementary. Arguments: function code, operand. -/
opaque drainFunction : Nat → Nat → Nat

/-- FREE VALUE (assumption 4, DESIGN CHOICE). The same for the derivative of a drain function (R104). -/
opaque drainDerivative : Nat → Nat → Nat

/-- FREE VALUE (assumption 133, DESIGN CHOICE). The code of element i of a block that is written with scale 0xFF (R83): the rule gives the scale
and no element codes. Argument: i. -/
opaque nanBlockElem : Nat → Nat

/-- FREE VALUE (assumption 3, DESIGN CHOICE). The result of a shift by the operand's width or more (R123). Arguments: the width, the operand,
the amount. -/
opaque wideShift : Nat → Nat → Nat → Nat

/-- FREE VALUE (assumption 5, DESIGN CHOICE). Jacobi's `rot` (R182): the S1.30 cosine and sine chosen for (A[a][a], A[b][b], A[a][b]);
the manual says that the algorithm is fixed and does not give it. -/
opaque jacobiRotation : Int → Int → Int → Int × Int

/-- FREE VALUE (assumption 72, DESIGN CHOICE). What an S7.56 accumulator holds after a sum outside its range (R170). Argument: the exact sum. -/
opaque sumOverflow : Int → Int

/-- FREE VALUE (assumption 67, DESIGN CHOICE). The S7.56 quotient of a division by zero (R170). Argument: the numerator. -/
opaque quotientByZero : Int → Int

/-- FREE VALUE (assumption 67, DESIGN CHOICE). k_b of a right-hand side whose sum of squares is 0 or infinite (R180): no least integer is named by the
rule. Argument: the sum. -/
opaque rhsExponent : Nat → Int

/-- FREE VALUE (assumption 20, DESIGN CHOICE). The scale exponent of a working copy whose amax history holds NaN or infinity (R86), before its clamp.
Argument: the largest entry. -/
opaque scaleExponent : Nat → Int

/-- FREE VALUE (assumption 6, DESIGN CHOICE). The answer of the security block to an SPDM request (R374): certificates, signatures and
session secrets are outside the manual. -/
opaque spdmAnswer : Bytes → Bytes

/-- FREE VALUE (assumption 6, DESIGN CHOICE). Kyosielo's manufacturer code in IDCODE [11:1] (R458), which the manual does not state. -/
opaque manufacturerCode : Nat

/-- FREE VALUE (assumption 7, DESIGN CHOICE). The fused DEVICE_ID (R298). -/
opaque deviceId : Nat

/-- FREE VALUE (assumption 145, DESIGN CHOICE). Where the record of a journal entry begins in the SYSTEM extents (R60, R214), in codewords. Argument:
the number of the entry. -/
opaque journalPlace : Nat → Nat

/-- FREE VALUE (assumption 12, DESIGN CHOICE). Where the search for a free handle index starts (R49 states the range, not the choice). Argument:
the number of the TENSOR_CREATE. -/
opaque tensorIndex : Nat → Nat

end Sys2Proof.Config
end

