-- ==== Sys2Proof/Syntax.lean ====
section
/-!
DEFINITION. The commands of the block: one constructor of `Instr` for each row of spec/opcode_table.json, with the row's
operands. What comes from outside the device (host memory read by the device, what a code object declares, messages of
other devices, measurements of the board) stands in the operands of the row at which the device meets it (assumption 9, DESIGN CHOICE).
-/
namespace Sys2Proof.Machine

/-- A dye tag (R363). -/
abbrev Lot := Fin 64
/-- A submission queue of a lot (R29). -/
abbrev QueueIx := Fin 16
/-- A stream ID (R41). -/
abbrev StreamId := Fin 262144
/-- A core (R19). -/
abbrev CoreId := Fin 256
/-- A cluster, and its solver unit, shuttle unit and slice (R19). -/
abbrev ClusterId := Fin 32
/-- A memory stack (R19). -/
abbrev StackId := Fin 20
/-- A weft port (R19). -/
abbrev PortId := Fin 96
/-- A DMA channel (R228). -/
abbrev ChannelId := Fin 576
/-- A host attachment (R351). -/
abbrev AttachId := Fin 16
/-- A rail (R448). -/
abbrev RailId := Fin 10

/-- A PCIe function: the physical function of an attachment, or the virtual function of a lot under it (R353). -/
structure Fn where
  attach : AttachId
  vf     : Option Lot := none
  deriving DecidableEq, Repr

/-- How a host read completed (R32, R236). -/
inductive HostStatus where
  | ok | poisoned | refused
  deriving DecidableEq, Repr

/-- What the host returned for one read of its memory (R236): the address read, the completion and its data. -/
structure HostReturn where
  addr   : Nat
  status : HostStatus := .ok
  data   : Bytes
  deriving DecidableEq, Repr

/-- Errors that a codeword of memory has taken (R212, R214): its address, its symbols in error, the content of another codeword that lies
within 4 symbols of it, if one does; or, with `sram`, an uncorrectable error in the slice's copy of its line. What strikes memory comes from outside
the device, so it stands in the operands of the commands whose reads find it. -/
structure CodewordError where
  addr  : Nat
  bad   : Nat
  other : Option Bytes := none
  sram  : Bool := false
  deriving DecidableEq, Repr

/-- What memories give to the reads of a command: what the host returned, range by range (R236), and the errors that have struck the device's own
codewords (R212). -/
structure MemoryReads where
  returns : List HostReturn := []
  errors  : List CodewordError := []
  deriving DecidableEq, Repr

/-- Data formats (R47). `code` is a Grekel code object. -/
inductive Format where
  | fp64 | fp32 | fp16 | bf16 | e4m3 | e5m2 | mx8 | mx6 | mx4 | int32 | uint8 | s130 | code
  deriving DecidableEq, Repr

/-- What the code object of a launch declares for one tensor slot (R53, R95, R260): whether the kernel reads or writes the
tensor, whether it is delivered transposed, whether its gather is marked for a backward regather, and whether it is the operand that the A kinds
(`some false`) or the G kinds (`some true`) of a tapped product take their rows from (R145). -/
structure SlotDecl where
  reads      : Bool := false
  writes     : Bool := false
  transposed : Bool := false
  regather   : Bool := false
  tapOperand : Option Bool := none
  deriving DecidableEq, Repr

/-- Functions of a declared reduction region (R222). -/
inductive RegionFn where
  | sum | min | max
  deriving DecidableEq, Repr

/-- A reduction region that a code object declares (R222): its number, function, contributors, and the tensor slot and byte
offset of its first result line. -/
structure RegionDecl where
  region       : Nat
  fn           : RegionFn
  contributors : Nat
  slot         : Nat
  offset       : Nat
  deriving DecidableEq, Repr

/-- What the code object of a launch declares (R53, R79, R101, R111, R155, R222): `rows` the stream rows of the gradient product on each device
(R308), `swapped` that it is formed for a weight stored with DIM[0] along n_in, with the operand roles exchanged (R145), and `sampled` the most
rows of an expert that it samples (R148). The contents of code objects are not a user interface (R17), so they reach the model as operands of the
launch. -/
structure CodeDecl where
  slots     : List SlotDecl := []
  fp64Stage : Bool := false
  gradOf    : Option Nat := none
  rows      : Nat := 0
  swapped   : Bool := false
  sampled   : Nat := 0
  records   : List Nat := []
  regions   : List RegionDecl := []
  deriving DecidableEq, Repr

/-- An operand descriptor of the vector engine (R125). -/
structure Desc where
  base    : Nat
  fmt     : Format
  extents : List Nat
  strides : List Int
  deriving DecidableEq, Repr

/-- Comparisons of the vector engine (R124). -/
inductive Cmp where
  | lt | le | eq | ne | ge | gt
  deriving DecidableEq, Repr

/-- Transcendental functions (R81). GELU has the two forms of R104. -/
inductive Trans where
  | exp | log | tanh | sigmoid | erf | gelu | silu | rsqrt | geluTanh
  deriving DecidableEq, Repr

/-- Element-wise operations (R123). -/
inductive VOp where
  | add | sub | mul | fma | div | sqrt | min | max
  | cmp (c : Cmp) | select
  | convert (towardZero : Bool)
  | trans (f : Trans)
  | iadd | iand | ior | ixor | inot | ishl | ishr | isar
  deriving DecidableEq, Repr

/-- Functions of a reduction channel (R139). -/
inductive RedFn where
  | sum | sumsq | norm2 | max | min | amax | argmax | argmin | countZero | countNonfinite | isum
  deriving DecidableEq, Repr

/-- Modes of a reduction channel (R139). -/
inductive RedMode where
  | row | column | scalar (reg : Fin 16)
  deriving DecidableEq, Repr

/-- One of the four reduction channels (R139): its input (`none`: the result stream; `some i`: source stream i), function and
mode, and the descriptors of the row or column results, and of their indices for ARGMAX and ARGMIN. `softmax` marks the row maximum of R143. -/
structure Channel where
  input   : Option Nat
  fn      : RedFn
  mode    : RedMode
  dst     : Desc := { base := 0, fmt := .fp32, extents := [], strides := [] }
  ixDst   : Desc := { base := 0, fmt := .int32, extents := [], strides := [] }
  softmax : Bool := false
  deriving DecidableEq, Repr

/-- One vector operation (R123 to R129, R139); `summary` names a scalar register that receives the sticky summary (R138). -/
structure VectorOp where
  op       : VOp
  dst      : Desc
  srcs     : List Desc
  mask     : Option Nat := none
  maskOut  : Nat := 0
  channels : List Channel := []
  summary  : Option (Fin 16) := none
  deriving DecidableEq, Repr

/-- A permute (R131): element width in bytes, groups of 2,048 bytes, addresses of source, destination and index vector, and
whether one pattern serves every slice. -/
structure PermuteOp where
  width     : Nat
  groups    : Nat
  src       : Nat
  dst       : Nat
  index     : Nat
  broadcast : Bool := false
  deriving DecidableEq, Repr

/-- Patterns of a shuffle (R132). -/
inductive Shuffle where
  | rotate (r : Nat) | exchange (j : Nat) | reverse | transpose | general (index : Nat)
  deriving DecidableEq, Repr

/-- A shuffle (R132). -/
structure ShuffleOp where
  pattern : Shuffle
  width   : Nat
  groups  : Nat
  src     : Nat
  dst     : Nat
  deriving DecidableEq, Repr

/-- MX_UNPACK and MX_PACK (R133): format, block size 32 or 16, number of blocks, and the addresses of the two planes and of
the FP32 elements. -/
structure MxOp where
  fmt    : Format
  block  : Nat
  blocks : Nat
  plane  : Nat
  scales : Nat
  data   : Nat
  deriving DecidableEq, Repr

/-- SP24_PACK and SP24_UNPACK (R133, R134). -/
structure Sp24Op where
  fmt    : Format
  groups : Nat
  values : Nat
  meta24 : Nat
  data   : Nat
  deriving DecidableEq, Repr

/-- BITS_PACK and BITS_UNPACK (R133). -/
structure BitsOp where
  predicate : Nat
  addr      : Nat
  count     : Nat
  deriving DecidableEq, Repr

/-- INTERLEAVE and DEINTERLEAVE (R133): element bytes, elements of one operand, the m operands and the interleaved one. -/
structure InterleaveOp where
  width : Nat
  count : Nat
  parts : List Nat
  whole : Nat
  deriving DecidableEq, Repr

/-- One operand of a tile as the reed delivers it (R95, R98, R100, R105, R108). Element (lane, k) has linear index
lane·laneStride + k·kStride in the element plane at `base`. `meta24` is the metadata plane of a 2:4 tensor and `bitmap` the
bitmap plane of a block-sparse one, with the elements of DIM[0] as its row length. -/
structure OperandView where
  base       : Nat
  fmt        : Format
  laneStride : Nat
  kStride    : Nat
  block      : Nat := 32
  scales     : Nat := 0
  meta24     : Option Nat := none
  bitmap     : Option Nat := none
  rowLength  : Nat := 0
  deriving DecidableEq, Repr

/-- Drain functions (R104). -/
inductive DrainFn where
  | identity | relu | leaky (slope : Nat) | sqRelu | sigmoid | tanh | geluErf | geluTanh | silu
  deriving DecidableEq, Repr

/-- A vector or matrix that the drain reads or writes (R103): address, FP32 or BF16, and row stride in elements. -/
structure DrainOperand where
  base   : Nat
  fmt    : Format
  stride : Nat := 0
  deriving DecidableEq, Repr

/-- Stages 2 to 5 of the drain (R103). -/
structure Drain where
  alpha    : Option Nat := none
  bias     : Option DrainOperand := none
  residual : Option DrainOperand := none
  fn       : Option DrainFn := none
  backward : Bool := false
  z        : Option DrainOperand := none
  deriving DecidableEq, Repr

/-- The tap of a tile (R146 to R149): the lot's factor handle, the position of lane 0 in the factor, and the stream row of the tile's first K
step: a row of the launch, or, for an expert, a place in its list under a dispatch record. -/
structure Tap where
  factor : Nat
  expert : Nat := 0
  origin : Nat
  first  : Nat := 0
  record : Nat := 0
  deriving DecidableEq, Repr

/-- One output tile (R95, R97). -/
structure Tile where
  rows      : Nat
  cols      : Nat
  depth     : Nat
  a         : OperandView
  b         : OperandView
  drain     : Drain := {}
  out       : DrainOperand
  outScales : Nat := 0
  outBlock  : Nat := 32
  taps      : List Tap := []
  deriving DecidableEq, Repr

/-- The work of a shuttle unit on one dispatch record (R111): the selection and its lists; the gather of rows `first` to
`first + rows − 1` of an expert's input, from the token tensor in a slot to the local store of a core, elements and block scales (R117); or the
combine of tokens, on a core, of the inputs `x` and the expert outputs `out`, rows of expert e from e·CAPACITY, into `y` (R118). -/
inductive ShuttleWork where
  | select
  | gather (expert slot first rows : Nat) (core : CoreId) (store scales : Nat)
  | combine (core : CoreId) (token tokens x out y : Nat)
  deriving DecidableEq, Repr

/-- What a shuttle unit is to do: the number of the dispatch record in its launch, and the work (R111). -/
structure ShuttleTask where
  record : Nat
  work   : ShuttleWork := .select
  deriving DecidableEq, Repr

/-- Element kinds of an atomic (R220): memory element and operand. -/
inductive AtomicKind where
  | f32 | bf16 | f32e4m3 | f32e5m2 | i32 | w32 | w64
  deriving DecidableEq, Repr

/-- An atomic on up to 64 consecutive elements of one line (R220), issued by a launch of `stream` on `core`. -/
structure Atomic where
  core     : CoreId
  stream   : StreamId
  addr     : Nat
  kind     : AtomicKind
  operands : List Nat
  compare  : List Nat := []
  deriving DecidableEq, Repr

/-- A transfer of an operator channel (R228): between a core's local store and a tensor slot of a launch. -/
structure OperatorMove where
  stream   : StreamId
  core     : CoreId
  store    : Nat
  slot     : Nat
  offset   : Nat
  length   : Nat
  toTensor : Bool
  deriving DecidableEq, Repr

/-- The data one other member contributed to a collective (R319): its contributor index and its bytes. -/
structure PeerData where
  member : Nat
  data   : Bytes
  deriving DecidableEq, Repr

/-- What one other member contributed to the reduction of a statistics context (R156): its physical rank, its sampled rows, and
its partial sums in the order of the context's elements. -/
structure PeerStats where
  member : Nat
  rows   : Nat
  sums   : List Nat
  deriving DecidableEq, Repr

/-- The held previous version of a shard (R264). `extents`: the device memory that holds its planes. -/
structure HeldVersion where
  version : Nat
  flags   : Nat
  step    : Nat
  updates : Nat
  digest  : Nat
  time    : Nat
  master  : Bytes
  comp    : Bytes
  extents : List Nat := []
  deriving DecidableEq, Repr

/-- One expert's part of a blend (R156, R157): the context, N_s and the reduced sums by element. -/
structure BlendPart where
  key  : Nat
  rows : Nat
  sums : List Nat
  deriving DecidableEq, Repr

/-- A curvature statistics context (R152, R154). `width` is n; `partials` holds the sums by element index and `rows` N_s; `reducedAt` the last
step whose sums were reduced (R156), and `held` a reduced part that waits for its PARTNER (R160); `tapRows` the rows of the tapped launches of
a step: step, entry and rows (R146). -/
structure StatsCtx where
  weight    : Nat := 0
  partner   : Nat := 0
  beta      : Nat := 0
  lambda    : Nat := 0
  kind      : Nat := 0
  subsample : Nat := 0
  offset    : Nat := 0
  damp      : Nat := 0
  period    : Nat := 1
  phase     : Nat := 0
  enable    : Bool := false
  cold      : Bool := false
  bytes     : Nat := 0
  partials  : Table Nat := []
  rows      : Nat := 0
  blends    : Nat := 0
  eps       : Nat := 0
  trace     : Nat := 0
  blendedAt : Option Nat := none
  ringPos   : Nat := 0
  tapStream : Option (Nat × Nat) := none
  tapRows   : List (Nat × Nat × Nat) := []
  width     : Nat := 1
  reducedAt : Option Nat := none
  held      : Option BlendPart := none
  deriving DecidableEq, Repr

/-- One installed root (R198, R199, R247). -/
structure Root where
  expert : Nat
  side   : Nat
  fmt    : Format
  blockN : Nat
  blocks : Nat
  data   : Bytes
  deriving DecidableEq, Repr

/-- The preconditioner of a weight (R199): the active set and the pending set with its first step. -/
structure Precond where
  active   : List Root := []
  pendingFrom : Option Nat := none
  pendingSet  : List Root := []
  deriving DecidableEq, Repr

/-- A statistics context that moves with the shard whose holders own it, and its factor (R312, R328, R346): the handle of the factor, the expert,
the context, and the expert's part of the factor. -/
structure ContextImage where
  factor : Nat
  expert : Nat
  ctx    : StatsCtx
  data   : Bytes := []
  deriving DecidableEq, Repr

/-- The copies of one shard as they travel between devices, or stand as a mirror or a frozen copy (R328, R334, R336, R346). `extents`: the device
memory that holds the copy here; `gathered`: the versions gathered, with the scale exponents and bits kept (R87); `roots` and `contexts`: the
installed roots of its weight and expert, and the statistics contexts that move with it. -/
structure ShardImage where
  handle  : Nat
  shard   : Nat
  version : Nat
  step    : Nat
  updates : Nat
  flags   : Nat
  time    : Nat := 0
  master  : Bytes
  comp    : Bytes
  moment  : Bytes
  sketch  : Bytes
  amax    : List Nat := []
  gathered : List (Nat × Int × Bytes) := []
  retained : Option (Nat × Bytes × Bool) := none
  held     : Option HeldVersion := none
  roots    : Option Precond := none
  contexts : List ContextImage := []
  extents  : List Nat := []
  deriving DecidableEq, Repr

/-- What the other devices of the box contribute to a RETHREAD (R328, R329): the shards received, the resend failures met, the
sums of the other devices' ledger differences and how many of them are complete. -/
structure RethreadInput where
  shards    : List ShardImage
  linkLost  : Bool := false
  diffs     : Int := 0
  byteDiffs : Int := 0
  complete  : Nat := 0
  deriving DecidableEq, Repr

/-- One other replica of a shard at a digest comparison (R267). -/
structure ReplicaDigest where
  device : Nat
  digest : Nat
  image  : ShardImage
  deriving DecidableEq, Repr

/-- What the other devices of the box contribute to a STEP_COMMIT (R163, R264, R267, R332, R336, R337): replicas of shards by handle
and shard, job step counters, durable secured steps, the all-reduced t and C_t, changed shares by handle, and the partial sums
of squares of their shards: handle, shard, and the sums for g, u and w. -/
structure StepInput where
  replicas    : List (Nat × Nat × List ReplicaDigest) := []
  counters    : List Nat := []
  durable     : List Nat := []
  tbar        : Nat := 0
  cost        : Nat := 0
  shares      : List (Nat × Nat) := []
  norms       : List (Nat × Nat × Nat × Nat × Nat) := []
  deriving DecidableEq, Repr

/-- A tensor of the table that a spare takes from the twin (R333, R347): its lot, handle, job, TENSOR_CREATE descriptor, the
mask of its pin, and, for a data cursor, its bytes. -/
structure TensorImage where
  lot        : Lot
  handle     : Nat
  job        : Nat
  descriptor : Bytes
  pinned     : Option Nat := none
  cursor     : Option Bytes := none
  deriving DecidableEq, Repr

/-- The single-layer state of a job that a spare takes (R333, R347). -/
structure JobImage where
  job       : Nat
  lot       : Lot
  origin    : List Nat
  log2      : List Nat
  entries   : List Nat
  mapGen    : Nat
  counter   : Nat
  jobStep   : Nat
  failures  : Nat := 0
  recovery  : Nat := 0
  devMtbf   : Nat := 50000
  secured   : Option Nat := none
  deriving DecidableEq, Repr

/-- What the checks of a command's blocks gave at its acceptance (R53). -/
inductive BlockCheck where
  | ok | align | param | unpinned | tag | permission | memory
  deriving DecidableEq, Repr

/-- A journal entry of a mirrored stream (R66, R347): its lot, queue and job, and the packet with its blocks, what their checks gave (R53), and
how many job-wide commands its stream has held up to it (R302). -/
structure MirroredCommand where
  lot     : Lot
  queue   : QueueIx
  job     : Nat
  packet  : Bytes
  args    : Bytes := []
  tbl     : Bytes := []
  block   : BlockCheck := .ok
  jobWide : Nat := 0
  deriving DecidableEq, Repr

/-- A SECURE shard that only the records at SOURCE can give (R346, item 4): its lot, handle and index, the step of the version needed, and the
retained gradient that the twin holds for it. -/
structure SourceShard where
  lot      : Lot
  handle   : Nat
  shard    : Nat
  step     : Nat
  retained : Option (Nat × Bytes × Bool) := none
  deriving DecidableEq, Repr

/-- What a spare receives at adoption (R346 to R348): tables, jobs, shards and mirrored commands; the bytes at SOURCE and the shards that must come
from them; the counts of R348 that the other devices decide, and whether the position's lots run WAIT jobs only. -/
structure AdoptInput where
  tensors     : List TensorImage := []
  jobs        : List JobImage := []
  shards      : List (Lot × ShardImage) := []
  journal     : List MirroredCommand := []
  image       : Bytes := []
  sourced     : List SourceShard := []
  unreachable : Nat := 0
  lostCursors : Nat := 0
  leftJobs    : Nat := 0
  waitOnly    : Bool := false
  deriving DecidableEq, Repr

/-- What the commit that a notice tells of was (R264, R322, R334). -/
inductive NoticeKind where
  | update | init | rewind
  deriving DecidableEq, Repr

/-- What a holder's notice of a commit tells its twin (R322, R334): the step, what the commit was, and the planes of the holder that have reached the
twin before the notice. -/
structure CommitNews where
  step   : Nat
  kind   : NoticeKind
  planes : List ShardImage := []
  deriving DecidableEq, Repr

/-- What a restore reads at SOURCE: the bytes, and whether every other device of the job can restore the step (R338, R339). -/
structure RestoreSource where
  bytes  : Bytes
  others : Bool := true
  deriving DecidableEq, Repr

/-- What the sink of a difference stream has taken: the sink, 0 for the stream in force, else one that has ended (R268), and how far it has come:
CONSUMER of a host ring, or the first record number that a weft port's peer has not stored (R271, R295). -/
structure SinkProgress where
  sink     : Nat := 0
  consumer : Nat
  deriving DecidableEq, Repr

/-- A flit that arrives (R278): its 256 bytes, and the job that its message is for, 0 where it is for none (R283). -/
structure ArrivedFlit where
  bytes : Bytes
  job   : Nat := 0
  deriving DecidableEq, Repr

/-- A negative acknowledgement (R283, R293): its message, and whether the target discarded it as another lot's. -/
structure Nack where
  message : Nat
  foreign : Bool := false
  deriving DecidableEq, Repr

/-- What a user of the box asks an owner for (R259, R260): its lot and physical rank, the job, step and PHASE of its launch, the handle at the
owner, whether its slot is marked for a backward regather, and the version that a regather names. -/
structure GatherRequest where
  lot      : Lot
  user     : Nat
  job      : Nat
  step     : Nat
  phase    : Nat
  handle   : Nat
  shard    : Nat
  regather : Bool := false
  version  : Nat := 0
  deriving DecidableEq, Repr

/-- A working copy as it travels (R259): the handle at the user, the shard, the version, and the scale exponent, and its bits. -/
structure WorkingCopy where
  handle  : Nat
  shard   : Nat
  version : Nat
  scale   : Int := 0
  bits    : Bytes
  deriving DecidableEq, Repr

/-- Why an owner serves no copy (R214, R259, R261, R340). -/
inductive GatherRefusal where
  | unwritten | stale | split | memory
  deriving DecidableEq, Repr

/-- What another owner answers: nothing yet, a copy, or a failure; or no route or resend has reached it (R259, R285, R292). -/
inductive GatherAnswer where
  | waiting
  | copy (c : WorkingCopy)
  | refused (r : GatherRefusal)
  | lost
  deriving DecidableEq, Repr

/-- One end of a gather (R258 to R261): the launch takes a shard that this device owns, into a core's local store; it takes the copy that another
owner sends, or its answer; this device, an owner, serves another user; another user's backward launch has ended and it releases its references. -/
inductive Gather where
  | own
  | remote (answer : GatherAnswer)
  | serve (request : GatherRequest)
  | release (lot : Lot) (user : Nat) (step : Nat) (handle : Nat)
  deriving DecidableEq, Repr

/-- What the peer of a snapshot does (R274). -/
inductive PeerSnapshot where
  | receiver (snapId : Nat) (accepts : Bool)
  | sender (snapId : Nat) (image : Bytes)
  | unreachable
  deriving DecidableEq, Repr

/-- Errors of a solver unit's scratch found at a step boundary (R168). -/
structure ScratchErrors where
  single : Nat := 0
  double : Nat := 0
  deriving DecidableEq, Repr

/-- What the board and the self-tests show a cold start (R413). -/
structure ColdStartInput where
  pllLocks    : Bool := true
  board       : Option Bytes
  imageA      : Bool := true
  imageB      : Bool := true
  badStacks   : List StackId := []
  badClusters : List ClusterId := []
  badCores    : List CoreId := []
  hubOk       : Bool := true
  warnDuring  : Bool := false
  deriving DecidableEq, Repr

/-- What a warm reset meets (R415, R418). Assumption 75, DESIGN CHOICE. -/
structure WarmResetInput where
  writeBackOk  : Bool := true
  imageA       : Bool := true
  imageB       : Bool := true
  badClusters  : List ClusterId := []
  badCores     : List CoreId := []
  fatalReplay  : Bool := false
  warnDuring   : Bool := false
  deriving DecidableEq, Repr

/-- A unit with a power state (R400 to R405). -/
inductive PowerUnit where
  | package | cluster (c : ClusterId) | core (n : CoreId) | stack (m : StackId)
  deriving DecidableEq, Repr

/-- Wake sources (R403). -/
inductive WakeSource where
  | wakeN | queue | work | event | timer | memory | dumpTick | scanHalt
  deriving DecidableEq, Repr

/-- A link that formed on a host sub-port (R352, R354): speed code 1 to 6, lanes, flit mode. -/
structure LinkFormed where
  speed : Nat
  width : Nat
  flit  : Bool
  deriving DecidableEq, Repr

/-- Causes of a detach (R355). -/
inductive DetachCause where
  | linkDown | perst | hotRemoval
  deriving DecidableEq, Repr

/-- SPDM requests by their effect on the security block (R374). -/
inductive SpdmKind where
  | measurements | openSession | closeSession | other
  deriving DecidableEq, Repr

/-- TDISP messages that move an interface's state, STOP_INTERFACE apart (R376). -/
inductive Tdisp where
  | lock | start
  deriving DecidableEq, Repr

/-- MCTP messages (R456). -/
inductive Mctp where
  | control | spdm (request : Bytes) | vendorRead (dieTemperatures : List Nat)
  deriving DecidableEq, Repr

/-- Boundary-scan instructions (R458). -/
inductive Jtag where
  | bypass | idcode | sample | extest | clamp | highz | extestPulse | extestTrain | halt (core : CoreId)
  deriving DecidableEq, Repr

/-- Outcomes of the interplay of a port's training steps (R287). -/
inductive AdaptOutcome where
  | adapted | noLight | failed
  deriving DecidableEq, Repr

end Sys2Proof.Machine

namespace Sys2Proof

open Machine

/-- The commands: one constructor for each row of spec/opcode_table.json. The docstring of a meaning cites its rules. -/
inductive Instr where
  | commandFetch (lot : Lot) (queue : QueueIx) (reads : MemoryReads)
  | journalMirrorAck (lot : Lot) (queue : QueueIx) (host : List HostReturn)
  | commandDispatch (stream : StreamId)
  | commandCommit (stream : StreamId)
  | replyWrite (lot : Lot) (queue : QueueIx)
  | streamOpen (stream : StreamId)
  | streamClose (stream : StreamId)
  | streamFence (stream : StreamId)
  | tensorCreate (stream : StreamId)
  | tensorFree (stream : StreamId)
  | tensorHint (stream : StreamId)
  | tensorPin (stream : StreamId)
  | opLaunch (stream : StreamId) (decl : CodeDecl)
  | graphLaunch (stream : StreamId) (decl : CodeDecl)
  | dmaCopy (stream : StreamId)
  | dmaReshuffle (stream : StreamId)
  | dmaDescriptor (channel : ChannelId) (reads : MemoryReads) (move : Option OperatorMove)
  | mapDeclare (stream : StreamId)
  | mapDeclareQuery (stream : StreamId)
  | redraw (stream : StreamId)
  | collective (stream : StreamId) (peers : List PeerData) (linkLost : Bool)
  | gradDeliver (stream : StreamId) (peers : List PeerData) (peerNonfinite : Bool) (linkLost : Bool)
  | rethread (stream : StreamId) (input : RethreadInput)
  | releaseNotice (job : Nat)
  | shardUpdate (stream : StreamId)
  | stepCommit (stream : StreamId) (input : StepInput)
  | secureNow (stream : StreamId)
  | secureNowRestore (stream : StreamId) (source : RestoreSource)
  | diffStreamCtl (stream : StreamId)
  | diffRecordWrite (job : Nat) (progress : SinkProgress)
  | snapshotShip (stream : StreamId)
  | snapshotPeerMatch (stream : StreamId) (peer : PeerSnapshot)
  | snapshotPeerTimeout (stream : StreamId)
  | digestCheck (stream : StreamId)
  | spareAdopt (stream : StreamId) (input : AdoptInput)
  | adoptionNotice (position : Nat) (gen : Nat) (rejoin : Bool)
  | statsConfig (stream : StreamId)
  | solve (stream : StreamId)
  | solveStart (unit : ClusterId)
  | solverStepBoundary (unit : ClusterId) (errors : ScratchErrors)
  | solveDeadlineExpiry (stream : StreamId)
  | blend (lot : Lot) (factor : Nat) (expert : Nat) (peers : List PeerStats)
  | precondInstall (stream : StreamId)
  | lotCreate (stream : StreamId) (host : List HostReturn)
  | lotDestroy (stream : StreamId)
  | configApply (stream : StreamId) (host : List HostReturn)
  | configRollback (stream : StreamId)
  | configInstall
  | drainLimitExpiry
  | hostRole (stream : StreamId)
  | powerPolicy (stream : StreamId)
  | domainEnable (stream : StreamId)
  | domainDisable (stream : StreamId)
  | pmonConfig (stream : StreamId)
  | watchConfig (stream : StreamId)
  | ledgerAudit (stream : StreamId)
  | selvageRead (stream : StreamId)
  | selftest (stream : StreamId) (faultCode : Nat)
  | sqEnableSet (fn : Fn) (lot : Lot) (queue : QueueIx) (value : BitVec 32)
  | sqEnableClear (fn : Fn) (lot : Lot) (queue : QueueIx) (value : BitVec 32)
  | sqTailWrite (fn : Fn) (lot : Lot) (queue : QueueIx) (value : BitVec 32)
  | rqHeadWrite (fn : Fn) (lot : Lot) (queue : QueueIx) (value : BitVec 32)
  | evqEnableSet (fn : Fn) (lot : Lot) (value : BitVec 32)
  | evqEnableClear (fn : Fn) (lot : Lot) (value : BitVec 32)
  | evqHeadWrite (fn : Fn) (lot : Lot) (value : BitVec 32)
  | evqMaskSet (fn : Fn) (word : Fin 128) (value : BitVec 32)
  | evqMaskClr (fn : Fn) (word : Fin 128) (value : BitVec 32)
  | evqPendSet (fn : Fn) (word : Fin 128) (value : BitVec 32)
  | evqPendClr (fn : Fn) (word : Fin 128) (value : BitVec 32)
  | handlerCompletionWrite (consumer : Fin 260)
  | msixVectorUnmask (fn : Fn) (entry : Nat)
  | dmaEnReq (fn : Fn) (channel : ChannelId)
  | dmaDisReq (fn : Fn) (channel : ChannelId)
  | dmaHaltedClear (fn : Fn) (channel : ChannelId)
  | linkEnReq (fn : Fn) (port : PortId)
  | linkDisReq (fn : Fn) (port : PortId)
  | retrain (fn : Fn) (port : PortId)
  | pwrResetCold (fn : Fn) (value : BitVec 32)
  | pwrResetWarm (fn : Fn) (value : BitVec 32)
  | secHelloStart (fn : Fn) (hostVer : BitVec 8)
  | attachReady (attach : AttachId)
  | registerWrite (fn : Fn) (offset : BitVec 20) (wide : Bool) (value : BitVec 64)
  | registerReadClear (fn : Fn) (offset : BitVec 20) (wide : Bool)
  | powerOn
  | coldStart (input : ColdStartInput)
  | pwrgdFall
  | warmReset (input : WarmResetInput)
  | fatalCondition (stream : Option StreamId)
  | pwrWarnNAssert
  | powerFailFlushDone (warnHigh : Bool) (railsInRange : Bool)
  | railUndervoltage (rail : RailId)
  | railOvervoltage (rail : RailId)
  | thermalTrip
  | thermalThrottle (celsius : Nat)
  | pllLockLoss
  | pllLockRetry (locks : Bool)
  | powerTelemetry (watts10ms : Nat) (watts100ms : Nat)
  | avsbusAck (rail : RailId)
  | avsbusTimeout (rail : RailId)
  | dividerChange
  | c2Entry (unit : PowerUnit) (edge : Option WakeSource)
  | c3Entry (unit : PowerUnit) (edge : Option WakeSource)
  | d0IdleEntry
  | wakeTimerExpiry
  | wakeNAssert
  | wake (unit : PowerUnit) (source : WakeSource)
  | scanHaltRequest (core : CoreId)
  | perstNRelease (attach : AttachId) (link : Option LinkFormed)
  | hostLinkRetry (attach : AttachId) (link : Option LinkFormed)
  | hostDetach (attach : AttachId) (cause : DetachCause)
  | standbyTakeover
  | d3hotEntry (fn : Fn)
  | functionLevelReset (fn : Fn)
  | spdmRequest (attach : AttachId) (kind : SpdmKind) (request : Bytes)
  | ideKmKeyProgram (attach : AttachId) (stream : Fin 5)
  | ideStreamInsecure (attach : AttachId) (stream : Fin 5) (integrity : Bool)
  | tdispRequest (lot : Lot) (message : Tdisp)
  | stopInterface (lot : Lot)
  | mctpMessage (message : Mctp)
  | jtagInstruction (instruction : Jtag)
  | flitReceive (port : PortId) (flit : ArrivedFlit) (fecBad : Bool) (corrected : Nat)
  | replayReceive (port : PortId) (seq : Fin 4096)
  | identityReceive (port : PortId) (record : Bytes)
  | portLinkLoss (port : PortId)
  | laserBiasDone (port : PortId) (ok : Bool)
  | laneAdaptDone (port : PortId) (outcome : AdaptOutcome)
  | fecLock (port : PortId) (locked : Bool)
  | identityResend (port : PortId)
  | identityTimeout (port : PortId)
  | portDownRetry (port : PortId)
  | portDisableTimeout (port : PortId)
  | cutPairNotice (a : Nat) (b : Nat) (cut : Bool)
  | messageNack (nack : Nack)
  | mirrorAck (stream : StreamId) (handle : Nat) (shard : Nat)
  | commitNotice (lot : Lot) (handle : Nat) (shard : Nat) (news : CommitNews)
  | jobDeadlineExpiry (stream : StreamId)
  | fenceTimeout (stream : StreamId)
  | phaseBoundary (job : Nat)
  | shardGather (stream : StreamId) (slot : Nat) (shard : Nat) (gather : Gather) (dest : CoreId × Nat)
  | storageReturn (lot : Lot) (index : Fin 16777216)
  | placementEpoch (lines : List Nat) (traffic : List (Nat × Nat))
  | extentMove (extent : Nat) (errors : List CodewordError)
  | extentRetire (extent : Nat)
  | patrolScrub (addr : Nat) (badSymbols : Nat) (other : Option Bytes)
  | ledgerSramError (ledger : Fin 6) (inst : Nat) (double : Bool)
  | eventRecordAccept
  | holdoffTimerExpiry (lot : Lot)
  | dumpTick (lot : Lot) (lostUnits : List Nat)
  | kernelEntry (core : CoreId) (stream : StreamId)
  | matrixTile (core : CoreId) (tile : Tile)
  | vectorOperation (core : CoreId) (op : VectorOp)
  | broadcastLoad (core : CoreId) (srcs : List Desc) (extents : List Nat)
  | permute (core : CoreId) (op : PermuteOp)
  | shuffle (core : CoreId) (op : ShuffleOp)
  | mxUnpack (core : CoreId) (op : MxOp)
  | mxPack (core : CoreId) (op : MxOp)
  | sp24Pack (core : CoreId) (op : Sp24Op)
  | sp24Unpack (core : CoreId) (op : Sp24Op)
  | bitsPack (core : CoreId) (op : BitsOp)
  | bitsUnpack (core : CoreId) (op : BitsOp)
  | interleave (core : CoreId) (op : InterleaveOp)
  | deinterleave (core : CoreId) (op : InterleaveOp)
  | shuttleDispatch (stream : StreamId) (task : ShuttleTask)
  | atomicAdd (op : Atomic)
  | atomicMin (op : Atomic)
  | atomicMax (op : Atomic)
  | atomicAnd (op : Atomic)
  | atomicOr (op : Atomic)
  | atomicXor (op : Atomic)
  | atomicSwap (op : Atomic)
  | atomicCas (op : Atomic)
  | reductionContribution (region : Nat) (line : Fin 16777216) (index : Nat) (values : List Nat)
  | stackRetrainDone (stack : StackId)
  | jobMatchArrival (stream : StreamId) (member : Nat) (ordinal : Nat) (digest : Nat)
  | srcCommitAck (stream : StreamId) (member : Nat)
  | quotaWaitDeadline (stream : StreamId)
  deriving DecidableEq, Repr

end Sys2Proof
end

