-- ==== Sys2Proof/Machine/State.lean ====
section
/-!
DEFINITION. The state of the SH9 as plain data: every register, queue, table, buffer, counter and mode the manual names,
grouped by the block that holds it, and the queue of waiting commands. The default value of each field is its value after
cold reset; INVENTORY.md lists each with the rule that names it.
-/
namespace Sys2Proof.Machine

/-- Why the block cannot take a command at all. -/
inductive Fault where
  /-- Raised by no meaning: every command answers a next state, and what has not the shape of a command that the device's interfaces carry
  (`Instr.wf`) changes nothing or fails as the manual says. Safe. -/
  | illFormed
  deriving DecidableEq, Repr

/-- Why a command has no meaning in the model. -/
inductive Refusal where
  /-- Raised by an arm of `exec` whose command has no meaning yet. Safe: the model stops. -/
  | notModelled (mnemonic : String)
  deriving DecidableEq, Repr

/-- Status codes (R56 and the windows of R121, R201, R211, R275, R299). -/
inductive Status where
  | ok | acceptedDeferred | okWarmRejected | okReplayed
  | eOpcode | eParam | eAlign | eQuota | ePermission | eDeadlineUnmeetable | eStaleConfig
  | eSequence | eStreamState | eSuperseded | eWrongQueue | eHandle
  | eMxAxis | eShuttleSpace | eSolverRecord | eTagViolation | eAddrUnpinned | eStepOrder | eShardUnwritten | eCoord
  | eDeadlineMissed | eStaleShard | eMemUncorrectable | eLinkLost | eNonfinite | eDigestSplit
  | eFenceTimeout | eJournalLost | ePriorFailed
  | eSparseMeta | eScratchError | eSnapshotGone | eShipPeer | eNoRoute | eFatalDevice
  deriving DecidableEq, Repr

/-- Opcodes (R40). -/
inductive Opcode where
  | streamOpen | streamClose | streamFence
  | tensorCreate | tensorFree | tensorHint | tensorPin
  | opLaunch | graphLaunch
  | dmaCopy | dmaReshuffle
  | mapDeclare | redraw | collective | rethread
  | shardUpdate | stepCommit | secureNow | diffStreamCtl | snapshotShip | digestCheck | spareAdopt
  | statsConfig | solve | precondInstall
  | lotCreate | lotDestroy | configApply | configRollback | hostRole
  | powerPolicy | domainEnable | domainDisable
  | pmonConfig | watchConfig | ledgerAudit | selvageRead | selftest
  deriving DecidableEq, Repr

/-- The common state machine (R406). -/
inductive Dom where
  | disabled | enabling | enabled | disabling
  deriving DecidableEq, Repr

/-- States of a journal entry (R60). A RETIRED entry leaves the journal. -/
inductive JState where
  | accepted | dispatched | staged | committed
  deriving DecidableEq, Repr

/-- What a command waits for (R61). -/
inductive Wait where
  | nothing | quota | conflict | fence | peers | channel | gradient | pendingSlot | gather | solver | ship | drain | mirror | time | shuttle
  deriving DecidableEq, Repr

/-- Extent owners (text before R204). -/
inductive Owner where
  | free | retired | system | lot (tag : Nat)
  deriving DecidableEq, Repr

/-- A status reply that has been decided (R55). `slot` is the RFLAGS and header content but for the phase bit. -/
structure Reply where
  dye         : Nat
  stream      : Nat
  seq         : Nat
  status      : Status
  interim     : Bool := false
  redelivered : Bool := false
  quiet       : Bool := false
  event       : Bool := false
  rejected    : Bool := false
  result0     : Nat := 0
  result1     : Nat := 0
  time        : Nat := 0
  entry       : Option Nat := none
  deriving DecidableEq, Repr

/-- A submission queue and its reply ring (R30). `depth` is DEPTH_LOG2, `rung` whether the doorbell has been rung since fetching last resumed (R32,
R65), `unsettled` a fetched entry waiting for its twin's acknowledgement (R66), `paused` a fetch that met uncorrectable data (R32), `stalled` the
bytes for which fetching waits in a full journal share (R60), `replyHold` that replies wait for the ring to be reached and enabled again (R33),
`ringHost` the old holder of the role, whose memory the rings lie in (R362), `replies` the replies decided and not yet written (R34). -/
structure SubQueue where
  sqBase    : Nat := 0
  sqLoc     : Bool := false
  rqBase    : Nat := 0
  rqLoc     : Bool := false
  enable    : Bool := false
  notify    : Bool := false
  depth     : Nat := 4
  tail      : Nat := 0
  head      : Nat := 0
  rqHead    : Nat := 0
  rqTail    : Nat := 0
  rqPhase   : Bool := true
  stalls    : Nat := 0
  rejects   : Nat := 0
  rung      : Bool := false
  paused    : Bool := false
  stalled   : Nat := 0
  replyHold : Bool := false
  ringHost  : Option Nat := none
  unsettled : Option Bytes := none
  replies   : List Reply := []
  deriving DecidableEq, Repr

/-- A stream context (text before R41). `finals` lists the final replies given: SEQ and whether the command failed; `haltedBy` is the
command whose failure set the halt flag (R58); `closeFailed` that a close has failed and the stream is to be DISABLED after its earlier
commands (R44). -/
structure Stream where
  state       : Dom := .disabled
  queue       : Option (Nat × Nat) := none
  nextSeq     : Nat := 0
  lastFinal   : Option Nat := none
  haltedBy    : Option Nat := none
  closeFailed : Bool := false
  job         : Nat := 0
  mirror      : Bool := false
  pendingOpen : Option Nat := none
  closing     : Bool := false
  jobWide     : Nat := 0
  finals      : List (Nat × Bool) := []
  deriving DecidableEq, Repr

/-- The halt flag (R58). -/
def Stream.halted (s : Stream) : Bool := s.haltedBy.isSome

/-- A fresh extent that stages extent `index` of a tensor (R61). -/
structure StagedExtent where
  tensor : Nat
  index  : Nat
  extent : Nat
  deriving DecidableEq, Repr

/-- Counts of a numerics watch for one tensor (R432). -/
structure WatchCounts where
  written : Nat := 0
  zeros : Nat := 0
  saturated : Nat := 0
  nonfinite : Nat := 0
  deriving DecidableEq, Repr

/-- The retained reduced gradient of one step (R243) with the tensor-wide non-finite bit (R250, R323). `extents`: its device memory. -/
structure Retained where
  step      : Nat
  data      : Bytes
  nonfinite : Bool := false
  extents   : List Nat := []
  deriving DecidableEq, Repr

/-- A pin buffer (R260): the version, its narrowed bits, its scale exponent, one entry of user and step for each reference, and its device
memory. -/
structure PinBuffer where
  version : Nat
  bits    : Bytes
  scale   : Int := 0
  users   : List (Nat × Nat) := []
  extents : List Nat := []
  deriving DecidableEq, Repr

/-- The state of one owned shard beside its master planes (R243, R245, R253, R260, R264, R86, R332, R336). `extents`: the device memory of the
compensation, m and sketch. -/
structure Shard where
  version  : Nat := 0
  flags    : Nat := 0
  step     : Nat := 0
  updates  : Nat := 0
  digest   : Nat := 0
  time     : Nat := 0
  comp     : Bytes := []
  moment   : Bytes := []
  sketch   : Bytes := []
  extents  : List Nat := []
  retained : Option Retained := none
  held     : Option HeldVersion := none
  pins     : List PinBuffer := []
  amax     : List Nat := []
  gathered : List (Nat × Int × Bytes) := []
  split    : Bool := false
  frozen   : List ShardImage := []
  changed  : List Nat := []
  norms    : Nat × Nat × Nat := (0, 0, 0)
  deriving DecidableEq, Repr

/-- A shard state staged by a command: tensor, shard index, the state to install, whether its twin has acknowledged it (R334), and the roots and
statistics contexts that move with it (R328). -/
structure StagedShard where
  tensor : Nat
  index  : Nat
  shard  : Shard
  acked  : Bool := false
  roots  : Option Precond := none
  contexts : List ContextImage := []
  deriving DecidableEq, Repr

/-- What a launch taps for one context of one expert, as configured at its dispatch (R154, R155): the context's key, KIND, the width of a row,
log2 s and φ, whether the weight is an expert weight, and the logical index of the launch's first row on this device (R146, R308). -/
structure LaunchTap where
  key       : Nat
  kind      : Nat
  width     : Nat
  subsample : Nat
  phase     : Nat
  expert    : Bool := false
  origin    : Nat := 0
  deriving DecidableEq, Repr

/-- A descriptor of a DMA command as its chain is read at dispatch (R208, R233): its address, 0 for an inline one, its bytes, and the failure that its
own address, or the addresses that it names, meet: the status, and the address of a violation. -/
structure ChainItem where
  addr  : Nat
  bytes : Bytes
  stop  : Option (Status × Nat) := none
  deriving DecidableEq, Repr

/-- A journal entry (R60). `id` numbers acceptances. `written`: the bytes of tensors that it wrote as data: tensor key, offset and length (R244);
`claims`: the ranges that it may write, taken as it begins (R62). `twins`: the twin copies of gradients that it brings (R322). `saturated`:
saturations of R84 in the launch (R432), and `narrowed` those of the working copies that it gathered, by tensor key. `step`: the step of R316.
`stepInput`, `image`, `reserved`: what a STEP_COMMIT learnt of the box, and the image and the reserved extents of a snapshot (R273); `shipAt`: when
its references were taken (R274); `logAt`: the oldest entry of the selvage log and its next sequence at dispatch (R442). -/
structure Entry where
  id           : Nat
  lot          : Nat
  queue        : Nat
  stream       : Nat
  seq          : Nat
  op           : Opcode
  packet       : Bytes
  args         : Bytes := []
  tbl          : Bytes := []
  blockStatus  : Status := .ok
  phase        : JState := .accepted
  wait         : Wait := .nothing
  status       : Status := .ok
  result0      : Nat := 0
  result1      : Nat := 0
  acceptedAt   : Nat := 0
  dispatchedAt : Nat := 0
  order        : Nat := 0
  step         : Nat := 0
  ran          : Bool := false
  replayed     : Bool := false
  warmRejected : Bool := false
  staging      : List StagedExtent := []
  shards       : List StagedShard := []
  twins        : List (Nat × Nat × Retained) := []
  tensors      : List Nat := []
  extents      : List Nat := []
  decl         : CodeDecl := {}
  taps         : List LaunchTap := []
  ordinal      : Nat := 0
  members      : List Nat := []
  received     : List Nat := []
  saturated    : Nat := 0
  narrowed     : List (Nat × Nat) := []
  written      : List (Nat × Nat × Nat) := []
  claims       : List (Nat × Nat × Nat) := []
  sticky       : Nat := 0
  retry        : Nat := 0
  stepInput    : StepInput := {}
  image        : Option Bytes := none
  reserved     : Nat := 0
  shipAt       : Nat := 0
  logAt        : Nat × Nat := (0, 0)
  chain        : List ChainItem := []
  deriving DecidableEq, Repr

/-- A tensor of a lot's table (R46, R49, R52, R226). `live`: the handle is valid. -/
structure Tensor where
  gen       : Nat
  live      : Bool := true
  committed : Bool := false
  fmt       : Format
  dims      : List Nat
  param     : Bool := false
  block16   : Bool := false
  sparsity  : Nat := 0
  shardDim  : Option Nat := none
  master    : Nat := 0
  sketch    : Nat := 0
  rounding  : Nat := 0
  working   : Nat := 0
  cookie    : Nat := 0
  job       : Nat := 0
  key       : Nat := 0
  size      : Nat := 0
  extents   : List Nat := []
  planGen   : Nat := 0
  pinned    : Bool := false
  mask      : Nat := 0
  phases    : Nat := 0
  cls       : Option Nat := none
  reuse     : Option Nat := none
  lost      : Bool := false
  cursor    : Bool := false
  deriving DecidableEq, Repr

/-- Settings of a difference stream (R268). -/
structure DiffSettings where
  port      : Option Nat := none
  planes    : Nat := 0
  backlog   : Nat := 64
  ring      : Nat := 0
  ringBytes : Nat := 0
  tag       : Nat := 0
  deriving DecidableEq, Repr

/-- A record of a difference stream (R269) waiting in the backlog. -/
structure DiffRecord where
  kind  : Nat
  step  : Nat
  bytes : Bytes
  seq   : Option Nat := none
  deriving DecidableEq, Repr

/-- A running difference stream (R268 to R271). `next` is the SEQ of the next record, `full` whether the next record of every
plane is FULL, `change` a replacement or a stop that waits for STEP_END. -/
structure DiffStream where
  settings : DiffSettings
  next     : Nat := 0
  producer : Nat := 0
  consumer : Nat := 0
  full     : Bool := true
  fullDone : List (Nat × Nat) := []
  change   : Option (Option DiffSettings) := none
  backlog  : List DiffRecord := []
  sent     : List DiffRecord := []
  deriving DecidableEq, Repr

/-- A pending REDRAW (R315). -/
structure PendingMap where
  mask     : Nat
  entries  : List Nat
  fromStep : Nat
  deriving DecidableEq, Repr

/-- The RETHREAD ledger (R329). -/
structure RethreadLedger where
  outPlan : Nat := 0
  outSent : Nat := 0
  inPlan : Nat := 0
  inRecv : Nat := 0
  outBytesPlan : Nat := 0
  outBytesSent : Nat := 0
  inBytesPlan : Nat := 0
  inBytesRecv : Nat := 0
  deriving DecidableEq, Repr

/-- Single-layer and securing state of a job (R263, R264, R266, R306, R315, R329, R332, R336 to R338). `counter` is the job step counter, `jobStep`
the job committed step. By tensor key: `methods` the overrides of SECURE_NOW (1 MIRROR, 2 SECURE), `auto` the method agreed for automatic tensors,
`active` the method in force, `leaving` the pass after which a tensor stops being mirrored, `digestOf` the periods of DIGEST_CHECK, `draining` the
difference streams that a stop or a new sink has ended and whose records are not all stored (R268), `compared` the last step compared and `repaired`
the shards repaired since the last query (assumption 51, DESIGN CHOICE). A job starts in `phase` 0, the forward phase, of step 1: the manual does
not say (assumption 130, DESIGN CHOICE). Of R337: `stepAt` the TIME of the last STEP_COMMIT, `durations` those of the last 1,000 steps that
overlapped no pass, `passRan` whether a pass was open at the last STEP_COMMIT, `passSteps` the durations of the steps that have overlapped it, and
`costSteps` those of the last durable pass. -/
structure Job where
  lot         : Nat := 0
  declared    : Bool := false
  mapGen      : Nat := 0
  origin      : List Nat := [0, 0, 0]
  log2        : List Nat := [0, 0, 0]
  entries     : List Nat := [0, 0, 0, 0, 0]
  fromSteps   : List Nat := [0, 0, 0, 0, 0]
  pendingMap  : Option PendingMap := none
  rethreaded  : List Nat := []
  releasing   : List (Nat × List Nat) := []
  ledger      : RethreadLedger := {}
  counter     : Nat := 0
  jobStep     : Nat := 0
  phase       : Nat := 0
  phaseStep   : Nat := 1
  recovery    : Nat := 0
  nextRecovery : Option Nat := none
  devMtbf     : Nat := 50000
  methods     : List (Nat × Nat) := []
  active      : List (Nat × Nat) := []
  auto        : List (Nat × Nat) := []
  leaving     : List (Nat × Nat) := []
  digestPeriod : Nat := 0
  digestOf    : List (Nat × Nat) := []
  digestForce : List Nat := []
  compared    : Table Nat := []
  repaired    : Table Nat := []
  failures    : Nat := 0
  failureNew  : Bool := false
  tau         : Nat := 0
  lastPass    : Nat := 0
  passOpen    : Option Nat := none
  durable     : Nat := 0
  secured     : Option Nat := none
  secureNext  : Bool := false
  cost        : Nat := 0
  stepAt      : Option Nat := none
  durations   : List Nat := []
  passRan     : Bool := false
  passSteps   : List Nat := []
  costSteps   : List Nat := []
  lastRethread : Option Nat := none
  cursors     : List Nat := []
  frozen      : List (Nat × Nat × Bytes) := []
  diff        : Option DiffStream := none
  draining    : List DiffStream := []
  deriving DecidableEq, Repr

/-- A blend on a solver unit (R157, R178): its lot and step, the parts that are blended as one unit (R160), and the TIME at which it ends. -/
structure BlendJob where
  lot    : Nat
  step   : Nat
  parts  : List BlendPart
  endsAt : Nat := 0
  deriving DecidableEq, Repr

/-- Rows captured into a sample panel (R148): launch, factor key, logical row index, position of the first value, values. -/
structure PanelRow where
  entry  : Nat
  factor : Nat
  row    : Nat
  origin : Nat
  values : List Nat
  deriving DecidableEq, Repr

/-- Where an admitted solve is (R161, R196). -/
inductive SolveAt where
  | waiting | running (unit : Nat) | suspended | finished
  deriving DecidableEq, Repr

/-- What a solve computes (R179 to R187): a failure with its cause and the iterations completed before it, the residual, k, the
exponent, the output and auxiliary elements, and the content of a solver record. -/
structure SolveResult where
  failure  : Option (Nat × Nat) := none
  early    : Bool := false
  residual : Nat := 0
  k        : Int := 0
  expo     : Nat := 0
  out      : List Nat := []
  aux      : List Nat := []
  content  : List Int := []
  deriving DecidableEq, Repr

/-- An admitted solve (R161, R188, R190, R195): its ranking keys, its inputs as referenced at dispatch, and its progress. `after`: the
entries whose staged outputs it reads. -/
structure Solve where
  entry     : Nat
  lot       : Nat
  stream    : Nat
  priority  : Nat
  deadline  : Nat
  admitted  : Nat
  place     : SolveAt := .waiting
  fn        : Nat
  variant   : Nat := 0
  iters     : Nat := 0
  width     : Nat := 0
  blockN    : Nat := 1
  block     : Nat := 0
  expert    : Nat := 0
  rhs       : Nat := 0
  bf16      : Bool := false
  warm      : Bool := false
  factor    : List Nat := []
  record    : Bytes := []
  oldState  : Bytes := []
  pattern   : Nat := 0
  aux       : List Nat := []
  eps       : Nat := 0
  damp      : Nat := 0
  trace     : Nat := 0
  work      : Nat := 0
  cycles    : Nat := 0
  steps     : Nat := 0
  lastUnit  : Nat := 0
  after     : List Nat := []
  factorIn  : Bool := false
  auxIn     : Bool := false
  extents   : List Nat := []
  result    : Option SolveResult := none
  deriving DecidableEq, Repr

/-- A solver unit (R166, R168, R178, R200): the entry of the running solve, the TIME of its start, the TIME until which it overwrites
its scratch; the blend that it runs, and the blends that wait for it, first come first. `scratch` is what its scratch holds of the solve that it
runs: the state that a suspension writes to a save slot (R17, R177, R196; assumption 138, DESIGN CHOICE). -/
structure SolverUnit where
  busy      : Bool := false
  entry     : Nat := 0
  start     : Nat := 0
  wipeUntil : Nat := 0
  corr      : Nat := 0
  uncorr    : Nat := 0
  blend     : Option BlendJob := none
  blends    : List BlendJob := []
  scratch   : Option Nat := none
  deriving DecidableEq, Repr

/-- SOLV_LOT_COUNT of one lot (R200). -/
structure SolveCounts where
  admitted   : Nat := 0
  unmeetable : Nat := 0
  missed     : Nat := 0
  preempted  : Nat := 0
  deriving DecidableEq, Repr

/-- Curvature and solver state. -/
structure Solver where
  contexts : Table StatsCtx := []
  panels   : List PanelRow := []
  preconds : Table Precond := []
  units    : Table SolverUnit := []
  solves   : List Solve := []
  counts   : Table SolveCounts := []
  deriving DecidableEq, Repr

/-- A DMA channel (R234, R240 to R242). `pendingBy`: an enable held in the pending slot, with the command that asked for it. -/
structure DmaChannel where
  state     : Dom := .disabled
  pendingBy : Option (Option Nat) := none
  enabler   : Option Nat := none
  slot      : Option Nat := none
  halted    : Bool := false
  haltIndex : Nat := 0
  haltAddr  : Nat := 0
  done      : Nat := 0
  index     : Nat := 0
  moved     : Nat := 0
  bytes     : Nat := 0
  deriving DecidableEq, Repr

/-- An event or selvage record (R382, R439). `queue`: the lot whose event queue receives it, `none` for selvage-only ones. -/
structure EventRec where
  source  : Nat
  kind    : Nat
  dye     : Nat
  srcSeq  : Nat
  prio    : Nat
  time    : Nat
  payload : Bytes
  queue   : Option Nat
  deriving DecidableEq, Repr

/-- An event queue (R379 to R381, R390, R395). -/
structure EventQueue where
  base     : Nat := 0
  loc      : Bool := false
  enable   : Bool := false
  vectorFn : Bool := false
  threshold : Nat := 0
  depth    : Nat := 6
  head     : Nat := 0
  tail     : Nat := 0
  phase    : Bool := true
  holdoff  : Nat := 0
  kindMask : Nat := 0
  spill    : List EventRec := []
  ring     : List EventRec := []
  messages : Nat := 0
  full     : Nat := 0
  timerAt  : Option Nat := none
  armed    : Bool := false
  deriving DecidableEq, Repr

/-- One event source (R382, R386 to R388, R393, R396). `raised`: its records that the collector has not accepted. -/
structure EventSource where
  count  : Nat := 0
  raised : List EventRec := []
  masked : Bool := false
  prio   : Option Nat := none
  deriving DecidableEq, Repr

/-- An internal consumer of events (R391, R392): `payloads` holds what each source last brought it (R239). Assumption 49, DESIGN CHOICE. -/
structure Consumer where
  threshold : Nat := 0
  running   : List (Nat × Nat) := []
  waiting   : List Nat := []
  again     : List Nat := []
  payloads  : Table Bytes := []
  deriving DecidableEq, Repr

/-- An MSI-X vector (R389): its mask bit, its pending bit and the messages sent through it. Assumption 19, PRESUMED. -/
structure MsixVector where
  masked : Bool := true
  pend   : Bool := false
  sent   : Nat := 0
  deriving DecidableEq, Repr

/-- Event collector, queues and vectors. -/
structure Events where
  queues    : Table EventQueue := []
  sources   : Table EventSource := []
  buffer    : List EventRec := []
  last      : Nat := 0xFFF
  consumers : Table Consumer := []
  vectors   : Table MsixVector := []
  deriving DecidableEq, Repr

/-- A request that the power manager sent over AVSBus (R399). -/
structure RailRequest where
  rail   : Nat
  mv     : Nat
  tries  : Nat := 1
  sentAt : Nat
  back   : Bool := false
  deriving DecidableEq, Repr

/-- A change of performance state in progress (R398). -/
structure PChange where
  target : Nat
  faster : Bool
  acked  : List Nat := []
  ready  : Bool := false
  deriving DecidableEq, Repr

/-- A power domain (R406, R414, R421). -/
structure Domain where
  state     : Dom := .enabled
  pendingBy : Option (Option Nat) := none
  enabler   : Option Nat := none
  faulty    : Bool := false
  cstate    : Nat := 0
  idleSince : Nat := 0
  readyAt   : Nat := 0
  deriving DecidableEq, Repr

/-- A selvage flush slot in flash (R417). -/
structure FlushSlot where
  time    : Nat
  serial  : Nat
  entries : List (Bool × EventRec)
  good    : Bool := true
  deriving DecidableEq, Repr

/-- The power-fail sequence in progress (R416): when it began and the selvage sequence number of its POWER record. -/
structure PowerFail where
  at_    : Nat
  record : Option Nat := none
  deriving DecidableEq, Repr

/-- Values of POWER_POLICY (R408). -/
structure Policy where
  pstate    : Nat := 0xFF
  cap       : Nat := 2800
  c2Delay   : Nat := 10000
  c3Delay   : Nat := 0
  idleDelay : Nat := 100000
  wakeTimer : Nat := 0
  srLots    : Nat := 0
  deriving DecidableEq, Repr

/-- Power, clocks and resets (R22 to R25, R397 to R421, R450 to R454). `lockLost`: the root PLL lost a lock that it had (R454);
`lostTicks`: the units whose dump tick was lost, numbered as in STALE, with its TIME (R404, R429). -/
structure Power where
  pwrgd      : Bool := true
  locked     : Bool := false
  lockLost   : Bool := false
  tripped    : Bool := false
  warnLow    : Bool := false
  stage      : Nat := 1
  image      : Nat := 0
  fallback   : Bool := false
  lastReset  : Nat := 0
  coldCause  : Nat := 0
  pstate     : Nat := 0
  waiting    : Option Nat := none
  change     : Option PChange := none
  rails      : Table Nat := []
  requests   : List RailRequest := []
  avsFail    : Bool := false
  avsRail    : Nat := 0
  avsTarget  : Nat := 0
  policy     : Policy := {}
  wakeAt     : Option Nat := none
  timerWake  : Bool := false
  d0Idle     : Bool := false
  idleSince  : Nat := 0
  wakeEdge   : Bool := false
  wakeKind   : Nat := 0
  wakeUnit   : Nat := 0
  wakeSource : Nat := 0
  wakeTime   : Nat := 0
  wakeLost   : Nat := 0
  lostTicks  : List (Nat × Nat) := []
  watts      : Nat := 0
  lastMove   : Option Nat := none
  lastThermal : Option Nat := none
  clusters   : Table Domain := []
  cores      : Table Domain := []
  stackDoms  : Table Domain := []
  failing    : Option PowerFail := none
  resetAt    : Nat := 0
  coldDue    : Bool := true
  warmDue    : Bool := false
  fatal      : Bool := false
  slots      : List (Option FlushSlot) := [none, none]
  kept       : Option Nat := none
  deriving DecidableEq, Repr

/-- An attachment (R351, R354, R355, R375, R377, R378). `link`: 0 DETACHED, 1 LINK_UP, 2 ATTACHED, 3 REFUSED. Assumption 110, DESIGN CHOICE. -/
structure Attachment where
  link       : Nat := 0
  perst      : Bool := false
  d3hot      : Bool := false
  speed      : Nat := 0
  width      : Nat := 0
  flit       : Bool := false
  hostVer    : Nat := 0
  ready      : Bool := false
  refused    : Bool := false
  started    : Option Nat := none
  sessions   : Nat := 0
  secure     : List Nat := []
  ideFaults  : Nat := 0
  detachedAt : Option Nat := none
  deriving DecidableEq, Repr

/-- A lot's entry in the lot table (R363). -/
structure LotEntry where
  valid        : Bool := false
  ideRequired  : Bool := false
  tdispRequired : Bool := false
  tag          : Nat := 0
  attach       : Nat := 0
  queues       : Nat := 1
  streamBase   : Nat := 0
  streamCount  : Nat := 1
  journalMib   : Nat := 1
  memQuota     : Nat := 0
  pinQuota     : Nat := 0
  scratchMib   : Nat := 0
  cacheWays    : Nat := 1
  solverShare  : Nat := 0
  solveMax     : Nat := 0
  statsMax     : Nat := 0
  hubDma       : Nat := 0
  clusterDma   : Nat := 0
  auxPorts     : Nat := 0
  deriving DecidableEq, Repr

/-- The running state of a lot (R372, R376, R377): `creating` and `destroying` name the commands in progress. -/
structure LotState where
  creating   : Option Nat := none
  destroying : Option Nat := none
  pendingBy  : Option Nat := none
  tdi        : Nat := 0
  deriving DecidableEq, Repr

/-- The policy block of an image (R366). -/
structure ImagePolicy where
  stackCtl    : List (Nat × Bool) := []
  scrubPeriod : Nat := 24
  scrubOn     : Bool := true
  scratchWays : Nat := 6
  recovery    : Nat := 0
  devMtbf     : Nat := 50000
  digest      : Nat := 0
  deriving DecidableEq, Repr

/-- The contents of a configuration image (R366). -/
structure Image where
  systemId : Nat := 0
  role     : Nat := 1
  coord    : Nat := 0x3FFF
  primary  : Nat := 0
  standby  : Option Nat := none
  dims     : Nat := 0
  log2     : List Nat := [0, 0, 0]
  lots     : List LotEntry := []
  links    : List (Bool × Nat) := []
  policy   : ImagePolicy := {}
  retire   : List Nat := []
  deriving DecidableEq, Repr

/-- An installation in progress (R369). -/
structure Install where
  entry   : Nat
  image   : Image
  version : Nat
  keep    : Bool := true
  limitAt : Option Nat := none
  deriving DecidableEq, Repr

/-- What the device sends on its DOE mailboxes, I3C and TDO (R374, R456, R458): an SPDM answer on an attachment or, with `none`, on I3C,
an answer to a control message or to the vendor-defined message, and the identification code. -/
inductive Answer where
  | spdm (attach : Option Nat) (answer : Bytes)
  | control
  | vendor (temperatures rails : List Nat) (state boot : Nat)
  | idcode (value : Nat)
  deriving DecidableEq, Repr

/-- Hosts, lots and configuration. `latches`: by function, the high half of a register that a read of its low half has latched, with its offset
(R7); `readData`: the data of the last register read; `vfSec`: by virtual function, its own HOST_VER and IDE_FAULTS (R378) (R351 to R378).
Assumption 107, DESIGN CHOICE. -/
structure Hosts where
  attaches  : Table Attachment := []
  splits    : List Nat := [0, 0, 0, 0]
  boardMgmt : Nat := 0
  i3cAddr   : Nat := 0
  holder    : Option Nat := none
  standby   : Option Nat := none
  version   : Nat := 0
  image     : Image := {}
  installed : Bool := false
  kept      : Option (Nat × Image) := none
  install   : Option Install := none
  lots      : Table LotState := []
  flr       : Table Nat := []
  latches   : Table (Nat × Nat) := []
  readData  : BitVec 64 := 0
  vfSec     : Table (Nat × Nat) := []
  hostMem   : List Host.Cell := []
  answers   : List Answer := []
  scan      : Jtag := .idcode
  deriving DecidableEq, Repr

/-- What a port sends (R278 to R295): an identity record, a REPLAY of a SEQ, credits returned for a VC, a message of so many bytes, a record of a
difference stream, what an owner answers to a gather, a routed flit passed on, a cut-pair notice, an adoption notice, a negative acknowledgement.
The manual does not give the payloads of control flits, so they stand by their meaning. Assumption 52, DEDUCED. -/
inductive LinkOut where
  | identity (record : Bytes)
  | replay (seq : Nat)
  | credits (vc count : Nat)
  | diff (record : Bytes)
  | routed (flit : Bytes)
  | working (answer : GatherAnswer)
  | cutPair (a b : Nat) (cut : Bool)
  | adopted (position gen : Nat)
  | nack (foreign : Bool)
  deriving DecidableEq, Repr

/-- A flit in a receive buffer (R278). -/
structure HeldFlit where
  vc   : Nat
  seq  : Nat
  data : Bytes
  deriving DecidableEq, Repr

/-- A flit that waits to be transmitted: its fields of R278 beside those that the port adds as it goes out. -/
structure OutFlit where
  vc      : Nat
  kind    : Nat
  pos     : Nat := 3
  tag     : Nat := 0
  len     : Nat := 1
  dest    : Nat := 0
  credVc  : Nat := 0
  credN   : Nat := 0
  payload : Bytes := []
  deriving DecidableEq, Repr

/-- A flit that the retry buffer keeps until its SEQ is acknowledged (R280), with the bytes sent. -/
structure SentFlit where
  vc   : Nat
  seq  : Nat
  data : Bytes
  deriving DecidableEq, Repr

/-- A weft port (R280 to R289, R298). `lstate`: 0 DOWN, 1 TRAINING, 2 IDENTITY, 3 HELD, 4 ACTIVE, 5 MISWIRED, 6 FENCED; `step`
the training step of R287 in progress; `credits` those held for the peer's buffers, `owed` those to return; `waiting` the flits of messages that
the port has taken and not yet transmitted (R282); `asks` the REPLAYs sent for `askedSeq`; `heard` whether a flit of this epoch has arrived in
order, `ackDue` whether its ACK is still to go; `paths` the copies that routed messages in transit have taken, by VC (R292). -/
structure Port where
  state     : Dom := .disabled
  pendingBy : Option (Option Nat) := none
  enabler   : Option Nat := none
  lstate    : Nat := 0
  cause     : Nat := 0
  step      : Nat := 0
  faulty    : Bool := false
  epoch     : Nat := 0
  hasPeer   : Bool := false
  peerId    : Nat := 0
  peerGen   : Nat := 0
  sendSeq   : Nat := 0
  recvSeq   : Nat := 0
  retry     : List SentFlit := []
  waiting   : List OutFlit := []
  buffers   : List HeldFlit := []
  credits   : List Nat := [0, 0, 0, 0, 0, 0, 0, 0]
  owed      : List Nat := [0, 0, 0, 0, 0, 0, 0, 0]
  askedSeq  : Option Nat := none
  asks      : Nat := 0
  heard     : Bool := false
  ackDue    : Bool := false
  paths     : List (Nat × Nat) := []
  replaySeq : Nat := 0
  replayCount : Nat := 0
  adaptFails : Nat := 0
  downCount : Nat := 0
  waitUntil : Nat := 0
  disableAt : Nat := 0
  fecCorr   : Nat := 0
  fecUncorr : Nat := 0
  replays   : Nat := 0
  stale     : Nat := 0
  tagDrop   : Nat := 0
  deriving DecidableEq, Repr

/-- A message in flight on a port (R285, R325): its number, the entry that issued it, its target, and the resends made. -/
structure Message where
  id      : Nat
  port    : Nat
  entry   : Nat
  target  : Nat
  resends : Nat := 0
  deriving DecidableEq, Repr

/-- Weft ports and the direct network (R276 to R298). `outbox`: the messages given to ports, and `wire` the flits transmitted, in order. -/
structure Links where
  ports    : Table Port := []
  systemId : Nat := 0
  adoptGen : Nat := 0
  role     : Nat := 1
  dims     : Nat := 0
  log2     : List Nat := [0, 0, 0]
  coord    : Nat := 0x3FFF
  cuts     : List (Nat × Nat) := []
  outbox   : List (Nat × LinkOut) := []
  wire     : List (Nat × Bytes) := []
  messages : List Message := []
  deriving DecidableEq, Repr

/-- MEM_STACK_CTL and MEM_STACK_ECC of a stack (R226). -/
structure StackRegs where
  thresh    : Nat := 0x10
  detect8   : Bool := false
  uncorr    : Nat := 0
  scrubCorr : Nat := 0
  corr      : Nat := 0
  deriving DecidableEq, Repr

/-- MEM_UE_ADDR (R226). -/
structure UeAddr where
  valid : Bool := false
  scrub : Bool := false
  kind  : Nat := 0
  dye   : Nat := 0
  addr  : Nat := 0
  deriving DecidableEq, Repr

/-- A move of an extent in progress (R207). -/
structure Move where
  tensor : Nat
  index  : Nat
  from_  : Nat
  to_     : Nat
  deriving DecidableEq, Repr

/-- A declared reduction region (R222). -/
structure Region where
  lot    : Nat
  entry  : Nat
  fn     : RegionFn
  n      : Nat
  tensor : Nat
  offset : Nat
  deriving DecidableEq, Repr

/-- A line-state (R222): partial lines with the size of the subtree each covers, top first, and the window. Its key is region·2^24 + line. -/
structure LineState where
  next   : Nat := 0
  stack  : List (Nat × List Nat) := []
  window : List (Nat × List Nat) := []
  deriving DecidableEq, Repr

/-- A line cached in a slice (R217, R219): its tag, its lot, whether it is dirty, its use stamp, and whether the SRAM that holds it has an
uncorrectable error (R214). -/
structure CacheLine where
  tag   : Nat
  lot   : Nat
  dirty : Bool := false
  used  : Nat := 0
  bad   : Bool := false
  deriving DecidableEq, Repr

/-- A dispatch that has been made (R113, R116): its launch and record, the structure in shared-cache scratch, and the weights of the slots, slot i
of token t at t·K + i. -/
structure ShuttleResult where
  entry   : Nat
  record  : Nat
  bytes   : Bytes
  weights : List Nat
  deriving DecidableEq, Repr

/-- Scratch lines of one slice in use (R218): the slice, the first line and how many. Scratch line p lies in way 15 − p / 4,096, set p mod 4,096. -/
structure ScratchRun where
  slice : Nat
  first : Nat
  count : Nat
  deriving DecidableEq, Repr

/-- Scratch that a launch holds (R116, R148, R210, R222): the lot whose tag its lines carry, and for a line-state the key of that line-state. -/
structure ScratchPiece where
  entry : Nat
  lot   : Nat
  line  : Option Nat := none
  runs  : List ScratchRun
  deriving DecidableEq, Repr

/-- Operations of an atomic (R220). -/
inductive AtomicFn where
  | add | min | max | band | bor | bxor | swap | cas
  deriving DecidableEq, Repr

/-- An atomic that a core has issued (R220, R221): its launch and its lot. Until its slice's queue of its lot has room it is held by its source. -/
structure IssuedAtomic where
  entry  : Nat
  lot    : Nat
  fn     : AtomicFn
  op     : Atomic
  queued : Bool := false
  deriving DecidableEq, Repr

/-- Memory stacks and shared cache (R202 to R227). `orphans`: the extents outside every tensor's map that something still refers to, or that hold
copies of shards (R204, R243); `scratch` holds what is in use of the lots' scratch allotments; `retireWait` the extents due to be
retired, `retireTold` those whose delay an event has reported (R216); `structures` the dispatches of the shuttle (R116); `faulty` the codewords with
symbols in error that no read has met yet, with what is known of the error (R212); `scrubPos` the next codeword of the scrub's pass (R215); `served`,
`traffic` and `epoch` the INDIGO and MADDER lines by stack and the lines by extent of the placement epoch in progress, and its number (R206);
`atomics` the atomics of the slices in the order of their issue, `atomicTurn` the lot a slice serves next, and `atomicOld` the old values last
returned to each core (R220, R221). Assumption 123, DESIGN CHOICE. -/
structure Memory where
  cells      : List Host.Cell := []
  owners     : Table Owner := []
  poison     : List Nat := []
  faulty     : Table (Nat × Option Bytes) := []
  corrected  : Table Nat := []
  retireWait : List Nat := []
  retireTold : List Nat := []
  orphans    : List Nat := []
  moves      : List Move := []
  stackRegs  : Table StackRegs := []
  ue         : UeAddr := {}
  scrubOn    : Bool := true
  scrubPeriod : Nat := 24
  scrubPos   : Nat := 0
  served     : Table Nat := []
  traffic    : Table Nat := []
  epoch      : Nat := 0
  scratchWays : Nat := 6
  plqHandle  : Table Nat := []
  plqExtent  : Table Nat := []
  lotEcc     : Table Nat := []
  scratch    : List ScratchPiece := []
  structures : List ShuttleResult := []
  regions    : Table Region := []
  lines      : Table LineState := []
  cache      : Table CacheLine := []
  useStamp   : Nat := 0
  atomics    : List IssuedAtomic := []
  atomicTurn : Table Nat := []
  atomicOld  : Table (List Nat) := []
  deriving DecidableEq, Repr

/-- A source held in a core's broadcast store (R126). -/
structure HeldSource where
  fmt  : Format
  low  : Nat
  high : Nat
  size : Nat
  deriving DecidableEq, Repr

/-- One bank of a reed half (R98): the format, the element containers of each row or column as they are delivered, the metadata nibbles of a
compressed 2:4 operand, and the scale store. -/
structure ReedBank where
  fmt    : Format := .bf16
  lanes  : List (List Nat) := []
  meta24 : List (List Nat) := []
  scales : List (List Nat) := []
  deriving DecidableEq, Repr

/-- One half of the reed (R98): the A bank and the B bank. -/
structure ReedHalf where
  a : ReedBank := {}
  b : ReedBank := {}
  deriving DecidableEq, Repr

/-- A core's engines: the launch it runs, the sticky summary (R136), scalar registers (R138), predicates (R124), the broadcast store (R126), the
two halves of the reed and the half filled last (R98, R99), and the accumulators by lane row (R75, R102): two banks and the bank of the tile
that accumulates, or, with `wide`, the one FP64 accumulator per lane that the banks hold together, in the first list. -/
structure Core where
  kernel  : Option Nat := none
  sticky  : Nat := 0
  scalars : Table Nat := []
  masks   : Table (List Bool) := []
  held    : List HeldSource := []
  reed    : List ReedHalf := [{}, {}]
  half    : Nat := 0
  accs    : List (List (List Nat)) := [[], []]
  accBank : Nat := 0
  wide    : Bool := false
  deriving DecidableEq, Repr

/-- A performance counter (R422, R443). -/
structure Counter where
  value : Nat := 0
  owner : Option Nat := none
  any   : Bool := false
  sel   : Nat := 0
  deriving DecidableEq, Repr

/-- A lot's periodic dump (R428, R429, R443). `overrun`: the next record carries OVERRUN; `sticky`: the bit of PMON_DUMP_CTL; `last`: the last
record written. -/
structure Dump where
  running  : Bool := false
  ring     : Nat := 0
  period   : Nat := 0
  seq      : Nat := 0
  overrun  : Bool := false
  sticky   : Bool := false
  lastSeq  : Nat := 0
  offset   : Nat := 0
  last     : Bytes := []
  deriving DecidableEq, Repr

/-- A numerics watch (R431 to R435): of STEP windows of a job, or cumulative; the running counts, those of the previous window, its
step, the last ratio and norms, and the causes raised in the window. -/
structure Watch where
  step     : Bool := true
  job      : Nat := 0
  zeroMax  : Nat := 0xFFFF
  satMax   : Nat := 0xFFFF
  nfMax    : Nat := 0xFFFF
  ratioMin : Nat := 0
  ratioMax : Nat := 0x7F800000
  now      : WatchCounts := {}
  before   : WatchCounts := {}
  window   : Nat := 0
  ratio    : Nat := 0
  uNorm    : Nat := 0
  wNorm    : Nat := 0
  nfNorm   : Bool := false
  raised   : List Nat := []
  deriving DecidableEq, Repr

/-- Counters, watches, ledgers and the selvage log (R422 to R445). -/
structure Observe where
  cores     : Table Counter := []
  clusters  : Table Counter := []
  topdown   : Table Nat := []
  dumps     : Table Dump := []
  nwatch    : Table Nat := []
  watches   : Table Watch := []
  log       : List (Nat × Bool × EventRec) := []
  nextLog   : Nat := 0
  logCorr   : Nat := 0
  logUncorr : Nat := 0
  ledCorr   : Nat := 0
  ledUncorr : Nat := 0
  voids     : List (Nat × Nat) := []
  resetPoint : List (Nat × Nat) := []
  lastAudit : Table Nat := []
  deriving DecidableEq, Repr

/-- The model's own bookkeeping: numbers it hands out and the counter behind the free values. -/
structure Counters where
  entry   : Nat := 0
  order   : Nat := 0
  message : Nat := 0
  free    : Nat := 0
  deriving DecidableEq, Repr

/-- A match that another member of a job-wide command has dispatched (R302): the stream, the ordinal, the member's physical rank
and its digest. -/
structure Arrival where
  stream  : Nat
  ordinal : Nat
  member  : Nat
  digest  : Nat
  deriving DecidableEq, Repr

/-- The extents of a collective's SRC, kept until every member that received data has acknowledged its commit (R324). -/
structure SrcRef where
  stream  : Nat
  members : List Nat
  extents : List Nat
  deriving DecidableEq, Repr

/-- The engines of the cores (R17, R122, R124, R136, R138): each core's registers, and the local stores. Byte a of the store
of core n is cell n·2^22 + a. -/
structure Engines where
  cores  : Table Core := []
  stores : List Host.Cell := []
  deriving DecidableEq, Repr

/-- Everything else: the hub, the memory, the ports, the solver units and what the command processor keeps. `lastFetch`: the key of the queue served
last (R32). `regathers`: what the forward gathers of a step have pinned for this device as a user: tensor key, shard, step and version, which the
backward regather names (R260). Assumption 56, DESIGN CHOICE. -/
structure Device where
  time     : Nat := 0
  queues   : Table SubQueue := []
  lastFetch : Nat := 0
  streams  : Table Stream := []
  journal  : List Entry := []
  tensors  : Table Tensor := []
  gens     : Table Nat := []
  shards   : Table Shard := []
  jobs     : Table Job := []
  arrivals : List Arrival := []
  srcRefs  : List SrcRef := []
  mirrors  : List ShardImage := []
  mirrorStaged : List ShardImage := []
  mirrorFrozen : List (Nat × ShardImage) := []
  twinGrads : List (Nat × Nat × Retained) := []
  regathers : List (Nat × Nat × Nat × Nat) := []
  solver   : Solver := {}
  dma      : Table DmaChannel := []
  events   : Events := {}
  power    : Power := {}
  hosts    : Hosts := {}
  links    : Links := {}
  mem      : Memory := {}
  observe  : Observe := {}
  ctr      : Counters := {}
  deriving DecidableEq, Repr

/-- The state of the SH9 block: the commands that wait, first in first out, the device and its engines. -/
structure State where
  pending : List Instr := []
  dev     : Device := {}
  eng     : Engines := {}
  deriving DecidableEq, Repr

/-- The state right after reset: a device held at the start of a cold start, with every field at its reset value. -/
def State.reset : State := {}

end Sys2Proof.Machine
end

