-- ==== Sys2Proof/Machine/Bits.lean ====
section
/-!
DEFINITION. Little-endian byte strings (R3), bit fields ([hi:lo], 00_scope notation), saturating counts, and the operations
of sparse tables. Byte memories are tables whose unlisted cells read as one default byte.
-/
namespace Sys2Proof.Machine

/-- The number a byte string spells, byte 0 least significant (R3). -/
def leNat : Bytes → Nat
  | [] => 0
  | b :: t => b.toNat + 256 * leNat t

/-- The `n` low bytes of a number, byte 0 least significant (R3). -/
def toLE : Nat → Nat → Bytes
  | 0, _ => []
  | n + 1, v => BitVec.ofNat 8 v :: toLE n (v / 256)

/-- The field of `n` bytes at offset `off` of a packet, record or descriptor (R3). Bytes beyond its end read as 0. -/
def rd (b : Bytes) (off n : Nat) : Nat := leNat ((b.drop off).take n)

/-- A two's-complement field of `n` bytes. -/
def rdInt (b : Bytes) (off n : Nat) : Int :=
  let v := rd b off n
  if v ≥ 2 ^ (8 * n - 1) then (v : Int) - 2 ^ (8 * n) else v

/-- A byte string with `v` placed at `off`; its length does not change. -/
def wrAt (b : Bytes) (off : Nat) (v : Bytes) : Bytes :=
  (b.take off ++ v ++ b.drop (off + v.length)).take b.length

/-- `n` zero bytes. -/
def zeros (n : Nat) : Bytes := List.replicate n 0

/-- A byte string cut or padded with zeros to `n` bytes. -/
def fit (n : Nat) (b : Bytes) : Bytes := (b ++ zeros (n - b.length)).take n

/-- The bits [hi:lo] of a number. -/
def field (v hi lo : Nat) : Nat := v / 2 ^ lo % 2 ^ (hi + 1 - lo)

/-- A number whose bits [hi:lo] are replaced by `x`. -/
def putField (v hi lo x : Nat) : Nat :=
  v / 2 ^ (hi + 1) * 2 ^ (hi + 1) + x % 2 ^ (hi + 1 - lo) * 2 ^ lo + v % 2 ^ lo

/-- A field of value `x` at bit `lo`. -/
def at' (lo x : Nat) : Nat := x * 2 ^ lo

/-- 1 for true. -/
def b2n (b : Bool) : Nat := if b then 1 else 0

/-- Counting that saturates at `cap`. -/
def satAdd (cap a b : Nat) : Nat := min cap (a + b)

/-- ⌈a / b⌉. -/
def ceilDiv (a b : Nat) : Nat := if a % b = 0 then a / b else a / b + 1

/-- `n` rounded up to a multiple of `k`. -/
def roundUp (k n : Nat) : Nat := ceilDiv n k * k

/-- The product of a list of sizes. -/
def prod : List Nat → Nat
  | [] => 1
  | a :: t => a * prod t

/-- The set bits of a mask, lowest first, among the first `n`. -/
def bitsOf (n mask : Nat) : List Nat := (List.range n).filter fun i => mask.testBit i

/-- The smallest e with v ≤ 2^e. -/
def clog2 (v : Nat) : Nat := if v ≤ 1 then 0 else Nat.log2 (v - 1) + 1

/-- Whether `b` is later than `a` in serial arithmetic of `w` bits (R39). -/
def serialLater (w a b : Nat) : Bool :=
  let d := (b + 2 ^ w - a % 2 ^ w) % 2 ^ w
  0 < d && d < 2 ^ (w - 1)

/-- Whether `b` is later than `a` in serial arithmetic of `w` bits that steps over 0 (R254, R371). -/
def serialLater0 (w a b : Nat) : Bool :=
  let d := (b + 2 ^ w - a % 2 ^ w) % 2 ^ w
  let d := if b < a then d - 1 else d
  0 < d && d < 2 ^ (w - 1)

/-- The number after `v` in a `w`-bit numbering that skips 0 (R16, R252, R306, R49). -/
def nextSkip0 (w v : Nat) : Nat := if v + 1 ≥ 2 ^ w then 1 else v + 1

/-! ### Tables -/

/-- The value at a key; `d` where no entry stands. -/
def Tab.look {α : Type} (d : α) : Table α → Nat → α
  | [], _ => d
  | (k', v) :: t, k => if k = k' then v else Tab.look d t k

/-- The entry at a key. -/
def Tab.find {α : Type} : Table α → Nat → Option α
  | [], _ => none
  | (k', v) :: t, k => if k = k' then some v else Tab.find t k

/-- Removes the entry at a key. -/
def Tab.erase {α : Type} (t : Table α) (k : Nat) : Table α := t.filter fun e => e.1 ≠ k

/-- Puts an entry at a key, keeping keys rising. -/
def Tab.insert {α : Type} (v : α) : Table α → Nat → Table α
  | [], k => [(k, v)]
  | (k', v') :: t, k =>
    if k < k' then (k, v) :: (k', v') :: t
    else if k = k' then (k, v) :: t
    else (k', v') :: Tab.insert v t k

/-- Writes a key of a table whose unlisted keys read as `d`: writing `d` removes the entry. -/
def Tab.put {α : Type} [DecidableEq α] (d : α) (v : α) (t : Table α) (k : Nat) : Table α :=
  if v = d then Tab.erase t k else Tab.insert v t k

/-- Keys strictly rising from above `lo`, and no entry equal to the default. -/
def Tab.wfFrom {α : Type} [DecidableEq α] (d : α) : Option Nat → Table α → Bool
  | _, [] => true
  | lo, (k, v) :: t => (match lo with | none => true | some l => decide (l < k)) && decide (v ≠ d) && Tab.wfFrom d (some k) t

/-- The canonical form of a table with a default. -/
def Tab.wf {α : Type} [DecidableEq α] (d : α) (t : Table α) : Bool := Tab.wfFrom d none t

/-! ### Byte memories -/

/-- What a byte that nothing has written reads as (assumption 2, DESIGN CHOICE). -/
def blankByte : Byte := 0

/-- One byte of a memory. -/
def readByte (m : List Host.Cell) (a : Nat) : Byte := Tab.look blankByte m a

/-- A memory with one byte written. -/
def writeByte (m : List Host.Cell) (a : Nat) (b : Byte) : List Host.Cell := Tab.put blankByte b m a

/-- `n` bytes from address `a` upwards. -/
def readBytes (m : List Host.Cell) (a : Nat) : Nat → Bytes
  | 0 => []
  | n + 1 => readByte m a :: readBytes m (a + 1) n

/-- A memory with a byte string written from address `a` upwards. -/
def writeBytes (m : List Host.Cell) (a : Nat) : Bytes → List Host.Cell
  | [] => m
  | b :: t => writeBytes (writeByte m a b) (a + 1) t

/-- A memory with `n` bytes from `a` set to the blank byte: their cells are no longer listed. -/
def blankRange (m : List Host.Cell) (a n : Nat) : List Host.Cell := m.filter fun c => c.1 < a || a + n ≤ c.1

/-- A memory in which the listed cells of a range are also written at a second, blank one. -/
def copyRange (m : List Host.Cell) (a n b : Nat) : List Host.Cell :=
  (m.filter fun c => a ≤ c.1 && c.1 < a + n).foldr (fun c m' => writeByte m' (c.1 - a + b) c.2) m

/-- The canonical form of a byte memory: addresses strictly rising, no blank byte listed. -/
def memWf (m : List Host.Cell) : Bool := Tab.wf blankByte m

end Sys2Proof.Machine
end

