-- ==== Sys2Proof/Machine/Floats.lean ====
section
/-!
DEFINITION. Number formats and their arithmetic (R67 to R90): exact values, one rounding, canonical NaNs, microscaled
blocks, the stochastic generator, digests, and the canonical tree of R140.
-/
namespace Sys2Proof.Machine

/-- A floating-point layout (R67). `nan` is the canonical NaN of R69; `saturates` marks the FP8 narrowings of R84. -/
structure FSpec where
  ebits     : Nat
  mbits     : Nat
  bias      : Nat
  hasInf    : Bool
  nan       : Option Nat
  saturates : Bool := false
  deriving DecidableEq, Repr

/-- FP64 (R67). -/
def fp64 : FSpec := ⟨11, 52, 1023, true, some 0x7FF8000000000000, false⟩
/-- FP32 (R67). -/
def fp32 : FSpec := ⟨8, 23, 127, true, some 0x7FC00000, false⟩
/-- FP16 (R67). -/
def fp16 : FSpec := ⟨5, 10, 15, true, some 0x7E00, false⟩
/-- BF16 (R67). -/
def bf16 : FSpec := ⟨8, 7, 127, true, some 0x7FC0, false⟩
/-- FP8 E4M3 (R67). -/
def e4m3 : FSpec := ⟨4, 3, 7, false, some 0x7F, true⟩
/-- FP8 E5M2 (R67). -/
def e5m2 : FSpec := ⟨5, 2, 15, true, some 0x7E, true⟩
/-- E2M3, the MX6 element (R67). -/
def e2m3 : FSpec := ⟨2, 3, 1, false, none, false⟩
/-- E2M1, the MX4 element (R67). -/
def e2m1 : FSpec := ⟨2, 1, 1, false, none, false⟩
/-- The 48-bit array accumulator (R75). -/
def acc48 : FSpec := ⟨10, 37, 511, true, some 0x7FF000000000, false⟩

/-- An exact value: NaN, an infinity, or ±mant·2^exp. -/
inductive Flt where
  | nan
  | inf (neg : Bool)
  | fin (neg : Bool) (mant : Nat) (exp : Int)
  deriving DecidableEq, Repr

/-- Positive zero. -/
def Flt.zero : Flt := .fin false 0 0

/-- Whether a value is neither finite nor zero. -/
def Flt.nonfinite : Flt → Bool
  | .fin .. => false
  | _ => true

/-- Whether a value is ±0. -/
def Flt.isZero : Flt → Bool
  | .fin _ 0 _ => true
  | _ => false

/-- The code of the largest finite magnitude of a format. -/
def FSpec.maxCode (f : FSpec) : Nat :=
  if f.hasInf then (2 ^ f.ebits - 1) * 2 ^ f.mbits - 1
  else if f.nan.isSome then 2 ^ (f.ebits + f.mbits) - 2
  else 2 ^ (f.ebits + f.mbits) - 1

/-- The value a bit pattern encodes (R67, R68: subnormals are values like any other). -/
def decodeF (f : FSpec) (bits : Nat) : Flt :=
  let neg := bits.testBit (f.ebits + f.mbits)
  let mag := bits % 2 ^ (f.ebits + f.mbits)
  let e := mag / 2 ^ f.mbits
  let m := mag % 2 ^ f.mbits
  if f.hasInf && e = 2 ^ f.ebits - 1 then (if m = 0 then .inf neg else .nan)
  else if !f.hasInf && f.nan.isSome && mag = 2 ^ (f.ebits + f.mbits) - 1 then .nan
  else if e = 0 then .fin neg m (1 - (f.bias : Int) - f.mbits)
  else .fin neg (2 ^ f.mbits + m) ((e : Int) - f.bias - f.mbits)

/-- The outcome of one rounding: the magnitude's code before any overflow rule, whether it is inexact, and whether it
exceeds the largest finite code. -/
structure Rounded where
  code    : Nat
  inexact : Bool
  beyond    : Bool
  deriving DecidableEq, Repr

/-- Rounds mant·2^exp to a format: to nearest, ties to even (R82), or, given 32 random bits, stochastically (R90). -/
def roundMag (f : FSpec) (rnd : Option Nat) (mant : Nat) (exp : Int) : Rounded :=
  if mant = 0 then ⟨0, false, false⟩
  else
    let top : Int := exp + Nat.log2 mant
    let q : Int := max (top - f.mbits) (1 - (f.bias : Int) - f.mbits)
    let sh := q - exp
    let r : Nat × Bool :=
      if sh ≤ 0 then (mant * 2 ^ (-sh).toNat, false)
      else
        let s := sh.toNat
        let low := mant / 2 ^ s
        let rem := mant % 2 ^ s
        let up : Bool := match rnd with
          | none => decide (2 * rem > 2 ^ s) || (decide (2 * rem = 2 ^ s) && low % 2 = 1)
          | some r => decide (rem * 2 ^ 32 / 2 ^ s + r ≥ 2 ^ 32)
        (low + b2n up, decide (rem ≠ 0))
    let code := (q + f.mbits + f.bias - 1).toNat * 2 ^ f.mbits + r.1
    ⟨code, r.2, decide (code > f.maxCode)⟩

/-- A sign and a magnitude code. -/
def FSpec.withSign (f : FSpec) (neg : Bool) (code : Nat) : Nat := b2n neg * 2 ^ (f.ebits + f.mbits) + code

/-- The canonical NaN of a format (R69); a format without one has none of its values here (R83 keeps such blocks apart). -/
def FSpec.canonNan (f : FSpec) : Nat := f.nan.getD f.maxCode

/-- The infinity of a format, or its NaN where it has none (R84). -/
def FSpec.infinity (f : FSpec) (neg : Bool) : Nat :=
  if f.hasInf then f.withSign neg ((2 ^ f.ebits - 1) * 2 ^ f.mbits) else f.canonNan

/-- Encodes a value with one rounding (R80, R82, R84, R90). -/
def encodeR (f : FSpec) (rnd : Option Nat) : Flt → Nat
  | .nan => f.canonNan
  | .inf neg => f.infinity neg
  | .fin neg m e =>
    let r := roundMag f rnd m e
    if r.beyond then (if f.saturates || !f.hasInf then f.withSign neg f.maxCode else f.infinity neg)
    else f.withSign neg r.code

/-- Encodes a value, rounding to nearest with ties to even. -/
def encodeF (f : FSpec) (v : Flt) : Nat := encodeR f none v

/-- Whether encoding a value saturates under R84. -/
def saturatesF (f : FSpec) : Flt → Bool
  | .fin _ m e => f.saturates && (roundMag f none m e).beyond
  | _ => false

/-- The sign of a value; NaN counts as positive (R69). -/
def Flt.sign : Flt → Bool
  | .nan => false
  | .inf n => n
  | .fin n _ _ => n

/-- The negated value. -/
def Flt.neg : Flt → Flt
  | .nan => .nan
  | .inf n => .inf !n
  | .fin n m e => .fin (!n) m e

/-- The magnitude. -/
def Flt.abs : Flt → Flt
  | .nan => .nan
  | .inf _ => .inf false
  | .fin _ m e => .fin false m e

/-- A signed mantissa. -/
def signedMant (neg : Bool) (m : Nat) : Int := if neg then -(m : Int) else m

/-- The value of an integer times a power of two; an exact zero is +0 (R70). -/
def ofSigned (v : Int) (e : Int) : Flt := .fin (v < 0) v.natAbs e

/-- The exact sum (R70, R75). -/
def Flt.add : Flt → Flt → Flt
  | .nan, _ => .nan
  | _, .nan => .nan
  | .inf a, .inf b => if a = b then .inf a else .nan
  | .inf a, _ => .inf a
  | _, .inf b => .inf b
  | .fin na ma ea, .fin nb mb eb =>
    let e := min ea eb
    ofSigned (signedMant na ma * 2 ^ (ea - e).toNat + signedMant nb mb * 2 ^ (eb - e).toNat) e

/-- The exact product (R70, R75). -/
def Flt.mul : Flt → Flt → Flt
  | .nan, _ => .nan
  | _, .nan => .nan
  | .inf a, .inf b => .inf (a != b)
  | .inf a, .fin b m _ => if m = 0 then .nan else .inf (a != b)
  | .fin a m _, .inf b => if m = 0 then .nan else .inf (a != b)
  | .fin a ma ea, .fin b mb eb => .fin (a != b) (ma * mb) (ea + eb)

/-- The quotient, with enough bits and a sticky bit for one later rounding to nearest. -/
def Flt.div : Flt → Flt → Flt
  | .nan, _ => .nan
  | _, .nan => .nan
  | .inf _, .inf _ => .nan
  | .inf a, .fin b _ _ => .inf (a != b)
  | .fin a _ _, .inf b => .fin (a != b) 0 0
  | .fin a ma ea, .fin b mb eb =>
    if mb = 0 then (if ma = 0 then .nan else .inf (a != b))
    else
      let k := 72 + Nat.log2 mb
      let n := ma * 2 ^ k
      .fin (a != b) (2 * (n / mb) + b2n (n % mb ≠ 0)) (ea - eb - k - 1)

/-- The integer square root, bit by bit. -/
def isqrtFrom (n : Nat) : Nat → Nat → Nat
  | 0, r => r
  | b + 1, r => isqrtFrom n b (if (r + 2 ^ b) * (r + 2 ^ b) ≤ n then r + 2 ^ b else r)

/-- ⌊√n⌋. -/
def isqrt (n : Nat) : Nat := isqrtFrom n (Nat.log2 n / 2 + 1) 0

/-- The square root, with a sticky bit for one later rounding to nearest. -/
def Flt.sqrt : Flt → Flt
  | .nan => .nan
  | .inf n => if n then .nan else .inf false
  | .fin n m e =>
    if m = 0 then .fin n 0 0
    else if n then .nan
    else
      let k := 144 + b2n ((e - 144) % 2 ≠ 0)
      let v := m * 2 ^ k
      let r := isqrt v
      .fin false (2 * r + b2n (r * r ≠ v)) ((e - k) / 2 - 1)

/-- `a < b` among numbers; NaN is unordered (R124). -/
def Flt.lt : Flt → Flt → Bool
  | .nan, _ => false
  | _, .nan => false
  | .inf a, .inf b => a && !b
  | .inf a, _ => a
  | _, .inf b => !b
  | .fin na ma ea, .fin nb mb eb =>
    let e := min ea eb
    signedMant na ma * 2 ^ (ea - e).toNat < signedMant nb mb * 2 ^ (eb - e).toNat

/-- Numeric equality, with +0 equal to −0; NaN equals nothing (R124). -/
def Flt.eqv : Flt → Flt → Bool
  | .nan, _ => false
  | _, .nan => false
  | a, b => !a.lt b && !b.lt a

/-- The larger value: NaN if either is NaN, max(+0, −0) = +0 (R139). -/
def Flt.max (a b : Flt) : Flt :=
  match a, b with
  | .nan, _ => .nan
  | _, .nan => .nan
  | a, b => if a.lt b then b else if b.lt a then a else if a.sign then b else a

/-- The smaller value: NaN if either is NaN, min(+0, −0) = −0 (R139). -/
def Flt.min (a b : Flt) : Flt :=
  match a, b with
  | .nan, _ => .nan
  | _, .nan => .nan
  | a, b => if a.lt b then a else if b.lt a then b else if a.sign then a else b

/-- An integer as an exact value. -/
def Flt.ofInt (v : Int) : Flt := ofSigned v 0

/-! ### Operations in one format: exact, then one rounding (R80) -/

/-- a + b, rounded once. -/
def fAdd (f : FSpec) (a b : Nat) : Nat := encodeF f ((decodeF f a).add (decodeF f b))
/-- a − b, rounded once. -/
def fSub (f : FSpec) (a b : Nat) : Nat := encodeF f ((decodeF f a).add (decodeF f b).neg)
/-- a × b, rounded once. -/
def fMul (f : FSpec) (a b : Nat) : Nat := encodeF f ((decodeF f a).mul (decodeF f b))
/-- a × b + c, rounded once. -/
def fFma (f : FSpec) (a b c : Nat) : Nat := encodeF f (((decodeF f a).mul (decodeF f b)).add (decodeF f c))
/-- a / b, rounded once. -/
def fDiv (f : FSpec) (a b : Nat) : Nat := encodeF f ((decodeF f a).div (decodeF f b))
/-- √a, rounded once. -/
def fSqrt (f : FSpec) (a : Nat) : Nat := encodeF f (decodeF f a).sqrt
/-- −a, exact. -/
def fNeg (f : FSpec) (a : Nat) : Nat := encodeF f (decodeF f a).neg
/-- A conversion between two formats, rounded once (R80, R82, R84). -/
def fConv (src dst : FSpec) (a : Nat) : Nat := encodeF dst (decodeF src a)
/-- An integer in a format, rounded to nearest with ties to even (R80). -/
def fOfInt (f : FSpec) (v : Int) : Nat := encodeF f (Flt.ofInt v)
/-- Whether a pattern is an infinity or a NaN. -/
def fNonfinite (f : FSpec) (a : Nat) : Bool := (decodeF f a).nonfinite
/-- Whether a pattern is ±0. -/
def fIsZero (f : FSpec) (a : Nat) : Bool := (decodeF f a).isZero

/-- FP32 1.0. -/
def one32 : Nat := 0x3F800000

/-- Rounds a value to an integer: to nearest with ties to even, or toward zero (R80). -/
def Flt.toInt (towardZero : Bool) : Flt → Int
  | .nan => 0
  | .inf _ => 0
  | .fin n m e =>
    if e ≥ 0 then signedMant n (m * 2 ^ e.toNat)
    else
      let s := (-e).toNat
      let low := m / 2 ^ s
      let rem := m % 2 ^ s
      let up := !towardZero && (decide (2 * rem > 2 ^ s) || (decide (2 * rem = 2 ^ s) && low % 2 = 1))
      signedMant n (low + b2n up)

/-- Floating point to an integer range, with its saturation (R80): the integer and whether it saturated. -/
def toIntRange (towardZero : Bool) (lo hi : Int) (v : Flt) : Int × Bool :=
  match v with
  | .nan => (0, false)
  | .inf n => (if n then lo else hi, true)
  | v =>
    let r := v.toInt towardZero
    if r < lo then (lo, true) else if r > hi then (hi, true) else (r, false)

/-- A two's-complement reading of a `w`-bit pattern. -/
def toSigned (w v : Nat) : Int := if v % 2 ^ w ≥ 2 ^ (w - 1) then (v % 2 ^ w : Nat) - (2 : Int) ^ w else (v % 2 ^ w : Nat)

/-- The `w`-bit pattern of an integer. -/
def ofInt (w : Nat) (v : Int) : Nat := (v % 2 ^ w).toNat

/-! ### Formats of tensors (R47) -/

/-- The floating-point layout of a format that is not microscaled. -/
def Format.spec : Format → Option Machine.FSpec
  | .fp64 => some Machine.fp64
  | .fp32 => some Machine.fp32
  | .fp16 => some Machine.fp16
  | .bf16 => some Machine.bf16
  | .e4m3 => some Machine.e4m3
  | .e5m2 => some Machine.e5m2
  | _ => none

/-- The element layout of a microscaled format (R71). -/
def Format.mxElem : Format → Option Machine.FSpec
  | .mx8 => some Machine.e4m3
  | .mx6 => some Machine.e2m3
  | .mx4 => some Machine.e2m1
  | _ => none

/-- Bits per stored element (R67, R71, R169). -/
def Format.bits : Format → Nat
  | .fp64 => 64
  | .fp32 | .int32 | .s130 => 32
  | .fp16 | .bf16 => 16
  | .e4m3 | .e5m2 | .mx8 | .uint8 | .code => 8
  | .mx6 => 6
  | .mx4 => 4

/-- Format codes (R47). -/
def Format.ofCode : Nat → Option Format
  | 1 => some .fp64
  | 2 => some .fp32
  | 3 => some .fp16
  | 4 => some .bf16
  | 5 => some .e4m3
  | 6 => some .e5m2
  | 7 => some .mx8
  | 8 => some .mx6
  | 9 => some .mx4
  | 10 => some .int32
  | 11 => some .uint8
  | 12 => some .s130
  | 15 => some .code
  | _ => none

/-- Whether a format is microscaled (R71). -/
def Format.isMx (f : Format) : Bool := f.mxElem.isSome

/-! ### Microscaled blocks (R72, R73, R83) -/

/-- The scale 2^(X − 127) times a value (R67). -/
def Flt.scale : Flt → Int → Flt
  | .nan, _ => .nan
  | .inf n, _ => .inf n
  | .fin n m e, x => .fin n m (e + x)

/-- The scale exponent of a block whose largest magnitude is A (R83): the smallest x with A ≤ M·2^x, clamped. -/
def mxExponent (f : FSpec) (a : Flt) : Int :=
  match a with
  | .fin _ m e =>
    if m = 0 then -127
    else
      match decodeF f f.maxCode with
      | .fin _ mm em =>
        let x0 : Int := (e + Nat.log2 m) - (em + Nat.log2 mm)
        let fits := !(Flt.fin false mm (em + x0)).lt (Flt.fin false m e)
        let x := if fits then x0 else x0 + 1
        Max.max (-127) (Min.min 127 x)
      | _ => -127
  | _ => -127

/-- Encodes one block of exact values: its elements and its scale byte (R83); optionally with random bits per element. The elements of a block
with scale 0xFF are free values (assumption 133). -/
def mxEncode (f : FSpec) (vs : List Flt) (rnd : List (Option Nat)) : List Nat × Nat :=
  if vs.any Flt.nonfinite then
    ((List.range vs.length).map fun i => Config.nanBlockElem i % 2 ^ (1 + f.ebits + f.mbits), 0xFF)
  else
    let a := vs.foldl (fun a v => a.max v.abs) Flt.zero
    let x := mxExponent f a
    ((vs.zip (rnd ++ vs.map fun _ => none)).map fun p => encodeR f p.2 (p.1.scale (-x)), (x + 127).toNat)

/-- The value of one element of a block (R73). -/
def mxDecode (f : FSpec) (scale elem : Nat) : Flt :=
  if scale = 0xFF then .nan else (decodeF f elem).scale ((scale : Int) - 127)

/-- Element i of width w of a little-endian bit string (R72). -/
def bitElem (w i : Nat) (b : Bytes) : Nat :=
  let lo := w * i
  rd b (lo / 8) 9 / 2 ^ (lo % 8) % 2 ^ w

/-- Packs elements of width w into bytes (R72). -/
def packBits (w : Nat) (es : List Nat) : Bytes :=
  toLE ((w * es.length + 7) / 8) (es.foldr (fun e acc => acc * 2 ^ w + e % 2 ^ w) 0)

/-! ### Stochastic rounding (R89) -/

/-- The mixing function of R89. -/
def mix64 (z : Nat) : Nat :=
  let m := 2 ^ 64
  let z := z % m
  let z := z ^^^ (z / 2 ^ 30)
  let z := z * 0xBF58476D1CE4E5B9 % m
  let z := z ^^^ (z / 2 ^ 27)
  let z := z * 0x94D049BB133111EB % m
  z ^^^ (z / 2 ^ 31)

/-- The 32 random bits of an element (R89). -/
def srBits (key s use i : Nat) : Nat :=
  let c := (s * 4 % 2 ^ 64) ||| use
  let z := mix64 (key ^^^ mix64 ((c + 0x9E3779B97F4A7C15) % 2 ^ 64))
  mix64 (z ^^^ i) % 2 ^ 32

/-- The tensor key (R89). -/
def tensorKey (job cookie : Nat) : Nat := mix64 (job ^^^ mix64 cookie)

/-! ### Cyclic codes -/

/-- One bit of an MSB-first CRC of width `w`. -/
def crcBits (w poly : Nat) : Nat → Nat → Nat
  | 0, c => c
  | n + 1, c =>
    crcBits w poly n (if c.testBit (w - 1) then (c * 2 % 2 ^ w) ^^^ poly else c * 2 % 2 ^ w)

/-- One byte of an MSB-first CRC. -/
def crcByte (w poly c : Nat) (b : Byte) : Nat := crcBits w poly 8 (c ^^^ (b.toNat * 2 ^ (w - 8)))

/-- The digest: CRC-64 with the ECMA-182 polynomial (R265). -/
def crc64 (bs : Bytes) : Nat := bs.foldl (crcByte 64 0x42F0E1EBA9EA3693) 0

/-- A number of `n` bits in reverse order. -/
def revBits (n v : Nat) : Nat := (List.range n).foldl (fun a i => a * 2 + b2n (v.testBit i)) 0

/-- CRC-32 of IEEE 802.3 (R278; the initial value, reflection and final inversion are those of the standard, assumption 10, PRESUMED). -/
def crc32 (bs : Bytes) : Nat :=
  let c := bs.foldl (fun c b => crcByte 32 0x04C11DB7 c (BitVec.ofNat 8 (revBits 8 b.toNat))) 0xFFFFFFFF
  revBits 32 c ^^^ 0xFFFFFFFF

/-! ### The canonical tree (R140) -/

/-- The largest power of two below n, for n ≥ 2. -/
def treeSplit (n : Nat) : Nat := 2 ^ Nat.log2 (n - 1)

/-- The canonical tree over a list of leaves (R140), with fuel for its depth. -/
def treeFuel {α : Type} (combine : α → α → α) (ident : α) : Nat → List α → α
  | 0, _ => ident
  | fuel + 1, xs =>
    match xs with
    | [] => ident
    | [x] => x
    | xs =>
      let h := treeSplit xs.length
      combine (treeFuel combine ident fuel (xs.take h)) (treeFuel combine ident fuel (xs.drop h))

/-- The canonical tree (R140). An empty list gives the identity. -/
def tree {α : Type} (combine : α → α → α) (ident : α) (xs : List α) : α := treeFuel combine ident (xs.length + 1) xs

/-- A sum's own rounding of its root: an exactly zero sum is +0 whatever its terms' signs, also where it has one term (R70). -/
def sumRoot (x : Nat) : Nat := fAdd fp32 x 0

/-- The FP32 sum in the canonical tree. -/
def treeSum (xs : List Nat) : Nat := sumRoot (tree (fAdd fp32) 0 xs)

/-- FP32 maximum (R139). -/
def f32max (a b : Nat) : Nat := encodeF fp32 ((decodeF fp32 a).max (decodeF fp32 b))
/-- FP32 minimum (R139). -/
def f32min (a b : Nat) : Nat := encodeF fp32 ((decodeF fp32 a).min (decodeF fp32 b))

end Sys2Proof.Machine
end

