-- ==== Sys2Proof/Machine/Ops.lean ====
section
/-!
DEFINITION. The named operations that meanings share: access to the tables of the device, TIME, status codes and opcodes,
raising events (R380 to R388), the journal, and the decision of replies (R55 to R58).
-/
namespace Sys2Proof.Machine

/-- What a command answers. -/
abbrev Out := Host.Outcome State Fault Refusal

/-- A command whose whole effect is on the device. -/
def State.onDev (s : State) (f : Device → Device) : Out := .next { s with dev := f s.dev }

/-! ### Tables of the device -/

/-- The key of queue q of a lot. -/
def queueKey (lot q : Nat) : Nat := lot * 16 + q

/-- Queue q of a lot (R30). -/
def Device.queue (d : Device) (lot q : Nat) : SubQueue := Tab.look {} d.queues (queueKey lot q)

/-- Replaces queue q of a lot. -/
def Device.setQueue (d : Device) (lot q : Nat) (v : SubQueue) : Device :=
  { d with queues := Tab.put {} v d.queues (queueKey lot q) }

/-- A stream context (R41). -/
def Device.stream (d : Device) (i : Nat) : Stream := Tab.look {} d.streams i

/-- Replaces a stream context. -/
def Device.setStream (d : Device) (i : Nat) (v : Stream) : Device := { d with streams := Tab.put {} v d.streams i }

/-- A job's state on this device. -/
def Device.job (d : Device) (j : Nat) : Job := Tab.look {} d.jobs j

/-- Replaces a job's state. -/
def Device.setJob (d : Device) (j : Nat) (v : Job) : Device := { d with jobs := Tab.put {} v d.jobs j }

/-- The entry of a lot in the image in force (R363). -/
def Device.lot (d : Device) (tag : Nat) : LotEntry := d.hosts.image.lots.getD tag {}

/-- The running state of a lot. -/
def Device.lotState (d : Device) (tag : Nat) : LotState := Tab.look {} d.hosts.lots tag

/-- Replaces the running state of a lot. -/
def Device.setLotState (d : Device) (tag : Nat) (v : LotState) : Device :=
  { d with hosts := { d.hosts with lots := Tab.put {} v d.hosts.lots tag } }

/-- A lot under the common state machine (R363, R372, R373). -/
def Device.lotDom (d : Device) (tag : Nat) : Dom :=
  let l := d.lotState tag
  if l.destroying.isSome then .disabling
  else if (d.lot tag).valid then .enabled
  else if l.creating.isSome then .enabling
  else .disabled

/-- An attachment. -/
def Device.attachment (d : Device) (a : Nat) : Attachment := Tab.look {} d.hosts.attaches a

/-- Replaces an attachment. -/
def Device.setAttachment (d : Device) (a : Nat) (v : Attachment) : Device :=
  { d with hosts := { d.hosts with attaches := Tab.put {} v d.hosts.attaches a } }

/-- Whether an attachment is ATTACHED (R354). -/
def Device.attached (d : Device) (a : Nat) : Bool := (d.attachment a).link = 2

/-- The attachment that hosts a lot (R361, R363). -/
def Device.hosting (d : Device) (tag : Nat) : Option Nat :=
  if tag = 0 then d.hosts.holder else some (d.lot tag).attach

/-- A weft port. -/
def Device.port (d : Device) (p : Nat) : Port := Tab.look {} d.links.ports p

/-- Replaces a weft port. -/
def Device.setPort (d : Device) (p : Nat) (v : Port) : Device :=
  { d with links := { d.links with ports := Tab.put {} v d.links.ports p } }

/-- A DMA channel. -/
def Device.channel (d : Device) (x : Nat) : DmaChannel := Tab.look {} d.dma x

/-- Replaces a DMA channel. -/
def Device.setChannel (d : Device) (x : Nat) (v : DmaChannel) : Device := { d with dma := Tab.put {} v d.dma x }

/-- The lot that a channel is granted to (R228): clusters grant their channels 0 to 11, the hub all 64. -/
def Device.channelLot (d : Device) (x : Nat) : Option Nat :=
  (List.range Config.lots).find? fun l =>
    let e := d.lot l
    e.valid && (if x ≥ 512 then e.hubDma.testBit (x - 512)
      else decide (x % 16 < 12) && e.clusterDma.testBit (12 * (x / 16) + x % 16))

/-- A solver unit. -/
def Device.unit (d : Device) (c : Nat) : SolverUnit := Tab.look {} d.solver.units c

/-- Replaces a solver unit. -/
def Device.setUnit (d : Device) (c : Nat) (v : SolverUnit) : Device :=
  { d with solver := { d.solver with units := Tab.put {} v d.solver.units c } }

/-- Admission counts of a lot (R200). -/
def Device.solveCounts (d : Device) (tag : Nat) : SolveCounts := Tab.look {} d.solver.counts tag

/-- Changes the admission counts of a lot. -/
def Device.modCounts (d : Device) (tag : Nat) (f : SolveCounts → SolveCounts) : Device :=
  { d with solver := { d.solver with counts := Tab.put {} (f (d.solveCounts tag)) d.solver.counts tag } }

/-- The event queue of a lot; lot 0's is the management queue (R380). -/
def Device.evq (d : Device) (q : Nat) : EventQueue := Tab.look {} d.events.queues q

/-- Replaces an event queue. -/
def Device.setEvq (d : Device) (q : Nat) (v : EventQueue) : Device :=
  { d with events := { d.events with queues := Tab.put {} v d.events.queues q } }

/-- An event source. -/
def Device.source (d : Device) (s : Nat) : EventSource := Tab.look {} d.events.sources s

/-- Replaces an event source. -/
def Device.setSource (d : Device) (s : Nat) (v : EventSource) : Device :=
  { d with events := { d.events with sources := Tab.put {} v d.events.sources s } }

/-- A power domain of a cluster, core or stack (R406). -/
def Device.cluster (d : Device) (c : Nat) : Domain := Tab.look {} d.power.clusters c
/-- A core's power domain. -/
def Device.coreDom (d : Device) (n : Nat) : Domain := Tab.look {} d.power.cores n
/-- A stack's power domain. -/
def Device.stackDom (d : Device) (m : Nat) : Domain := Tab.look {} d.power.stackDoms m

/-- Replaces a cluster's domain. -/
def Device.setCluster (d : Device) (c : Nat) (v : Domain) : Device :=
  { d with power := { d.power with clusters := Tab.put {} v d.power.clusters c } }
/-- Replaces a core's domain. -/
def Device.setCoreDom (d : Device) (n : Nat) (v : Domain) : Device :=
  { d with power := { d.power with cores := Tab.put {} v d.power.cores n } }
/-- Replaces a stack's domain. -/
def Device.setStackDom (d : Device) (m : Nat) (v : Domain) : Device :=
  { d with power := { d.power with stackDoms := Tab.put {} v d.power.stackDoms m } }

/-- Whether the device is Ready and has stopped for no reset, fault or power failure: it fetches and dispatches (R59, R413,
R415, R416). -/
def Device.running (d : Device) : Bool :=
  d.power.stage = 7 && d.power.locked && d.power.pwrgd && !d.power.tripped && !d.power.fatal
    && d.power.failing.isNone && !d.power.coldDue && !d.power.warmDue

/-- Whether the root PLL supplies clocks, so that TIME counts (R25). -/
def Device.clocked (d : Device) : Bool := d.power.locked && d.power.pwrgd && !d.power.tripped

/-- A command whose whole effect is on the device, while the root PLL supplies clocks: while it does not, only the selvage log and the
sequence of the reset that follows go on (R22, R25). -/
def State.onClocked (s : State) (f : Device → Device) : Out :=
  .next { s with dev := if s.dev.clocked then f s.dev else s.dev }

/-- A fresh 64-bit free value (assumption 3, DESIGN CHOICE). -/
def Device.fresh (d : Device) : Nat × Device :=
  ((Config.freeBits d.ctr.free).toNat, { d with ctr := { d.ctr with free := d.ctr.free + 1 } })

/-! ### Codes -/

/-- Status values (R56, R121, R201, R211, R275, R299). -/
def Status.code : Status → Nat
  | .ok => 0x0000 | .acceptedDeferred => 0x0001 | .okWarmRejected => 0x0002 | .okReplayed => 0x0003
  | .eOpcode => 0x4001 | .eParam => 0x4002 | .eAlign => 0x4003 | .eQuota => 0x4004 | .ePermission => 0x4005
  | .eDeadlineUnmeetable => 0x4006 | .eStaleConfig => 0x4007
  | .eSequence => 0x4020 | .eStreamState => 0x4021 | .eSuperseded => 0x4022 | .eWrongQueue => 0x4023 | .eHandle => 0x4024
  | .eMxAxis => 0x4030 | .eShuttleSpace => 0x4031 | .eSolverRecord => 0x4040
  | .eTagViolation => 0x4050 | .eAddrUnpinned => 0x4051 | .eStepOrder => 0x4060 | .eShardUnwritten => 0x4061 | .eCoord => 0x4070
  | .eDeadlineMissed => 0x8001 | .eStaleShard => 0x8002 | .eMemUncorrectable => 0x8003 | .eLinkLost => 0x8004
  | .eNonfinite => 0x8005 | .eDigestSplit => 0x8006
  | .eFenceTimeout => 0x8020 | .eJournalLost => 0x8021 | .ePriorFailed => 0x8022
  | .eSparseMeta => 0x8030 | .eScratchError => 0x8040 | .eSnapshotGone => 0x8060 | .eShipPeer => 0x8061 | .eNoRoute => 0x8070
  | .eFatalDevice => 0xC001

/-- Whether a final status leaves the stream running (R56): 0x0000 to 0x0003. -/
def Status.good (s : Status) : Bool := s.code ≤ 3

/-- Opcode values (R40). -/
def Opcode.ofCode : Nat → Option Opcode
  | 0x0101 => some .streamOpen | 0x0102 => some .streamClose | 0x0103 => some .streamFence
  | 0x0201 => some .tensorCreate | 0x0202 => some .tensorFree | 0x0203 => some .tensorHint | 0x0204 => some .tensorPin
  | 0x0301 => some .opLaunch | 0x0302 => some .graphLaunch
  | 0x0401 => some .dmaCopy | 0x0402 => some .dmaReshuffle
  | 0x0501 => some .mapDeclare | 0x0502 => some .redraw | 0x0503 => some .collective | 0x0504 => some .rethread
  | 0x0601 => some .shardUpdate | 0x0602 => some .stepCommit | 0x0603 => some .secureNow | 0x0604 => some .diffStreamCtl
  | 0x0605 => some .snapshotShip | 0x0606 => some .digestCheck | 0x0607 => some .spareAdopt
  | 0x0701 => some .statsConfig | 0x0702 => some .solve | 0x0703 => some .precondInstall
  | 0x0801 => some .lotCreate | 0x0802 => some .lotDestroy | 0x0803 => some .configApply | 0x0804 => some .configRollback
  | 0x0805 => some .hostRole
  | 0x0901 => some .powerPolicy | 0x0902 => some .domainEnable | 0x0903 => some .domainDisable
  | 0x0A01 => some .pmonConfig | 0x0A02 => some .watchConfig | 0x0A03 => some .ledgerAudit | 0x0A04 => some .selvageRead
  | 0x0F01 => some .selftest
  | _ => none

/-- Opcodes that only lot 0's queues may carry (R40, R361). -/
def Opcode.management : Opcode → Bool
  | .spareAdopt | .lotCreate | .lotDestroy | .configApply | .configRollback | .hostRole | .powerPolicy | .domainEnable
  | .domainDisable | .ledgerAudit | .selvageRead | .selftest => true
  | _ => false

/-- The state codes of the common state machine (R377, R421). -/
def Dom.code : Dom → Nat
  | .disabled => 0
  | .enabling => 1
  | .enabled => 2
  | .disabling => 3

/-! ### Event sources (R385) -/

/-- Command processor on behalf of a lot. -/
def srcLot (tag : Nat) : Nat := 0x400 + tag
/-- A DMA channel: cluster channels from 0x120, hub channels from 0x320. -/
def srcChannel (x : Nat) : Nat := 0x120 + x
/-- A weft port. -/
def srcPort (p : Nat) : Nat := 0x360 + p
/-- A memory stack. -/
def srcStack (m : Nat) : Nat := 0x3C0 + m
/-- A slice. -/
def srcSlice (c : Nat) : Nat := 0x3E0 + c
/-- A host attachment. -/
def srcAttach (a : Nat) : Nat := 0x440 + a
/-- Configuration. -/
def srcConfig : Nat := 0x450
/-- Power manager. -/
def srcPower : Nat := 0x451
/-- Placement engine. -/
def srcPlacement : Nat := 0x453
/-- Securing and failure handling. -/
def srcSecuring : Nat := 0x454
/-- Numerics watch and ledgers. -/
def srcWatch : Nat := 0x455
/-- Fatal condition. -/
def srcFatal : Nat := 0x456

/-- Default priorities (R385). -/
def defaultPrio (s : Nat) : Nat :=
  if s ≤ 0xFF then 4 else if s ≤ 0x11F then 6 else if s ≤ 0x35F then 4 else if s ≤ 0x3BF then 10
  else if 0x3C0 ≤ s && s ≤ 0x3D3 then 12 else if 0x3E0 ≤ s && s ≤ 0x3FF then 12
  else if 0x400 ≤ s && s ≤ 0x43F then 8 else if 0x440 ≤ s && s ≤ 0x450 then 10
  else if s = 0x451 || s = 0x452 then 13 else if s = 0x453 then 2 else if s = 0x454 then 11
  else if s = 0x455 then 7 else if s = 0x456 then 15 else 0

/-- The priority of a source: EVQ_PRIO (R396), R385 by default. -/
def Device.prio (d : Device) (s : Nat) : Nat := (d.source s).prio.getD (defaultPrio s)

/-- One record raised by a source for one queue, or for the selvage log alone (R382, R439). A kind masked in the queue is not
raised for it, FATAL apart (R384). Assumption 44, DESIGN CHOICE. -/
def Device.raiseRec (d : Device) (src kind dye : Nat) (payload : Bytes) (queue : Option Nat) : Device :=
  let masked := match queue with
    | some q => kind ≠ 3 && (d.evq q).kindMask.testBit kind
    | none => false
  if masked then d
  else
    let s := d.source src
    let r : EventRec :=
      { source := src, kind := kind, dye := dye, srcSeq := s.count % 2 ^ 24, prio := d.prio src, time := d.time,
        payload := fit 16 payload, queue := queue }
    d.setSource src { s with count := s.count + 1, raised := s.raised ++ [r] }

/-- A record for the management queue, dye tag 0 (R380). -/
def Device.raiseMgmt (d : Device) (src kind : Nat) (payload : Bytes) : Device := d.raiseRec src kind 0 payload (some 0)

/-- A record for the queue of a lot (R380). -/
def Device.raiseLot (d : Device) (src kind tag : Nat) (payload : Bytes) : Device := d.raiseRec src kind tag payload (some tag)

/-- Two records, one for a lot's queue and one for the management queue; one record for lot 0 (R380). -/
def Device.raiseBoth (d : Device) (src kind tag : Nat) (payload : Bytes) : Device :=
  if tag = 0 then d.raiseMgmt src kind payload else (d.raiseLot src kind tag payload).raiseMgmt src kind payload

/-- A record that only the selvage log receives (R439). -/
def Device.raiseSelvage (d : Device) (src kind dye : Nat) (payload : Bytes) : Device := d.raiseRec src kind dye payload none

/-- A POWER record (R420): to the management queue. Assumption 83, DESIGN CHOICE. -/
def Device.raisePower (d : Device) (subkind b1 index target : Nat) : Device :=
  d.raiseMgmt srcPower 0x0C ([BitVec.ofNat 8 subkind, BitVec.ofNat 8 b1] ++ toLE 2 index ++ toLE 2 target)

/-! ### Counters of the watch and of performance -/

/-- NWATCH registers of R444 by their index: 0 AMAX_JIT, 1 UNPRECOND, 2 SHARD_SKIP, 3 STATS_EMPTY, 4 STATS_NF, 5 SPLIT_UNIT,
6 SHUTTLE_NF, 7 NF_RESULT, 8 SAT. Each saturates at 0xFFFF_FFFF. -/
def Device.addNwatch (d : Device) (tag k n : Nat) : Device :=
  let key := tag * 16 + k
  if n = 0 then d
  else { d with observe := { d.observe with
      nwatch := Tab.put 0 (satAdd 0xFFFFFFFF (Tab.look 0 d.observe.nwatch key) n) d.observe.nwatch key } }

/-- Whether a counter counts the events of a lot (R422). -/
def Counter.counts (c : Counter) (tag : Nat) : Bool :=
  match c.owner with
  | some o => o = tag || (o = 0 && c.any)
  | none => false

/-- Counts `n` occurrences of a core event for a lot, in each counter that selects it (R422, R424). -/
def Device.countCore (d : Device) (core event tag n : Nat) : Device :=
  if n = 0 then d
  else
    { d with observe := { d.observe with
        cores := d.observe.cores.map fun e =>
          if e.1 / 8 = core && e.2.sel % 1024 = event && e.2.counts tag
          then (e.1, { e.2 with value := (e.2.value + n) % 2 ^ 64 }) else e } }

/-- Counts a vector operation of `n` elements (R424). -/
def Device.countVector (d : Device) (core tag n : Nat) : Device := (d.countCore core 0x008 tag 1).countCore core 0x009 tag n

/-- Whether a counter of a cluster counts an occurrence of an event. -/
def Counter.takes (c : Counter) (event tag qual : Nat) (cls : Option Nat) : Bool :=
  c.sel % 1024 = event && c.counts tag
    && (match cls with | some k => !c.sel.testBit 18 || field c.sel 17 16 = k | none => true)
    && (event < 0x106 || (0x108 ≤ event && event ≤ 0x110) || field c.sel 15 11 = qual)

/-- Counts `n` occurrences of a cluster event for a lot (R422, R425). `qual` and `cls` are the qualifier and traffic class of
the occurrence; stack events count whichever cluster's counter selects them. In level mode the number of FABRIC cycles that the occurrences
fall in, 1 to n, is free (R425). -/
def Device.countCluster (d : Device) (cluster : Option Nat) (event tag n : Nat) (qual : Nat := 0) (cls : Option Nat := none) :
    Device :=
  let hit (e : Nat × Counter) : Bool :=
    (match cluster with | some k => decide (e.1 / 16 = k) | none => true) && e.2.takes event tag qual cls
  if n = 0 || !d.observe.clusters.any hit then d
  else
    let level := d.observe.clusters.any fun e => hit e && e.2.sel.testBit 10
    let (free, d) := if level then d.fresh else (0, d)
    { d with observe := { d.observe with
        clusters := d.observe.clusters.map fun e =>
          if hit e then (e.1, { e.2 with value := (e.2.value + (if e.2.sel.testBit 10 then free % n + 1 else n)) % 2 ^ 64 }) else e } }

/-! ### Ledgers (R436, R437) -/

/-- An instance of a ledger is VOID until an audit after its reset point (R330, R437). Assumption 122, DESIGN CHOICE. -/
def Device.voidLedger (d : Device) (ledger inst : Nat) : Device :=
  let v := (ledger, inst)
  { d with observe := { d.observe with
      voids := d.observe.voids.filter (· ≠ v) ++ [v], resetPoint := d.observe.resetPoint.filter (· ≠ v) } }

/-- Instances of a ledger pass their reset point: an audit may find those that are VOID consistent from now on. -/
def Device.passReset (d : Device) (ledger : Nat) (inst : Nat → Bool) : Device :=
  let hit := d.observe.voids.filter fun (v : Nat × Nat) => v.1 = ledger && inst v.2 && !d.observe.resetPoint.contains v
  { d with observe := { d.observe with resetPoint := d.observe.resetPoint ++ hit } }

/-! ### The journal -/

/-- The journal entry with a given number. -/
def Device.entry (d : Device) (id : Nat) : Option Entry := d.journal.find? fun e => e.id = id

/-- Changes one journal entry. -/
def Device.modEntry (d : Device) (id : Nat) (f : Entry → Entry) : Device :=
  { d with journal := d.journal.map fun e => if e.id = id then f e else e }

/-- Counts saturations of R84 in a launch: for its lot (R444) and for the watches of the tensors it writes (R432). -/
def Device.noteSaturated (d : Device) (e : Entry) (n : Nat) : Device :=
  (d.addNwatch e.lot 8 n).modEntry e.id fun e => { e with saturated := e.saturated + n }

/-- The journal entries of a stream, oldest first. -/
def Device.streamEntries (d : Device) (stream : Nat) : List Entry := d.journal.filter fun e => e.stream = stream

/-- A command in flight: dispatched and neither committed nor failed (R61). -/
def Entry.inFlight (e : Entry) : Bool :=
  (e.phase = .dispatched || e.phase = .staged) && e.status.good

/-- The running entry of a stream with a given opcode: dispatched, not yet staged. -/
def Device.runningEntry (d : Device) (stream : Nat) (op : Opcode) : Option Entry :=
  d.journal.find? fun e => e.stream = stream && e.op = op && e.phase = .dispatched

/-- The journal share that a lot uses, in bytes (R60, R381): entries, held replies and spilled records. -/
def Device.journalUsed (d : Device) (tag : Nat) : Nat :=
  ((d.journal.filter fun e => e.lot = tag).map fun e => 64 + e.args.length + e.tbl.length).sum
    + 32 * ((List.range Config.queuesPerLot).map fun q => (d.queue tag q).replies.length).sum
    + (if tag = 0 then 0 else 32 * (d.evq tag).spill.length)

/-- Whether a lot's fetching pauses (R60, R381): no room for `need` more bytes, or a spill above half of the share. -/
def Device.journalFull (d : Device) (tag need : Nat) : Bool :=
  let share := (d.lot tag).journalMib * 2 ^ 20
  d.journalUsed tag + need > share || (tag ≠ 0 && 64 * (d.evq tag).spill.length > share)

/-- The packet's parameters. -/
def Entry.param (e : Entry) (off n : Nat) : Nat := rd e.packet off n

/-- The ROUTE field of an entry (R35). -/
def Entry.route (e : Entry) : Nat := e.lot * 2 ^ 18 + e.stream

/-! ### Stops of a command that runs -/

/-- Why a running command does not go on: it waits, or it fails. Each carries the device to go on from. -/
inductive Stop where
  | wait (w : Wait) (d : Device)
  | fail (st : Status) (d : Device)
  deriving DecidableEq, Repr

/-- The outcome of a part of a command. -/
abbrev Res (α : Type) := Except Stop α

/-- A check whose failure fails the command. -/
def check (c : Bool) (st : Status) (d : Device) : Res Unit := if c then .ok () else .error (.fail st d)

/-- The value of an option, or failure. -/
def need {α : Type} (o : Option α) (st : Status) (d : Device) : Res α :=
  match o with
  | some a => .ok a
  | none => .error (.fail st d)

/-- Fails the command. -/
def failWith {α : Type} (st : Status) (d : Device) : Res α := .error (.fail st d)

/-- Makes the command wait. -/
def waitFor {α : Type} (w : Wait) (d : Device) : Res α := .error (.wait w d)

end Sys2Proof.Machine
end

