-- ==== Sys2Proof/Machine/Store.lean ====
section
/-!
DEFINITION. Device memory as commands see it: addresses (R202, R203, R217), extents and their owners (R204), placement (R205),
quota (R61, R365), tensors and their planes (R46 to R49, R72, R105, R108), staging and commit (R61), the address checks of R208,
poison (R214) and the shared cache (R217 to R219).
-/
namespace Sys2Proof.Machine

/-! ### Addresses -/

/-- The stack of a device address (R202). -/
def stackOf (a : Nat) : Nat := a / Config.stackBytes

/-- The stack that holds an extent. -/
def extentStack (x : Nat) : Nat := x / Config.extentsPerStack

/-- Pseudo-channel, bank, row and column of an address within its stack (R203). -/
def dramCoord (a : Nat) : Nat × Nat × Nat × Nat :=
  let l := a % Config.stackBytes / 256
  let pc := field l 5 0 ^^^ field l 11 6 ^^^ field l 17 12
  let j := l / 64
  (pc, field j 5 2 ^^^ field j 13 10, j / 64, j % 4)

/-- The home slice of an address (R217). -/
def homeSlice (a : Nat) : Nat :=
  let n := a / 256
  field n 4 0 ^^^ field n 9 5 ^^^ field n 14 10 ^^^ field n 19 15 ^^^ field n 24 20 ^^^ field n 29 25 ^^^ field n 31 30

/-- The set of an address in its slice (R217). -/
def cacheSet (a : Nat) : Nat := field (a / 256) 16 5
/-- The tag of an address in its set (R217). -/
def cacheTag (a : Nat) : Nat := field (a / 256) 31 17

/-- The address of a line from its slice, set and tag (R217): the slice gives N [4:0] by the same xor. -/
def lineAddr (slice set tag : Nat) : Nat :=
  let n := tag * 2 ^ 17 + set * 32
  (n + (slice ^^^ homeSlice (n * 256))) * 256

/-- The key of a cached line. -/
def cacheKey (slice set way : Nat) : Nat := (slice * 4096 + set) * 16 + way

/-- The address of a cached line from its key. -/
def CacheLine.addr (l : CacheLine) (key : Nat) : Nat := lineAddr (key / 65536) (key / 16 % 4096) l.tag

/-! ### Extents -/

/-- The owner of an extent (R204). -/
def Device.owner (d : Device) (x : Nat) : Owner := Tab.look .free d.mem.owners x

/-- The code of an owner in events (R209, R384). -/
def Owner.code : Owner → Nat
  | .free => 0x40
  | .system => 0x41
  | .retired => 0x42
  | .lot t => t

/-- Sets the owner of an extent. -/
def Device.setOwner (d : Device) (x : Nat) (o : Owner) : Device :=
  { d with mem := { d.mem with owners := Tab.put .free o d.mem.owners x } }

/-- Sets an extent's bytes to zero, clears its poison and its cached lines (R204). -/
def Device.zeroExtent (d : Device) (x : Nat) : Device :=
  let lo := x * Config.extentBytes
  { d with mem := { d.mem with
      cells := blankRange d.mem.cells lo Config.extentBytes
      poison := d.mem.poison.filter fun a => a < lo || lo + Config.extentBytes ≤ a
      faulty := d.mem.faulty.filter fun a => a.1 < lo || lo + Config.extentBytes ≤ a.1
      cache := d.mem.cache.filter fun l => l.2.addr l.1 / Config.extentBytes ≠ x
      corrected := Tab.erase d.mem.corrected x } }

/-- Copies the content of an extent into a blank one. -/
def Device.copyExtent (d : Device) (x y : Nat) : Device :=
  { d with mem := { d.mem with
      cells := copyRange d.mem.cells (x * Config.extentBytes) Config.extentBytes (y * Config.extentBytes) } }

/-- Whether a stack takes part in placement (R407). -/
def Device.stackUsable (d : Device) (m : Nat) : Bool := (d.stackDom m).state = .enabled

/-- FREE extents of a stack that placement can use. -/
def Device.freeIn (d : Device) (m : Nat) : Nat :=
  if d.stackUsable m then
    Config.extentsPerStack - (d.mem.owners.filter fun e => extentStack e.1 = m).length
  else 0

/-- The lowest number from `lo` that a table does not list. -/
def firstGap : Nat → Table Owner → Nat
  | lo, [] => lo
  | lo, (k, _) :: t => if k < lo then firstGap lo t else if k = lo then firstGap (lo + 1) t else lo

/-- The lowest-numbered FREE extent of a stack (R205). -/
def Device.lowestFree (d : Device) (m : Nat) : Nat := firstGap (m * Config.extentsPerStack) d.mem.owners

/-- The stack in S with the most FREE extents, the lower index first on a tie (R205). -/
def Device.fullestFree (d : Device) (stackIds : List Nat) : Option Nat :=
  stackIds.foldl (fun best m =>
    if d.freeIn m = 0 then best
    else match best with
      | none => some m
      | some b => if d.freeIn b < d.freeIn m then some m else some b) none

/-- The next stack of S after `prev` in cyclic order that has a FREE extent (R205). -/
def Device.nextStack (d : Device) (stackIds : List Nat) (prev : Nat) : Option Nat :=
  (stackIds.filter (prev < ·) ++ stackIds.filter (· ≤ prev)).find? fun m => d.freeIn m ≠ 0

/-- The stack that placement chooses (R205). `prev`: the stack of the extent placed before; `like`: the stack of the extent
that a staging extent replaces. -/
def Device.chooseStack (d : Device) (stackIds : List Nat) (prev like : Option Nat) : Option Nat :=
  match like with
  | some m => if d.freeIn m ≠ 0 then some m else
      match prev with
      | some p => d.nextStack stackIds p
      | none => d.fullestFree stackIds
  | none =>
    match prev with
    | some p => d.nextStack stackIds p
    | none => d.fullestFree stackIds

/-- The allowed set S of a tensor (R205). -/
def Tensor.stackIds (t : Tensor) : List Nat :=
  if t.pinned && t.mask ≠ 0 then bitsOf Config.memStacks t.mask else List.range Config.memStacks

/-- Gives the chosen FREE extent of a stack to an owner. -/
def Device.giveExtent (d : Device) (m : Nat) (o : Owner) : Nat × Device :=
  let x := d.lowestFree m
  (x, d.setOwner x o)

/-- Extents that hold `n` bytes. -/
def extentsOf (n : Nat) : Nat := ceilDiv n Config.extentBytes

/-! ### What a lot holds (R365) -/

/-- The device memory of a mirror or a frozen copy, and of its held previous version. -/
def ShardImage.copies (i : ShardImage) : List Nat := i.extents ++ (match i.held with | some h => h.extents | none => [])

/-- The device memory of a shard's copies beside its master (R243): compensation, m and sketch, the retained gradient, the held previous version,
the pin buffers, and the frozen copies. -/
def Shard.copies (s : Shard) : List Nat :=
  s.extents ++ (match s.retained with | some r => r.extents | none => []) ++ (match s.held with | some h => h.extents | none => [])
    ++ (s.pins.flatMap fun p => p.extents) ++ (s.frozen.flatMap ShardImage.copies)

/-- Keys of the tensor table: lot and index within the lot (R49). -/
def tensorKeyOf (lot index : Nat) : Nat := lot * 2 ^ 24 + index

/-- Keys of the shard table. -/
def shardKey (tensor shard : Nat) : Nat := tensor * 2 ^ 32 + shard

/-- The key of a factor's context for one expert. -/
def ctxKey (factorKey expert : Nat) : Nat := factorKey * 2 ^ 16 + expert

/-- The lot of a tensor key. -/
def tensorLot (key : Nat) : Nat := key / 2 ^ 24

/-- The lot of a shard key. -/
def shardLot (key : Nat) : Nat := key / 2 ^ 56

/-- Extents that a lot owns in the owner table. -/
def Device.ownedExtents (d : Device) (tag : Nat) : Nat := (d.mem.owners.filter fun e => e.2 = .lot tag).length

/-- Extents held by a lot under R365: owned ones but for the copies of moves in progress, statistics sums, the reservations of snapshots, and
difference-stream backlogs. Assumption 40, DESIGN CHOICE. -/
def Device.heldExtents (d : Device) (tag : Nat) : Nat :=
  d.ownedExtents tag - (d.mem.moves.filter fun m => tensorLot m.tensor = tag).length
    + ((d.solver.contexts.filter fun c => c.1 / 2 ^ 40 = tag).map fun c => extentsOf c.2.bytes).sum
    + ((d.journal.filter fun e => e.lot = tag).map fun e => e.reserved).sum
    + ((d.jobs.filter fun j => j.2.lot = tag).map fun j =>
        ((j.2.diff.toList ++ j.2.draining).map fun s => extentsOf ((s.backlog.map fun r => r.bytes.length).sum)).sum).sum

/-- A lot's quota in extents (R363). -/
def Device.quotaExtents (d : Device) (tag : Nat) : Nat := (d.lot tag).memQuota / Config.extentBytes

/-- The outcome of a take of quota (R61). -/
inductive Take where
  | ok | wait | failThis | failOther (entry : Nat)
  deriving DecidableEq, Repr

/-- What becomes of a command that finds no space (R61): it waits while another command of the lot may free some; otherwise the waiting
command dispatched last fails. -/
def Device.spaceTake (d : Device) (tag : Nat) (id : Nat) : Take :=
  let others := d.journal.filter fun e => e.lot = tag && e.id ≠ id && e.inFlight
  if others.any fun e => e.wait ≠ .quota then .wait
  else
    let mine := match d.entry id with | some e => e.order | none => 0
    match others.find? fun e => e.order > mine with
    | none => .failThis
    | some _ =>
      let last := others.foldl (fun (a : Nat × Nat) e => if e.order > a.1 then (e.order, e.id) else a) (0, 0)
      .failOther last.2

/-- A take of `n` extents of quota by a command (R61). -/
def Device.quotaTake (d : Device) (tag : Nat) (id : Nat) (n : Nat) : Take :=
  if d.heldExtents tag + n ≤ d.quotaExtents tag then .ok else d.spaceTake tag id

/-! ### Tensors -/

/-- Pads to 64 bytes. -/
def pad64 (n : Nat) : Nat := roundUp 64 n

/-- Elements of a tensor. -/
def Tensor.count (t : Tensor) : Nat := prod t.dims

/-- Elements of one microscaled block (R71). -/
def Tensor.blockSize (t : Tensor) : Nat := if t.block16 then 16 else 32

/-- The planes of a tensor: value plane, metadata plane, scale plane and bitmap plane, as offset and length (R72, R105,
R108). Assumption 41, DESIGN CHOICE. -/
def planesOf (fmt : Format) (dims : List Nat) (block16 : Bool) (sparsity : Nat) : List (Nat × Nat) :=
  let n := prod dims
  let values := if sparsity = 1 then n / 2 else n
  let v := ceilDiv (values * fmt.bits) 8
  let m := if sparsity = 1 then ceilDiv n 8 else 0
  let sc := if fmt.isMx then n / (if block16 then 16 else 32) else 0
  let bm := if sparsity = 2 then
      prod (dims.drop 2) * (dims.getD 1 0 / 32) * (ceilDiv (dims.getD 0 0 / 32) 64 * 8)
    else 0
  [(0, v), (pad64 v, m), (pad64 v + pad64 m, sc), (pad64 v + pad64 m + pad64 sc, bm)]

/-- The size of a tensor in bytes, rounded up to 64 (R46, R48, R72, R105). -/
def tensorBytes (fmt : Format) (dims : List Nat) (block16 : Bool) (sparsity : Nat) : Nat :=
  ((planesOf fmt dims block16 sparsity).map fun p => pad64 p.2).sum

/-- A tensor by its key. -/
def Device.tensor (d : Device) (key : Nat) : Option Tensor := Tab.find d.tensors key

/-- Changes a tensor. -/
def Device.modTensor (d : Device) (key : Nat) (f : Tensor → Tensor) : Device :=
  match d.tensor key with
  | some t => { d with tensors := Tab.insert (f t) d.tensors key }
  | none => d

/-- The tensor that a handle names in a lot's table, with its key (R49): `none` for an unknown or stale handle. -/
def Device.lookup (d : Device) (tag handle : Nat) : Option (Nat × Tensor) :=
  let key := tensorKeyOf tag (handle % 2 ^ 24)
  match d.tensor key with
  | some t => if t.live && t.committed && t.gen = handle / 2 ^ 24 then some (key, t) else none
  | none => none

/-- The handle of a tensor. -/
def Tensor.handle (t : Tensor) (key : Nat) : Nat := t.gen * 2 ^ 24 + key % 2 ^ 24

/-- The shard record of a tensor. -/
def Device.shard (d : Device) (tensor i : Nat) : Option Shard := Tab.find d.shards (shardKey tensor i)

/-- Replaces a shard record. -/
def Device.setShard (d : Device) (tensor i : Nat) (s : Shard) : Device :=
  { d with shards := Tab.insert s d.shards (shardKey tensor i) }

/-! ### Bytes of memory -/

/-- The device address of byte `off` of a list of extents. -/
def physAddr (xs : List Nat) (off : Nat) : Nat :=
  xs.getD (off / Config.extentBytes) 0 * Config.extentBytes + off % Config.extentBytes

/-- Bytes of a list of extents. -/
def readSpan (m : List Host.Cell) (xs : List Nat) (off : Nat) : Nat → Bytes
  | 0 => []
  | n + 1 => readByte m (physAddr xs off) :: readSpan m xs (off + 1) n

/-- Memory with bytes written through a list of extents. -/
def writeSpan (m : List Host.Cell) (xs : List Nat) (off : Nat) : Bytes → List Host.Cell
  | [] => m
  | b :: t => writeSpan (writeByte m (physAddr xs off) b) xs (off + 1) t

/-- Codewords of 64 bytes that lie wholly in `n` bytes at `off` of a list of extents. -/
def wholeCodewords (xs : List Nat) (off n : Nat) : List Nat :=
  let lo := ceilDiv off 64
  let hi := (off + n) / 64
  (List.range (hi - lo)).map fun k => physAddr xs ((lo + k) * 64)

/-- Codewords touched by `n` bytes at `off` of a list of extents. -/
def touchedCodewords (xs : List Nat) (off n : Nat) : List Nat :=
  if n = 0 then [] else
  let lo := off / 64
  let hi := ceilDiv (off + n) 64
  (List.range (hi - lo)).map fun k => physAddr xs ((lo + k) * 64)

/-- Writes bytes through a list of extents; a full write of a codeword clears its poison (R214), and any error in it. -/
def Device.writeExtents (d : Device) (xs : List Nat) (off : Nat) (bs : Bytes) : Device :=
  let full := wholeCodewords xs off bs.length
  { d with mem := { d.mem with
      cells := writeSpan d.mem.cells xs off bs
      poison := d.mem.poison.filter fun a => !full.contains a
      faulty := d.mem.faulty.filter fun a => !full.contains a.1 } }

/-- Reads bytes through a list of extents. -/
def Device.readExtents (d : Device) (xs : List Nat) (off n : Nat) : Bytes := readSpan d.mem.cells xs off n

/-- Whether a range of a list of extents touches a poisoned codeword (R214). -/
def Device.poisonedIn (d : Device) (xs : List Nat) (off n : Nat) : Bool :=
  d.mem.poison.any fun p => (touchedCodewords xs off n).contains p

/-- All extents of the device, so that a device address is an offset. -/
def addrExtents (a n : Nat) : List Nat :=
  (List.range (ceilDiv (a % Config.extentBytes + n) Config.extentBytes)).map (a / Config.extentBytes + ·)

/-- Reads device memory by address. -/
def Device.readMem (d : Device) (a n : Nat) : Bytes := readBytes d.mem.cells a n

/-- Writes device memory by address. -/
def Device.writeMem (d : Device) (a : Nat) (bs : Bytes) : Device :=
  d.writeExtents (addrExtents a bs.length) (a % Config.extentBytes) bs

/-- Whether a range of addresses touches a poisoned codeword (R214). -/
def Device.poisonedAt (d : Device) (a n : Nat) : Bool :=
  d.mem.poison.any fun p => a / 64 * 64 ≤ p && p < a + n

/-- A key of host memory: the attachment and the host address. -/
def hostKey (attach addr : Nat) : Nat := attach * 2 ^ 64 + addr % 2 ^ 64

/-- A posted write to the host memory of an attachment (R34, R63, R383). -/
def Device.writeHost (d : Device) (attach addr : Nat) (bs : Bytes) : Device :=
  { d with hosts := { d.hosts with hostMem := writeBytes d.hosts.hostMem (hostKey attach addr) bs } }

/-! ### Traffic (R206, R223, R425) -/

/-- The tag of accesses by Cyenamin and of system work (R209): no lot's, so that only a counter with ANY counts them (R422). -/
def systemTag : Nat := 64

/-- Lines that the stack of an address serves: counted under R425, in the epoch's INDIGO and MADDER lines of the stack, and in the measured traffic of
the extent (R206). `cls`: the traffic class (R223): 0 MADDER, 1 INDIGO, 2 OCHRE, 3 UMBER. -/
def Device.stackLines (d : Device) (tag a n cls : Nat) : Device :=
  let d := d.countCluster none 0x106 tag n (stackOf a) (some cls)
  let bump (t : Table Nat) (k : Nat) : Table Nat := Tab.put 0 (Tab.look 0 t k + n) t k
  { d with mem := { d.mem with
      served := if cls ≤ 1 then bump d.mem.served (stackOf a) else d.mem.served
      traffic := bump d.mem.traffic (a / Config.extentBytes) } }

/-! ### Memory errors (R212 to R216) -/

/-- Marks an extent for retirement (R216). -/
def Device.markRetire (d : Device) (x : Nat) : Device :=
  if d.mem.retireWait.contains x then d else { d with mem := { d.mem with retireWait := d.mem.retireWait ++ [x] } }

/-- An uncorrectable error poisons codewords; it is latched, counted and reported once (R214, R226). -/
def Device.poisonWords (d : Device) (a : Nat) (words : List Nat) (scrub : Bool) : Device :=
  let a := a / 64 * 64
  let m := stackOf a
  let o := d.owner (a / Config.extentBytes)
  let r := Tab.look {} d.mem.stackRegs m
  let (kind, tag) : Nat × Nat := match o with
    | .lot t => (0, t)
    | .system => (1, 0)
    | _ => (2, 0)
  let d := { d with mem := { d.mem with
    poison := d.mem.poison ++ words.filter fun w => !d.mem.poison.contains w
    stackRegs := Tab.put {} { r with uncorr := satAdd 0xFFFF r.uncorr 1 } d.mem.stackRegs m
    ue := if d.mem.ue.valid then d.mem.ue else { valid := true, scrub := scrub, kind := kind, dye := tag, addr := a }
    lotEcc := match o with
      | .lot t => Tab.put 0 (satAdd 0xFFFF (Tab.look 0 d.mem.lotEcc t) 1) d.mem.lotEcc t
      | _ => d.mem.lotEcc } }.markRetire (a / Config.extentBytes)
  let payload := toLE 8 a ++ [0]
  match o with
  | .lot t => d.raiseBoth (srcStack m) 5 t payload
  | _ => d.raiseMgmt (srcStack m) 5 payload

/-- An uncorrectable codeword (R214). -/
def Device.uncorrectable (d : Device) (a : Nat) (scrub : Bool) : Device := d.poisonWords a [a / 64 * 64] scrub

/-- A correction of a codeword, written back as UMBER traffic (R213, R216, R226). -/
def Device.corrected (d : Device) (a : Nat) (scrub : Bool) : Device :=
  let m := stackOf a
  let x := a / Config.extentBytes
  let r := Tab.look {} d.mem.stackRegs m
  let n := Tab.look 0 d.mem.corrected x + 1
  let d := { d with mem := { d.mem with
    corrected := Tab.put 0 n d.mem.corrected x
    stackRegs := Tab.put {} { r with
      corr := satAdd 0xFFFFFFFF r.corr 1, scrubCorr := satAdd 0xFFFF r.scrubCorr (b2n scrub) } d.mem.stackRegs m } }
  let d := d.stackLines systemTag a 1 3
  if r.thresh ≤ n then d.markRetire x else d

/-- What the outer decoder makes of a codeword read with some symbols in error (R212): nothing, a correction, or an uncorrectable
codeword. `other`: the content to which a pattern of more than 4 symbols is miscorrected, where another codeword lies within 4.
Assumption 77, DESIGN CHOICE. -/
def Device.decodeCodeword (d : Device) (a bad : Nat) (other : Option Bytes) (scrub : Bool) : Device :=
  let detect8 := (Tab.look {} d.mem.stackRegs (stackOf a)).detect8
  if bad = 0 then d
  else if detect8 then d.uncorrectable a scrub
  else if bad ≤ 4 then d.corrected a scrub
  else
    match other with
    | some b => (d.corrected a scrub).writeMem a (fit 64 b)
    | none => d.uncorrectable a scrub

/-- A read of a codeword meets the error that it has taken, if any (R213, R214). Assumption 77, DESIGN CHOICE. -/
def Device.meetError (d : Device) (scrub : Bool) (a : Nat) : Device :=
  match Tab.find d.mem.faulty a with
  | some (bad, other) => { d with mem := { d.mem with faulty := Tab.erase d.mem.faulty a } }.decodeCodeword a bad other scrub
  | none => d

/-- A demand read of codewords (R213, R214). -/
def Device.demand (d : Device) (words : List Nat) : Device :=
  if d.mem.faulty.isEmpty then d else words.foldl (fun d a => d.meetError false a) d

/-- The codewords of `n` bytes at an address. -/
def wordsAt (a n : Nat) : List Nat := if n = 0 then [] else (List.range (ceilDiv (a % 64 + n) 64)).map fun k => (a / 64 + k) * 64

/-! ### The shared cache (R217 to R219) -/

/-- Ways that cache memory (R218). -/
def Device.cachedWays (d : Device) : Nat := 16 - d.mem.scratchWays

/-- The lines of a set: way and line. -/
def Device.setLines (d : Device) (slice set : Nat) : List (Nat × CacheLine) :=
  (List.range d.cachedWays).filterMap fun w => (Tab.find d.mem.cache (cacheKey slice set w)).map fun l => (w, l)

/-- The least recently used of some lines. -/
def lruWay (ls : List (Nat × CacheLine)) : Option Nat :=
  (ls.foldl (fun (b : Option (Nat × CacheLine)) l =>
    match b with
    | none => some l
    | some x => if l.2.used < x.2.used then some l else some x) none).map fun x => x.1

/-- The way that a miss of a lot fills (R219). -/
def Device.victim (d : Device) (slice set tag : Nat) : Nat :=
  let ls := d.setLines slice set
  match (List.range d.cachedWays).find? fun w => !ls.any fun l => l.1 = w with
  | some w => w
  | none =>
    let held (t : Nat) : Nat := (ls.filter fun l => l.2.lot = t).length
    let own := ls.filter fun l => l.2.lot = tag
    let beyond := ls.filter fun l => held l.2.lot > (d.lot l.2.lot).cacheWays
    let w := if held tag ≥ (d.lot tag).cacheWays then lruWay own
      else match lruWay beyond with
        | some w => some w
        | none => if own.isEmpty then lruWay ls else lruWay own
    (w <|> lruWay ls).getD 0

/-- A line leaves its slice: a dirty one is written back, and one whose SRAM has an uncorrectable error poisons its codewords (R214). Assumption 141,
DESIGN CHOICE. -/
def Device.evict (d : Device) (key cls : Nat) : Device :=
  match Tab.find d.mem.cache key with
  | none => d
  | some l =>
    let a := l.addr key
    if !l.dirty then d
    else
      let d := (d.countCluster (some (key / 65536)) 0x102 l.lot 1 0 (some cls)).stackLines l.lot a 1 cls
      if l.bad then d.poisonWords a (wordsAt a 256) false else d

/-- One access of a lot to a line: a hit, or a fill by R219; counted under R425. `cls`: the traffic class (R223); `full`: the whole line is written.
-/
def Device.touchLine (d : Device) (tag a cls : Nat) (write : Bool) (full : Bool := false) : Device :=
  let slice := homeSlice a
  let set := cacheSet a
  match (d.setLines slice set).find? fun l => l.2.tag = cacheTag a with
  | some (w, l) =>
    let d := d.countCluster (some slice) 0x100 tag 1 0 (some cls)
    { d with mem := { d.mem with
        useStamp := d.mem.useStamp + 1
        cache := Tab.insert { l with dirty := l.dirty || write, used := d.mem.useStamp + 1, bad := l.bad && !full } d.mem.cache (cacheKey slice set w) } }
  | none =>
    let key := cacheKey slice set (d.victim slice set tag)
    let d := ((d.countCluster (some slice) 0x101 tag 1 0 (some cls)).evict key cls).stackLines tag a 1 cls
    { d with mem := { d.mem with
        useStamp := d.mem.useStamp + 1
        cache := Tab.insert { tag := cacheTag a, lot := tag, dirty := write, used := d.mem.useStamp + 1 } d.mem.cache key } }

/-- Accesses to every line of `n` bytes at `off` of a list of extents. -/
def Device.touchSpan (d : Device) (tag : Nat) (xs : List Nat) (off n cls : Nat) (write : Bool) : Device :=
  if n = 0 then d
  else
    ((List.range (ceilDiv (off + n) 256 - off / 256)).map (off / 256 + ·)).foldl (fun d l =>
      d.touchLine tag (physAddr xs (256 * l)) cls write (write && off ≤ 256 * l && 256 * l + 256 ≤ off + n)) d

/-- Accesses to every line of a range of addresses. -/
def Device.touchRange (d : Device) (tag a n cls : Nat) (write : Bool) : Device :=
  d.touchSpan tag (addrExtents a n) (a % Config.extentBytes) n cls write

/-- Errors strike codewords: those in memory wait for a read, one in the SRAM of a slice spoils a dirty line (R212, R214). They stand in the
operands of the rows that may read memory (assumption 146, DESIGN CHOICE). -/
def Device.strike (d : Device) (errors : List CodewordError) : Device :=
  errors.foldl (fun d e =>
    let a := e.addr / 64 * 64
    if Config.memTop ≤ a then d
    else if e.sram then
      match (d.setLines (homeSlice a) (cacheSet a)).find? fun l => l.2.tag = cacheTag a && l.2.dirty with
      | some (w, l) => { d with mem := { d.mem with cache := Tab.insert { l with bad := true } d.mem.cache (cacheKey (homeSlice a) (cacheSet a) w) } }
      | none => d
    else { d with mem := { d.mem with faulty := Tab.insert (e.bad, e.other) d.mem.faulty a } }) d

/-- A demand read of device memory by address: whether it meets poison, the bytes, and the device after it (R213, R214). -/
def Device.load (d : Device) (a n : Nat) : Bool × Bytes × Device :=
  let d := d.demand (wordsAt a n)
  (d.poisonedAt a n, d.readMem a n, d)

/-! ### Extent maps, staging and commit (R61) -/

/-- The extents of a tensor as a command sees them: the committed map, overlaid with the staging of its own and of the earlier
uncommitted commands of its stream (R42, R61). -/
def Device.viewExtents (d : Device) (e : Entry) (key : Nat) (t : Tensor) : List Nat :=
  let staged := ((d.streamEntries e.stream).filter fun x => x.id ≤ e.id && (x.phase = .dispatched || x.phase = .staged)).flatMap
    fun x => x.staging
  t.extents.zipIdx.map fun p =>
    staged.foldl (fun x s => if s.tensor = key && s.index = p.2 then s.extent else x) p.1

/-- Whether writes to a tensor are made in place (R61): a pinned tensor that is not a PARAMETER tensor. -/
def Tensor.inPlace (t : Tensor) : Bool := t.pinned && !t.param

/-- Whether a range of a tensor, as key, offset and length, meets extents `lo` up to `hi` of the tensor. -/
def spanMeets (key lo hi : Nat) (w : Nat × Nat × Nat) : Bool :=
  w.1 = key && w.2.1 < hi * Config.extentBytes && lo * Config.extentBytes < w.2.1 + w.2.2

/-- Whether an extent of a tensor has an uncommitted write by another stream, staged or made in place, or is claimed by a command
of another stream (R62). -/
def Device.otherWriter (d : Device) (stream : Nat) (key : Nat) (lo hi : Nat) : Bool :=
  d.journal.any fun e => e.stream ≠ stream && (e.phase = .dispatched || e.phase = .staged) && e.status.good &&
    (e.staging.any (fun s => s.tensor = key && lo ≤ s.index && s.index < hi)
      || e.written.any (spanMeets key lo hi) || e.claims.any (spanMeets key lo hi))

/-- A command claims the ranges that it will write, before it writes or stages anything; while a command of another stream has an
uncommitted write to an extent of them, or claims one, it waits (R62). Assumption 125, DEDUCED. -/
def Device.claim (d : Device) (e : Entry) (ranges : List (Nat × Nat × Nat)) : Res Device :=
  let rs := ranges.filter fun r => r.2.2 ≠ 0
  match d.entry e.id with
  | none => .ok d
  | some cur =>
    if rs.all cur.claims.contains then .ok d
    else if rs.any fun r => d.otherWriter e.stream r.1 (r.2.1 / Config.extentBytes) (ceilDiv (r.2.1 + r.2.2) Config.extentBytes) then
      .error (.wait .conflict d)
    else .ok (d.modEntry e.id fun x => { x with claims := x.claims ++ rs.filter fun r => !x.claims.contains r })

/-- The device memory of the copies that a command has staged: those of shards, and the twin copies of gradients (R255, R322). -/
def Entry.copies (e : Entry) : List Nat := (e.shards.flatMap fun s => s.shard.copies) ++ e.twins.flatMap fun g => g.2.2.extents

/-- Whether a copy of a shard, a mirror, or a twin copy of a gradient lies in an extent (R243, R264, R322, R334, R336). -/
def Device.holdsCopy (d : Device) (x : Nat) : Bool :=
  d.shards.any (fun s => s.2.copies.contains x) || d.journal.any (fun e => e.copies.contains x)
    || (d.mirrors ++ d.mirrorStaged ++ d.mirrorFrozen.map fun m => m.2).any (fun i => i.copies.contains x)
    || d.twinGrads.any fun g => g.2.2.extents.contains x

/-- Extents that a command or a solve still refers to, or that a copy lies in (R190, R204, R243, R273, R336). -/
def Device.referenced (d : Device) (x : Nat) : Bool :=
  d.solver.solves.any (fun s => s.extents.contains x) || d.journal.any (fun e => e.extents.contains x)
    || d.srcRefs.any (fun r => r.extents.contains x) || d.holdsCopy x

/-- An extent is no longer due to be retired (R216). -/
def Device.unmarkRetire (d : Device) (x : Nat) : Device :=
  { d with mem := { d.mem with
      retireWait := d.mem.retireWait.filter (· ≠ x), retireTold := d.mem.retireTold.filter (· ≠ x) } }

/-- Returns extents to FREE, zeroed; those still referenced wait among the orphans (R204). An extent marked for retirement is
retired instead (R216). -/
def Device.releaseExtents (d : Device) (xs : List Nat) : Device :=
  xs.foldl (fun d x =>
    if d.referenced x then { d with mem := { d.mem with orphans := d.mem.orphans ++ [x] } }
    else
      let d := d.zeroExtent x
      if d.mem.retireWait.contains x then
        let d := (d.unmarkRetire x).setOwner x .retired
        d.raiseMgmt (srcStack (extentStack x)) 5 (toLE 8 (x * Config.extentBytes) ++ [1])
      else d.setOwner x .free) d

/-- A write reaches extents: a move of one of them is abandoned and its copy freed (R207). -/
def Device.writeReaches (d : Device) (xs : List Nat) : Device :=
  let gone := d.mem.moves.filter fun m => xs.contains m.from_
  if gone.isEmpty then d
  else
    { d with mem := { d.mem with moves := d.mem.moves.filter fun m => !xs.contains m.from_ } }.releaseExtents
      (gone.map fun (m : Move) => m.to_)

/-- A write by the device itself to the committed extents of a tensor, made in place (R207, R214): its lines carry the lot and the traffic class of
the work that makes it (R223). -/
def Device.writeCommitted (d : Device) (t : Tensor) (off : Nat) (bs : Bytes) (tag cls : Nat) : Device :=
  ((d.writeExtents t.extents off bs).touchSpan tag t.extents off bs.length cls true).writeReaches t.extents

/-- Frees the orphans that nothing refers to any more. -/
def Device.sweepOrphans (d : Device) : Device :=
  let (kept, gone) := d.mem.orphans.partition d.referenced
  { d with mem := { d.mem with orphans := kept } }.releaseExtents gone

/-- Releases what a launch holds in the shared cache: sample panels, dispatch structures, reduction line-states and queued atomics (R116, R148, R221,
R222). What scratch held is gone with it (R204). -/
def Device.dropScratch (d : Device) (id : Nat) : Device :=
  { d with
    mem := { d.mem with
      scratch := d.mem.scratch.filter fun s => s.1 ≠ id
      structures := d.mem.structures.filter fun s => s.entry ≠ id
      regions := d.mem.regions.filter fun r => r.2.entry ≠ id
      lines := d.mem.lines.filter fun l => l.1 / 2 ^ 40 ≠ id
      atomics := d.mem.atomics.filter fun a => a.entry ≠ id }
    solver := { d.solver with panels := d.solver.panels.filter fun p => p.entry ≠ id } }

/-! ### Shared-cache scratch (R210, R218) -/

/-- The runs of scratch lines in use in a slice, each as first line and end. -/
def Device.scratchInUse (d : Device) (slice : Nat) : List (Nat × Nat) :=
  (d.mem.scratch.flatMap fun p => p.runs).filterMap fun r => if r.slice = slice then some (r.first, r.first + r.count) else none

/-- Scratch lines of a slice that a lot uses (R218). -/
def Device.scratchLines (d : Device) (tag slice : Nat) : Nat :=
  (((d.mem.scratch.filter fun p => p.lot = tag).flatMap fun p => p.runs).map fun r => if r.slice = slice then r.count else 0).sum

/-- Lines of each slice that an allotment of so many MiB gives: 64 KiB for each 2 MiB (R218). -/
def allotted (mib : Nat) : Nat := 128 * mib

/-- The fixed scratch lines of a lot in each slice, as first line and end: the allotments follow one another in the order of the dye tags (R210,
R218). Assumption 32, DESIGN CHOICE. -/
def Device.allotment (d : Device) (tag : Nat) : Nat × Nat :=
  let lo := ((List.range tag).map fun t => allotted (d.lot t).scratchMib).sum
  (lo, min (lo + allotted (d.lot tag).scratchMib) (4096 * d.mem.scratchWays))

/-- The parts of some ranges that a run does not cover. -/
def cutRanges (ivs : List (Nat × Nat)) (r : Nat × Nat) : List (Nat × Nat) :=
  (ivs.flatMap fun v => [(v.1, min v.2 r.1), (max v.1 r.2, v.2)]).filter fun v => v.1 < v.2

/-- The free scratch lines of a lot in a slice, as ranges (R218): a line in use stays where it is until it is released. -/
def Device.scratchFree (d : Device) (tag slice : Nat) : List (Nat × Nat) :=
  (d.scratchInUse slice).foldl cutRanges ([d.allotment tag].filter fun v => v.1 < v.2)

/-- How many lines some ranges hold. -/
def rangesSize (ivs : List (Nat × Nat)) : Nat := (ivs.map fun v => v.2 - v.1).sum

/-- The first `n` lines of some ranges, as runs of a slice. -/
def takeLines (slice : Nat) : Nat → List (Nat × Nat) → List ScratchRun
  | _, [] => []
  | n, v :: rest =>
    let k := min n (v.2 - v.1)
    if k = 0 then [] else { slice := slice, first := v.1, count := k } :: takeLines slice (n - k) rest

/-- The lines of a slice that `n` bytes take, spread over the slices from slice 0 up. Assumption 32, DESIGN CHOICE. -/
def spreadLines (n slice : Nat) : Nat := (ceilDiv n 256 + Config.clusters - 1 - slice) / Config.clusters

/-- Whether `n` more bytes, spread over the slices, fit the scratch allotment of a lot (R218). -/
def Device.scratchFits (d : Device) (tag n : Nat) : Bool :=
  n = 0 || (List.range Config.clusters).all fun s => spreadLines n s ≤ rangesSize (d.scratchFree tag s)

/-- Takes scratch for an entry, spread over the slices. -/
def Device.takeScratch (d : Device) (id tag n : Nat) : Device :=
  if n = 0 then d
  else
    let runs := (List.range Config.clusters).flatMap fun s => takeLines s (spreadLines n s) (d.scratchFree tag s)
    { d with mem := { d.mem with scratch := d.mem.scratch ++ [{ entry := id, lot := tag, runs := runs }] } }

/-- Whether every scratch line that a launch reaches carries the tag of its lot (R210). -/
def Device.scratchOwned (d : Device) (e : Entry) : Bool := d.mem.scratch.all fun p => p.entry ≠ e.id || p.lot = e.lot

/-- Ends a failed command's staging: its fresh extents are released (R61, R62). -/
def Device.dropStaging (d : Device) (id : Nat) : Device :=
  match d.entry id with
  | none => d
  | some e =>
    let d := d.modEntry id fun e => { e with staging := [], shards := [], twins := [], extents := [], claims := [] }
    let d := d.dropScratch id
    let made := if e.op = .tensorCreate then d.tensors.filter fun t => e.tensors.contains t.1 && !t.2.committed else []
    let d := { d with
      tensors := d.tensors.filter fun t => !made.any fun m => m.1 = t.1
      shards := d.shards.filter fun s => !made.any fun m => m.1 = s.1 / 2 ^ 32 }
    (d.releaseExtents ((e.staging.map fun s => s.extent) ++ made.flatMap fun m => m.2.extents)).sweepOrphans

/-- Ends one command without effect: its staging, its messages and its solve go, and it holds its status until its reply, in order
(R56). -/
def Device.failOne (d : Device) (id : Nat) (st : Status) : Device :=
  let d := { d with
    links := { d.links with messages := d.links.messages.filter fun m => m.entry ≠ id }
    dma := d.dma.map fun (c : Nat × DmaChannel) => if c.2.slot = some id then (c.1, { c.2 with slot := none }) else c }
  let d := { d with solver := { d.solver with
    solves := d.solver.solves.filter fun s => s.entry ≠ id
    units := d.solver.units.map fun (u : Nat × SolverUnit) =>
      if u.2.busy && u.2.entry = id then (u.1, { u.2 with busy := false, scratch := none }) else u } }
  let d := d.dropStaging id
  d.modEntry id fun e => { e with status := st, phase := .staged, wait := .nothing, result0 := 0, result1 := 0 }

/-- Whether a command is processed in a halted stream (R58). -/
def Entry.ignoresHalt (e : Entry) : Bool :=
  e.op = .streamClose || (e.op = .streamFence && (rd e.packet 17 1).testBit 1)

/-- The commands of a stream accepted after a given one. -/
def Device.laterEntries (d : Device) (e : Entry) : List Entry :=
  (d.streamEntries e.stream).filter fun x => x.id > e.id

/-- Fails a command: it has no effect and its stream halts; the later commands of the stream that had been dispatched complete
with E_PRIOR_FAILED (R56, R58). A STREAM_OPEN that fails leaves its stream DISABLED, and the commands accepted after it
complete with E_STREAM_STATE (R43). A STREAM_CLOSE that fails still leaves it DISABLED, after its earlier commands (R44). -/
def Device.failEntry (d : Device) (id : Nat) (st : Status) : Device :=
  match d.entry id with
  | none => d
  | some e =>
    let d := d.failOne id st
    let s := d.stream e.stream
    if e.op = .streamOpen then
      let d := d.setStream e.stream { s with state := .disabled, queue := none, haltedBy := none, closing := false }
      ((d.laterEntries e).filter fun x => x.op ≠ .streamClose && some x.id ≠ s.pendingOpen && x.phase ≠ .committed).foldl
        (fun d x => d.failOne x.id .eStreamState) d
    else if e.op = .streamClose then d.setStream e.stream { s with closeFailed := true }
    else if st.good then d
    else
      let d := d.setStream e.stream { s with haltedBy := some id }
      ((d.laterEntries e).filter fun x =>
        (x.phase = .dispatched || x.phase = .staged) && x.status.good && !x.ignoresHalt && x.op ≠ .streamOpen).foldl
        (fun d x => d.failOne x.id .ePriorFailed) d

/-- Takes quota for `n` extents, or waits, or fails, or makes the waiting command dispatched last fail (R61). -/
def Device.take (d : Device) (e : Entry) (n : Nat) : Res Device :=
  match d.quotaTake e.lot e.id n with
  | .ok => .ok d
  | .wait => waitFor .quota d
  | .failThis => failWith .eQuota d
  | .failOther o =>
    let d := d.failEntry o .eQuota
    if d.heldExtents e.lot + n ≤ d.quotaExtents e.lot then .ok d else waitFor .quota d

/-- A command finds no stack with a FREE extent: it waits, or it or another command fails, as for quota (R61, R205). -/
def Device.noSpace {α : Type} (d : Device) (e : Entry) : Res α :=
  match d.spaceTake e.lot e.id with
  | .failThis => failWith .eQuota d
  | .failOther o => waitFor .quota (d.failEntry o .eQuota)
  | _ => waitFor .quota d

/-- Stages one extent of a tensor: a fresh extent with the content that the stream sees (R61, R205). An extent that the
command has already staged, or a tensor written in place, is left as it is. -/
def Device.stageExtent (d : Device) (e : Entry) (key : Nat) (index : Nat) : Res Device := do
  let t ← need (d.tensor key) .eHandle d
  let cur ← need (d.entry e.id) .eHandle d
  if t.inPlace || cur.staging.any (fun s => s.tensor = key && s.index = index) then pure d
  else
    let d ← d.take e 1
    let old := (d.viewExtents e key t).getD index 0
    match d.chooseStack t.stackIds none (some (extentStack old)) with
    | none => d.noSpace e
    | some m =>
      let (x, d) := d.giveExtent m (.lot e.lot)
      let d := d.copyExtent old x
      pure (d.modEntry e.id fun e => { e with staging := e.staging ++ [{ tensor := key, index := index, extent := x }] })

/-- Stages every extent that `n` bytes at `off` of a tensor touch; waits first for another stream's uncommitted write
(R62). -/
def Device.stageRange (d : Device) (e : Entry) (key off n : Nat) : Res Device := do
  if n = 0 then pure d
  else
    let lo := off / Config.extentBytes
    let hi := ceilDiv (off + n) Config.extentBytes
    if d.otherWriter e.stream key lo hi then waitFor .conflict d
    else ((List.range (hi - lo)).map (lo + ·)).foldlM (fun d i => d.stageExtent e key i) d

/-- Writes staged bytes of a tensor (R61). -/
def Device.writeStaged (d : Device) (e : Entry) (key off : Nat) (bs : Bytes) : Device :=
  match d.tensor key with
  | some t => d.writeExtents (d.viewExtents e key t) off bs
  | none => d

/-- The traffic class of a command's accesses (R223). Assumption 141, DEDUCED. -/
def Opcode.traffic : Opcode → Nat
  | .solve => 0
  | .collective | .redraw | .rethread => 2
  | .secureNow | .diffStreamCtl | .snapshotShip | .stepCommit | .digestCheck => 3
  | _ => 1

/-- Stages and writes bytes of a tensor; what is written of a PARAMETER tensor is noted for its commit (R244). A write of the
whole tensor clears LOST at its commit (R349). -/
def Device.putTensor (d : Device) (e : Entry) (key off : Nat) (bs : Bytes) : Res Device := do
  let d ← d.stageRange e key off bs.length
  let d := d.modEntry e.id fun e => { e with written := e.written ++ [(key, off, bs.length)] }
  match d.tensor key with
  | some t =>
    let xs := d.viewExtents e key t
    pure ((d.writeExtents xs off bs).touchSpan e.lot xs off bs.length e.op.traffic true)
  | none => pure d

/-- Bytes of a tensor as a command sees them. -/
def Device.getTensor (d : Device) (e : Entry) (key off n : Nat) : Bytes :=
  match d.tensor key with
  | some t => d.readExtents (d.viewExtents e key t) off n
  | none => []

/-- Reads bytes through a list of extents for a lot's work, with the accesses to its lines: poison fails it (R213, R214, R219, R223). -/
def Device.fetchExtents (d : Device) (tag : Nat) (xs : List Nat) (off n cls : Nat) : Res (Bytes × Device) :=
  let d := (d.demand (touchedCodewords xs off n)).touchSpan tag xs off n cls false
  if d.poisonedIn xs off n then failWith .eMemUncorrectable d else .ok (d.readExtents xs off n, d)

/-- How far the ranges of a list cover from offset `p` on. First argument: fuel, the number of ranges. -/
def coveredTo (ws : List (Nat × Nat)) : Nat → Nat → Nat
  | 0, p => p
  | n + 1, p => coveredTo ws n (ws.foldl (fun q w => if w.1 ≤ q then max q (w.1 + w.2) else q) p)

/-- Whether a command has written the whole of a tensor: every byte of its planes. -/
def Entry.wroteAll (e : Entry) (key : Nat) (t : Tensor) : Bool :=
  let ws := (e.written.filter fun w => w.1 = key).map fun w => w.2
  (planesOf t.fmt t.dims t.block16 t.sparsity).all fun p => coveredTo ws ws.length p.1 ≥ p.1 + p.2

/-- Whether a command that reads a tensor meets it LOST: neither it nor an earlier command of its stream has written it whole (R42, R349). -/
def Device.lostFor (d : Device) (e : Entry) (key : Nat) : Bool :=
  match d.tensor key with
  | some t => t.lost && !(d.streamEntries e.stream).any fun x => x.id ≤ e.id && x.inFlight && x.wroteAll key t
  | none => false

/-- Reads bytes of a tensor as a command sees them; those of a LOST tensor fail it (R349). -/
def Device.fetchTensor (d : Device) (e : Entry) (key off n : Nat) (cls : Nat := e.op.traffic) : Res (Bytes × Device) :=
  match d.tensor key with
  | none => failWith .eHandle d
  | some t => if d.lostFor e key then failWith .eStaleShard d else d.fetchExtents e.lot (d.viewExtents e key t) off n cls

/-- The commit of an entry's staging: the tensors' extent-map entries are replaced in one write and the old extents released
(R61, R204, R226). -/
def Device.commitStaging (d : Device) (id : Nat) : Device :=
  match d.entry id with
  | none => d
  | some e =>
    let keys := (e.staging.map fun s => s.tensor).eraseDups
    let (d, old) := keys.foldl (fun (acc : Device × List Nat) key =>
      match acc.1.tensor key with
      | none => (acc.1, acc.2 ++ (e.staging.filter fun s => s.tensor = key).map fun s => s.extent)
      | some t =>
        let mine := e.staging.filter fun s => s.tensor = key
        let xs := t.extents.zipIdx.map fun p => mine.foldl (fun x s => if s.index = p.2 then s.extent else x) p.1
        let gone := t.extents.filter fun x => !xs.contains x
        (acc.1.modTensor key fun t => { t with extents := xs, planGen := (t.planGen + 1) % 2 ^ 16 }, acc.2 ++ gone)) (d, [])
    let dead := d.mem.moves.filter fun m => old.contains m.from_
    let d := { d with mem := { d.mem with moves := d.mem.moves.filter fun m => !old.contains m.from_ } }
    let d := d.modEntry id fun e => { e with staging := [] }
    d.releaseExtents (old ++ dead.map fun (m : Move) => m.to_)

/-- Places `n` extents for a new tensor (R205): the first on the emptiest stack of S, the others in cyclic order. -/
def Device.placeNew (d : Device) (tag : Nat) (stackIds : List Nat) : Nat → Option Nat → List Nat → Option (List Nat × Device)
  | 0, _, acc => some (acc, d)
  | n + 1, prev, acc =>
    match d.chooseStack stackIds prev none with
    | none => none
    | some m =>
      let (x, d') := d.giveExtent m (.lot tag)
      d'.placeNew tag stackIds n (some m) (acc ++ [x])

/-! ### The copies of shards in device memory (R204, R243) -/

/-- Places the extents of a copy of `n` bytes; they stand outside every tensor's map, held as long as a copy lies in them (R204). Assumption 40,
DESIGN CHOICE. -/
def Device.placeCopy (d : Device) (tag n : Nat) : Option (List Nat × Device) :=
  (d.placeNew tag (List.range Config.memStacks) (extentsOf n) none []).map fun r =>
    (r.1, { r.2 with mem := { r.2.mem with orphans := r.2.mem.orphans ++ r.1 } })

/-- A command takes the extents of a copy of `n` bytes (R61). -/
def Device.takeCopy (d : Device) (e : Entry) (n : Nat) : Res (List Nat × Device) :=
  if n = 0 then .ok ([], d)
  else do
    let d ← d.take e (extentsOf n)
    match d.placeCopy e.lot n with
    | none => d.noSpace e
    | some r => pure r

/-- Whether an uncorrectable error lies in extents (R214). -/
def Device.spoiled (d : Device) (xs : List Nat) : Bool := d.mem.poison.any fun a => xs.contains (a / Config.extentBytes)

/-- Reads a copy of a shard: the errors in its device memory are met, and poison fails the command (R213, R214, R256). -/
def Device.readCopy (d : Device) (xs : List Nat) : Res Device :=
  let d := d.demand ((d.mem.faulty.filter fun f => xs.contains (f.1 / Config.extentBytes)).map fun f => f.1)
  if d.spoiled xs then failWith .eMemUncorrectable d else .ok d

/-! ### Address checks (R202, R208, R209) -/

/-- The committed tensor of a lot whose map names an extent. -/
def Device.tensorAt (d : Device) (tag x : Nat) : Option (Nat × Tensor) :=
  d.tensors.find? fun e => tensorLot e.1 = tag && e.2.extents.contains x

/-- Judges the extents of a range in increasing order (R208): the first failing one, with its address. -/
def Device.judge (d : Device) (tag a n : Nat) : Option (Status × Nat) :=
  if Config.memTop ≤ a || Config.memTop < a + n then some (.eParam, a)
  else if n = 0 then none
  else
    (addrExtents a n).findSome? fun x =>
      let at_ := Max.max a (x * Config.extentBytes)
      if d.owner x ≠ .lot tag then some (.eTagViolation, at_)
      else
        match d.tensorAt tag x with
        | some (_, t) => if t.live && t.pinned && !t.param then none else some (.eAddrUnpinned, at_)
        | none => some (.eAddrUnpinned, at_)

/-- The event and selvage record of a dye-tag violation (R209). Assumption 42, DESIGN CHOICE. -/
def Device.tagViolation (d : Device) (src tag a : Nat) : Device :=
  d.raiseMgmt src 6 (toLE 8 a ++ [BitVec.ofNat 8 tag, BitVec.ofNat 8 (d.owner (a / Config.extentBytes)).code])

/-- Fails a running command for an address, with the record of a violation made (R208, R209). -/
def Device.failAddr {α : Type} (d : Device) (src tag : Nat) (f : Status × Nat) : Res α :=
  failWith f.1 (if f.1 = .eTagViolation then d.tagViolation src tag f.2 else d)

/-- The address checks of a command's range: the status of the first failure, with the record of a violation made. -/
def Device.addrCheck (d : Device) (src tag a n : Nat) : Option Status × Device :=
  match d.judge tag a n with
  | none => (none, d)
  | some (st, at_) => (some st, if st = .eTagViolation then d.tagViolation src tag at_ else d)

/-- The address checks of a running command. -/
def Device.needAddr (d : Device) (src tag a n : Nat) : Res Device :=
  match d.judge tag a n with
  | none => .ok d
  | some f => d.failAddr src tag f

/-- Reads device memory that a running command names by address (R208, R214); a LOST tensor there fails it (R349). -/
def Device.fetchAddr (d : Device) (src tag a n : Nat) : Res (Bytes × Device) := do
  let d ← d.needAddr src tag a n
  check ((addrExtents a n).all fun x => !((d.tensorAt tag x).any fun t => t.2.lost)) .eStaleShard d
  match d.load a n with
  | (true, _, d) => failWith .eMemUncorrectable d
  | (false, b, d) => pure (b, d)

/-- The record of a violation that the check of some rings finds (R208). -/
def Device.judgeRings (d : Device) (l : Nat) (rs : List (Nat × Nat)) : Device :=
  match rs.findSome? fun r => d.judge l r.1 r.2 with
  | some (.eTagViolation, a) => d.tagViolation (srcLot l) l a
  | _ => d

/-- Whether a ring of `n` bytes lies in pinned tensors of its lot that are not PARAMETER tensors (R462). -/
def Device.ringOk (d : Device) (tag a n : Nat) : Bool := (d.judge tag a n).isNone

/-! ### Reading what a command points at -/

/-- What the host returned for `n` bytes at an address of a lot's host memory (R236): data, or the status of the failure. -/
def hostRead (host : List HostReturn) (addr n : Nat) : Except Status Bytes :=
  match host.find? fun h => h.addr = addr with
  | some h =>
    match h.status with
    | .ok => .ok (fit n h.data)
    | .poisoned => .error .eMemUncorrectable
    | .refused => .error .ePermission
  | none => .error .ePermission

/-- Whether a lot can reach its host memory: its hosting attachment is ATTACHED, out of D3hot, and secure where the lot requires
it (R355, R375). -/
def Device.hostReachable (d : Device) (tag : Nat) : Bool :=
  match d.hosting tag with
  | none => false
  | some a =>
    let v := d.attachment a
    v.link = 2 && !v.d3hot && (!(d.lot tag).ideRequired || !v.secure.isEmpty)

/-! ### Replies (R29, R33 to R36, R55, R57) -/

/-- n of R29: DEPTH_LOG2, where 0 selects 16. -/
def SubQueue.log2 (v : SubQueue) : Nat := if v.depth = 0 then 16 else v.depth

/-- Entries of a submission queue and of its reply ring (R29). -/
def SubQueue.size (v : SubQueue) : Nat := 2 ^ v.log2

/-- Replies that software has not consumed. -/
def SubQueue.unconsumed (v : SubQueue) : Nat := (v.rqTail + v.size - v.rqHead) % v.size

/-- Whether the reply ring holds 2^n − 1 unconsumed replies (R34). -/
def SubQueue.ringFull (v : SubQueue) : Bool := v.unconsumed = v.size - 1

/-- Whether a queue's reply ring can be reached (R33, R362, R462). -/
def Device.ringReachable (d : Device) (lot q : Nat) : Bool :=
  let v := d.queue lot q
  if v.rqLoc then d.ringOk lot (v.rqBase * 4096) (32 * v.size)
  else match v.ringHost with
    | some a => d.attached a && !(d.attachment a).d3hot
    | none => d.hostReachable lot

/-- Holds the replies of a queue where it has some and its ring cannot be reached: until the queue is enabled again (R33, R34). -/
def Device.holdReplies (d : Device) (lot q : Nat) : Device :=
  let v := d.queue lot q
  if v.replies.isEmpty || d.ringReachable lot q then d else d.setQueue lot q { v with replyHold := true }

/-- Holds the replies of each queue of a lot whose ring cannot be reached. -/
def Device.holdAll (d : Device) (lot : Nat) : Device := (List.range Config.queuesPerLot).foldl (fun d q => d.holdReplies lot q) d

/-- Appends a decided reply to those of a queue. -/
def Device.pushReply (d : Device) (lot q : Nat) (r : Reply) : Device :=
  let v := d.queue lot q
  (d.setQueue lot q { v with replies := v.replies ++ [r] }).holdReplies lot q

/-- Decides the final reply of an entry with the status and results it holds (R35, R55). `time`: TIME of commit or of the
decision. -/
def Device.finalReply (d : Device) (e : Entry) : Device :=
  d.pushReply e.lot e.queue
    { dye := e.lot, stream := e.stream, seq := e.seq, status := e.status, quiet := e.packet.length > 2 && (rd e.packet 2 2).testBit 0,
      event := (rd e.packet 2 2).testBit 1, result0 := e.result0 % 2 ^ 32, result1 := e.result1 % 2 ^ 64, time := d.time,
      entry := some e.id }

/-- An interim reply ACCEPTED_DEFERRED (R57). -/
def Device.interimReply (d : Device) (e : Entry) : Device :=
  d.pushReply e.lot e.queue
    { dye := e.lot, stream := e.stream, seq := e.seq, status := .acceptedDeferred, interim := true, time := d.time }

/-- A rejection by the header checks (R36, R57). -/
def Device.rejectReply (d : Device) (lot q : Nat) (packet : Bytes) (st : Status) : Device :=
  let v := d.queue lot q
  (d.setQueue lot q { v with rejects := satAdd 0xFFFF v.rejects 1 }).pushReply lot q
    { dye := rd packet 4 4 / 2 ^ 18 % 64, stream := rd packet 4 4 % 2 ^ 18, seq := rd packet 8 4, status := st, rejected := true,
      time := d.time }

end Sys2Proof.Machine
end

