-- ==== Sys2Proof/Machine/Flags.lean ====
section
/-!
DEFINITION. The flag word of the vector engine and of the array drain (R135), and the values a core computes with.
-/
namespace Sys2Proof.Machine

/-- INVALID. -/
def fInvalid : Nat := 0x001
/-- NAN_IN. -/
def fNanIn : Nat := 0x002
/-- OVERFLOW. -/
def fOverflow : Nat := 0x004
/-- INF_IN. -/
def fInfIn : Nat := 0x008
/-- TINY. -/
def fTiny : Nat := 0x010
/-- SAT. -/
def fSat : Nat := 0x020
/-- DIVZERO. -/
def fDivZero : Nat := 0x040
/-- EMPTY_ROW. -/
def fEmptyRow : Nat := 0x080
/-- MX_NAN. -/
def fMxNan : Nat := 0x100
/-- DISCARD. -/
def fDiscard : Nat := 0x200

/-- A flag word that is set when a condition holds. -/
def flagIf (c : Bool) (f : Nat) : Nat := if c then f else 0

/-- Whether a value is a NaN. -/
def Flt.isNan : Flt → Bool
  | .nan => true
  | _ => false

/-- Whether a value is an infinity. -/
def Flt.isInf : Flt → Bool
  | .inf _ => true
  | _ => false

/-- Whether a pattern of a format is a subnormal or a zero: its exponent field is 0. -/
def FSpec.low (f : FSpec) (bits : Nat) : Bool := bits % 2 ^ (f.ebits + f.mbits) / 2 ^ f.mbits = 0

/-- The flags of the operands alone (R135). -/
def operandFlags (ops : List Flt) : Nat := flagIf (ops.any Flt.isNan) fNanIn ||| flagIf (ops.any Flt.isInf) fInfIn

/-- The flags of one rounding of an exact value to a format (R84, R135): TINY, SAT, OVERFLOW from finite operands, and INVALID where an
infinity becomes a NaN. -/
def roundFlags (f : FSpec) (exact : Flt) : Nat :=
  match exact with
  | .fin _ m _ =>
    let r := encodeF f exact
    flagIf (m ≠ 0 && f.low r) fTiny ||| flagIf (saturatesF f exact) fSat ||| flagIf (decodeF f r).isInf fOverflow
  | .inf _ => flagIf (!f.hasInf && f.nan.isSome) fInvalid
  | .nan => 0

/-- The flags of an operation whose exact result is rounded to a format (R135). -/
def resultFlags (f : FSpec) (exact : Flt) (ops : List Flt) : Nat :=
  operandFlags ops ||| flagIf (exact.isNan && !ops.any Flt.isNan) fInvalid ||| roundFlags f exact

/-- A value in a core: floating point, or an integer of INT32 or UINT8. -/
inductive Val where
  | flt (v : Flt)
  | int (v : Int)
  deriving DecidableEq, Repr

/-- A value as a floating-point number. -/
def Val.toFlt : Val → Flt
  | .flt v => v
  | .int v => Flt.ofInt v

/-- A value as an integer. -/
def Val.toInt : Val → Int
  | .flt v => v.toInt false
  | .int v => v

/-- Whether a format is floating point. -/
def floatFmt (f : Format) : Bool := f.spec.isSome

/-- Bytes of one element of a format of the vector engine (R122). -/
def elemBytes (f : Format) : Nat := f.bits / 8

/-- The value of a pattern (R67, R80). -/
def decodeVal (f : Format) (bits : Nat) : Val :=
  match f, f.spec with
  | _, some sp => .flt (decodeF sp bits)
  | .int32, none => .int (toSigned 32 bits)
  | .s130, none => .int (toSigned 32 bits)
  | _, none => .int (bits : Int)

/-- Writes a value in a format: the pattern and its flags (R80, R82, R84). -/
def encodeVal (f : Format) (v : Val) : Nat × Nat :=
  match f.spec with
  | some sp => (encodeF sp v.toFlt, roundFlags sp v.toFlt)
  | none =>
    match f, v with
    | .uint8, .int i => (ofInt 8 i, 0)
    | _, .int i => (ofInt 32 i, 0)
    | .uint8, .flt x => let r := toIntRange false 0 255 x; (ofInt 8 r.1, flagIf r.2 fSat)
    | _, .flt x => let r := toIntRange false (-(2 ^ 31)) (2 ^ 31 - 1) x; (ofInt 32 r.1, flagIf r.2 fSat)

end Sys2Proof.Machine
end

