-- ==== Sys2Proof/Machine/Operands.lean ====
section
/-!
DEFINITION. The operand forms of commands: the fields of each opcode's parameters that must be zero (R9), and the fields of a
lot's entry, a packet header and a list of handles.
-/
namespace Sys2Proof.Machine

/-- `n` reserved bytes at an offset. -/
def rsv (off n : Nat) : Nat × Nat × Nat := (off, n, 256 ^ n - 1)

/-- Reserved bits of a field of `n` bytes at an offset: all but the `w` low bits. -/
def rsvAbove (off n w : Nat) : Nat × Nat × Nat := (off, n, 256 ^ n - 2 ^ w)

/-- The reserved parameters of each opcode: offset, bytes and the bits that must be 0 (the parameter tables of R42 to R442).
Reserved fields that depend on another field's value are added by the packet's content. -/
def Opcode.reserved (op : Opcode) (p : Bytes) : List (Nat × Nat × Nat) :=
  match op with
  | .streamOpen => [rsvAbove 16 1 1, rsv 17 7, rsv 32 32]
  | .streamClose => []
  | .streamFence => [rsvAbove 17 1 2, rsv 18 2] ++ (List.range 5).map fun i => rsvAbove (24 + 8 * i) 4 18
  | .tensorCreate =>
    [rsvAbove 18 1 4, rsvAbove 46 1 2, rsv 56 8]
      ++ (if (rd p 18 1).testBit 3 then [] else [rsv 44 4])
      ++ ((List.range 6).filter fun i => rd p 17 1 ≤ i).map fun i => rsv (20 + 4 * i) 4
  | .tensorFree => [rsv 20 44]
  | .tensorHint => [rsvAbove 20 1 5, rsv 24 40]
  | .tensorPin => [rsv 21 3, rsvAbove 24 4 20, rsv 28 36]
  | .opLaunch => [rsv 34 2] ++ ((List.range 7).filter fun i => rd p 32 1 ≤ i).map fun i => rsv (36 + 4 * i) 4
  | .graphLaunch => [rsv 43 1, rsv 48 16]
  | .dmaCopy | .dmaReshuffle => [rsvAbove 18 1 1, rsv 19 1] ++ (if (rd p 18 1).testBit 0 then [] else [rsv 32 32])
  | .mapDeclare =>
    [rsv 17 1, rsv 56 8] ++ (if rd p 16 1 = 1 then [rsv 18 26] else (List.range 5).map fun i => rsvAbove (24 + 4 * i) 4 20)
  | .redraw =>
    [rsvAbove 16 1 5, rsv 17 3, rsv 56 8]
      ++ (List.range 5).map fun i => if (rd p 16 1).testBit i then rsvAbove (20 + 4 * i) 4 20 else rsv (20 + 4 * i) 4
  | .collective => [rsvAbove 18 1 4, rsv 30 2, rsv 48 16]
  | .rethread => [rsv 20 4, rsv 34 6, rsv 48 16]
  | .shardUpdate => [rsvAbove 52 1 3, rsv 53 11]
  | .stepCommit => [rsv 24 40]
  | .secureNow => [rsv 19 1, rsv 28 4, rsv 56 8]
  | .diffStreamCtl => [rsvAbove 18 1 5, rsv 19 1, rsv 48 16]
  | .snapshotShip => [rsvAbove 28 1 5, rsv 30 2, rsv 56 8]
  | .digestCheck => [rsv 25 39]
  | .spareAdopt => [rsv 27 5, rsv 56 8]
  | .statsConfig => [rsvAbove 39 1 2, rsvAbove 44 1 3, rsv 45 19]
  | .solve => [rsvAbove 19 1 4, rsv 58 6]
  | .precondInstall => [rsvAbove 28 1 1, rsv 29 1, rsv 40 24]
  | .lotCreate => [rsvAbove 24 1 1, rsv 25 7, rsv 36 28]
  | .lotDestroy => [rsv 17 15, rsv 36 28]
  | .configApply => [rsvAbove 28 1 1, rsv 29 3, rsv 36 28]
  | .configRollback => [rsv 16 16, rsv 36 28]
  | .hostRole => [rsvAbove 17 1 1, rsv 18 46]
  | .powerPolicy => [rsv 17 1, rsv 36 4, rsv 48 16]
  | .domainEnable | .domainDisable => [rsv 17 1, rsv 20 44]
  | .pmonConfig => [rsvAbove 17 1 3, rsv 23 1, rsvAbove 24 4 19, rsv 36 28]
  | .watchConfig => [rsv 40 24]
  | .ledgerAudit => [rsvAbove 16 1 6, rsv 17 3, rsv 24 40]
  | .selvageRead => [rsv 17 7, rsv 36 4, rsvAbove 48 1 1, rsv 49 15]
  | .selftest => [rsv 17 1, rsv 20 44]

/-- Whether every reserved parameter of a packet is 0 (R9, R37). -/
def reservedOk (op : Opcode) (p : Bytes) : Bool := (op.reserved p).all fun f => rd p f.1 f.2.1 &&& f.2.2 = 0

/-- Opcodes that act on a job and fail on a stream without one (R463). -/
def needsJob (op : Opcode) (p : Bytes) : Bool :=
  match op with
  | .mapDeclare | .redraw | .collective | .rethread | .shardUpdate | .stepCommit | .digestCheck | .diffStreamCtl
  | .snapshotShip | .secureNow | .statsConfig => true
  | .watchConfig => rd p 21 1 = 0
  | .opLaunch => rd p 33 1 ≠ 0xFF
  | .graphLaunch => rd p 42 1 ≠ 0xFF
  | _ => false

/-- Opcodes whose group permits CFG_ANY (R35). -/
def cfgAnyAllowed (opcode : Nat) : Bool := [1, 2, 3, 4, 0x0A, 0x0F].contains (opcode / 256)

/-- A lot's entry of 128 bytes (R363). -/
def parseLot (b : Bytes) : LotEntry :=
  { valid := (rd b 1 1).testBit 0, ideRequired := (rd b 1 1).testBit 1, tdispRequired := (rd b 1 1).testBit 2
    tag := rd b 0 1, attach := rd b 2 1, queues := rd b 3 1, streamBase := rd b 4 4, streamCount := rd b 8 4
    journalMib := rd b 12 4, memQuota := rd b 16 8, pinQuota := rd b 24 8, scratchMib := rd b 32 2, cacheWays := rd b 34 1
    solverShare := rd b 35 1, solveMax := rd b 36 2, statsMax := rd b 38 2, hubDma := rd b 40 8, clusterDma := rd b 48 48
    auxPorts := rd b 96 1 }

/-- Whether the reserved fields of a lot's entry are 0 (R9, R363). -/
def lotReservedOk (b : Bytes) : Bool := rd b 1 1 < 8 && rd b 4 4 < 2 ^ 18 && rd b 96 1 < 16 && rd b 97 31 = 0

/-- Whether the fields of a VALID entry lie in the ranges of R363. -/
def LotEntry.fieldsOk (e : LotEntry) (cached : Nat) : Bool :=
  e.tag < 64 && e.attach < 16 && 1 ≤ e.queues && e.queues ≤ 16 && 1 ≤ e.streamCount && e.streamCount ≤ Config.streams
    && 1 ≤ e.journalMib && e.journalMib ≤ 512 && e.memQuota % Config.extentBytes = 0 && e.pinQuota % Config.extentBytes = 0
    && e.pinQuota ≤ e.memQuota && e.scratchMib % 2 = 0 && 1 ≤ e.cacheWays && e.cacheWays ≤ cached && e.solverShare ≤ 32
    && e.statsMax ≤ 16384

/-- The handles of a handle table or of a launch's slots: 4 bytes each. -/
def handlesOf (b : Bytes) (n : Nat) : List Nat := (List.range n).map fun i => rd b (4 * i) 4

/-- An FP32 field that must be finite. -/
def f32finite (v : Nat) : Bool := !fNonfinite fp32 v

/-- An FP32 comparison of fields. -/
def f32lt (a b : Nat) : Bool := (decodeF fp32 a).lt (decodeF fp32 b)

/-- Whether an FP32 field is finite and at least 0. -/
def f32nonneg (v : Nat) : Bool := f32finite v && !f32lt v 0

/-- Whether an FP32 field lies in [0, 1). -/
def f32unit (v : Nat) : Bool := f32nonneg v && f32lt v one32

end Sys2Proof.Machine
end

