-- ==== Sys2Proof/Machine/Journal.lean ====
section
/-!
DEFINITION. How a command passes through the journal (R36 to R45, R53 to R66): reading and checking a submission-queue entry,
acceptance, dispatch order, the run of one opcode's meaning, staging, fences, and the writing of replies.
-/
namespace Sys2Proof.Machine

/-- Opcodes whose results all lie in staged extents, so that a later command of the stream sees them before their commit (R42).
Assumption 39, DEDUCED. -/
def Opcode.seenStaged : Opcode → Bool
  | .streamFence | .opLaunch | .graphLaunch | .dmaCopy | .dmaReshuffle | .collective | .solve | .snapshotShip | .selvageRead => true
  | _ => false

/-- Whether a later command of the stream sees all that a command brought about: it has committed or failed, or it is STAGED and what it
wrote lies in staged extents; what is written of a PARAMETER tensor, or of an expert's gradient, shows at the commit (R42, R244). -/
def Device.seen (d : Device) (e : Entry) : Bool :=
  e.phase = .committed
    || (e.phase = .staged && (!e.status.good || (e.op.seenStaged && e.shards.isEmpty && !(e.op = .collective && e.param 16 1 = 7)
      && e.written.all fun w => match d.tensor w.1 with | some t => !t.param | none => true)))

/-- Whether a command may be executed now: the first of its stream whose earlier commands it sees, the running SOLVE commands before a
SOLVE passed over (R42). Assumption 39, DEDUCED. -/
def Device.ready (d : Device) (stream : Nat) (op : Opcode) : Option Entry :=
  match (d.streamEntries stream).dropWhile fun e => d.seen e || (op = .solve && e.phase = .dispatched && e.op = .solve && e.ran) with
  | e :: _ => if e.phase = .dispatched && e.op = op then some e else none
  | [] => none

/-- A command whose execution is complete: STAGED, with its result words, OK_REPLAYED after a replay (R64). -/
def Device.stageOk (d : Device) (id r0 r1 : Nat) : Device :=
  d.modEntry id fun e => { e with
    phase := .staged, wait := .nothing, result0 := r0, result1 := r1
    status := if e.warmRejected then .okWarmRejected else if e.replayed then .okReplayed else .ok }

/-- Runs the meaning of an opcode on the command of a stream that is ready for it: it is staged with its result words, fails,
or waits. Where no such command is ready, nothing happens (assumption 11, DESIGN CHOICE). -/
def Device.runOp (d : Device) (stream : Nat) (op : Opcode) (body : Entry → Device → Res (Nat × Nat × Device)) : Device :=
  if !d.running then d
  else
    match d.ready stream op with
    | none => d
    | some e =>
      match body e d with
      | .ok (r0, r1, d) => d.stageOk e.id r0 r1
      | .error (.fail st d) => d.failEntry e.id st
      | .error (.wait w d) => d.modEntry e.id fun e => { e with wait := w }

/-- The result words of a failed command where its opcode gives them (R234, R240, R302). -/
def Device.markFailure (d : Device) (id : Nat) (result1 : Nat := 0) : Device :=
  d.modEntry id fun e => if e.phase = .staged && !e.status.good then { e with result0 := e.sticky, result1 := result1 } else e

/-- Runs an opcode whose failure carries a RESULT0. -/
def Device.runMarked (d : Device) (stream : Nat) (op : Opcode) (body : Entry → Device → Res (Nat × Nat × Device)) : Device :=
  match d.ready stream op with
  | some e => (d.runOp stream op body).markFailure e.id
  | none => d

/-! ### Acceptance -/

/-- Reads an argument block or handle table at acceptance (R53, R54): its status and bytes. A host address is one at which the
operands of the fetch hold a host return (assumption 9, DESIGN CHOICE). -/
def Device.readBlock (d : Device) (lot : Nat) (host : List HostReturn) (addr n : Nat) : Status × Bytes × Device :=
  if n = 0 then (.ok, [], d)
  else if addr % 64 ≠ 0 then (.eAlign, [], d)
  else if host.any fun h => h.addr = addr then
    if !d.hostReachable lot then (.ePermission, [], d)
    else match hostRead host addr n with
      | .ok b => (.ok, b, d)
      | .error st => (st, [], d)
  else
    match d.addrCheck (srcLot lot) lot addr n with
    | (some st, d) => (st, [], d)
    | (none, d) =>
      match d.load addr n with
      | (true, _, d) => (.eMemUncorrectable, [], d)
      | (false, b, d) => (.ok, b, d)

/-- The argument block and handle table of a launch packet (R53, R54): the first failing check decides. -/
def Device.readBlocks (d : Device) (lot : Nat) (host : List HostReturn) (op : Opcode) (p : Bytes) :
    Status × Bytes × Bytes × Device :=
  if op = .opLaunch || op = .graphLaunch then
    let len := rd p 22 2
    if len % 64 ≠ 0 then (.eAlign, [], [], d)
    else
      match d.readBlock lot host (rd p 24 8) len with
      | (.ok, args, d) =>
        if op = .graphLaunch then
          match d.readBlock lot host (rd p 32 8) (4 * rd p 40 2) with
          | (.ok, tbl, d) => (.ok, args, tbl, d)
          | (st, _, d) => (st, [], [], d)
        else (.ok, args, [], d)
      | (st, _, d) => (st, [], [], d)
  else (.ok, [], [], d)

/-- The header checks of R36, in order: the status of the first that fails. -/
def Device.headerCheck (d : Device) (lot q : Nat) (p : Bytes) : Option Status :=
  match Opcode.ofCode (rd p 0 2) with
  | none => some .eOpcode
  | some op =>
    let stream := rd p 4 4 % 2 ^ 18
    let s := d.stream stream
    let e := d.lot lot
    if rd p 2 2 ≥ 8 || rd p 4 4 ≥ 2 ^ 24 || rd p 14 2 ≠ 0 || ((rd p 2 2).testBit 2 && !cfgAnyAllowed (rd p 0 2))
        || (op = .streamClose && rd p 16 48 ≠ 0) then some .eParam
    else if rd p 4 4 / 2 ^ 18 ≠ lot then some .ePermission
    else if op.management && lot ≠ 0 then some .ePermission
    else if stream < e.streamBase || e.streamBase + e.streamCount ≤ stream then some .ePermission
    else if op = .streamOpen then
      if s.state = .enabling || s.state = .enabled then some .eStreamState else none
    else if !(s.state = .enabling || s.state = .enabled) || s.closing then some .eStreamState
    else if s.queue ≠ some (lot, q) then some .eWrongQueue
    else if rd p 8 4 ≠ s.nextSeq then some .eSequence
    else none

/-- What an accepted STREAM_OPEN does to its stream's context (R43). Final replies given before it satisfy no fence from then on: the rules do
not say (assumption 126, DESIGN CHOICE). -/
def Stream.opened (s : Stream) (lot q : Nat) (p : Bytes) : Stream :=
  { s with
    state := .enabling, queue := some (lot, q), nextSeq := (rd p 8 4 + 1) % 2 ^ 32, haltedBy := none, closeFailed := false, job := rd p 24 8
    mirror := (rd p 16 1).testBit 0, pendingOpen := none, closing := false, lastFinal := none
    finals := [], jobWide := 0 }

/-- A pending STREAM_OPEN acts once its stream is DISABLED (R43). -/
def Device.actPendingOpen (d : Device) (stream : Nat) : Device :=
  let s := d.stream stream
  match s.pendingOpen with
  | none => d
  | some id =>
    match d.entry id with
    | none => d.setStream stream { s with pendingOpen := none }
    | some e => d.setStream stream (s.opened e.lot e.queue e.packet)

/-- Whether a command is job-wide, so that it is counted in its stream (R302); a SECURE_NOW that is matched across the box counts with them
(R338; assumption 129, DEDUCED). -/
def Opcode.jobWide (op : Opcode) (p : Bytes) : Bool :=
  match op with
  | .mapDeclare => rd p 16 1 = 0
  | .redraw | .collective | .rethread => true
  | .secureNow => [0, 1, 2, 3].contains (rd p 16 1) || (rd p 16 1 = 5 && rd p 20 4 = 0)
  | _ => false

/-- Writes a command to the journal (R37, R60) and passes it to its stream (R43, R44); a job-wide one takes its ordinal, counted from
STREAM_OPEN (R302). -/
def Device.accept (d : Device) (lot q : Nat) (op : Opcode) (p : Bytes) (host : List HostReturn) : Device :=
  let (st, args, tbl, d) := d.readBlocks lot host op p
  let stream := rd p 4 4 % 2 ^ 18
  let id := d.ctr.entry + 1
  let s := d.stream stream
  let s := if op.jobWide p then { s with jobWide := s.jobWide + 1 } else s
  let e : Entry :=
    { id := id, lot := lot, queue := q, stream := stream, seq := rd p 8 4, op := op, packet := p, args := args, tbl := tbl
      blockStatus := st, acceptedAt := d.time, ordinal := if op.jobWide p then s.jobWide else 0 }
  let d := { d with ctr := { d.ctr with entry := id }, journal := d.journal ++ [e] }
  match op with
  | .streamOpen =>
    if s.state = .disabled then d.setStream stream (s.opened lot q p)
    else
      let d := match s.pendingOpen with
        | some old =>
          match d.entry old with
          | some o =>
            let o := { o with status := .eSuperseded, phase := .committed }
            (d.modEntry old fun _ => o).finalReply o
          | none => d
        | none => d
      (d.setStream stream { d.stream stream with pendingOpen := some id }).interimReply e
  | .streamClose =>
    d.setStream stream { s with
      nextSeq := (s.nextSeq + 1) % 2 ^ 32
      state := if s.state = .enabled then .disabling else s.state
      closing := s.state ≠ .enabled }
  | _ => d.setStream stream { s with nextSeq := (s.nextSeq + 1) % 2 ^ 32 }

/-- Whether a queue may be fetched from (R32, R33, R60, R373, R375, R376). -/
def Device.mayFetch (d : Device) (lot q : Nat) : Bool :=
  let v := d.queue lot q
  let l := d.lotState lot
  d.running && !d.power.d0Idle && v.enable && v.rung && !v.paused && v.unsettled.isNone && v.head ≠ v.tail && !v.ringFull
    && d.lotDom lot = .enabled && l.tdi ≠ 3 && (!(d.lot lot).tdispRequired || l.tdi = 2)
    && (v.sqLoc || d.hostReachable lot)

/-- Whether a queue has an entry that could be fetched now: it may be fetched from, and the lot's share holds it, or its stall has not been
counted yet (R32, R60). -/
def Device.hasTurn (d : Device) (lot q : Nat) : Bool :=
  d.mayFetch lot q && ((d.queue lot q).stalled = 0 || !d.journalFull lot (d.queue lot q).stalled)

/-- Whether it is a queue's turn: no other queue that could be fetched from comes before it in cyclic order of lot and queue after the one
served last (R32). The order is the model's choice (assumption 127, DESIGN CHOICE). -/
def Device.inTurn (d : Device) (lot q : Nat) : Bool :=
  let dist (k : Nat) : Nat := (k + 1024 - d.lastFetch - 1) % 1024
  d.queues.all fun x => x.1 ≥ 1024 || dist (queueKey lot q) ≤ dist x.1 || !d.hasTurn (x.1 / 16) (x.1 % 16)

/-- The entry at HEAD of a queue: its bytes, or that its read returned uncorrectable data (R32), or nothing; with the device after the read. -/
def Device.readEntry (d : Device) (lot q : Nat) (host : List HostReturn) : Option (Except Nat Bytes) × Device :=
  let v := d.queue lot q
  let a := v.sqBase * 4096 + 64 * v.head
  if v.sqLoc then
    match d.load a 64 with
    | (true, _, d) => (some (.error a), d)
    | (false, b, d) => (some (.ok b), d)
  else
    match hostRead host a 64 with
    | .ok b => (some (.ok b), d)
    | .error .eMemUncorrectable => (some (.error a), d)
    | .error _ => (none, d)

/-- The bytes that a packet takes in the journal (R60). Assumption 37, DESIGN CHOICE. -/
def journalNeed (p : Bytes) : Nat :=
  match Opcode.ofCode (rd p 0 2) with
  | some .opLaunch => 64 + rd p 22 2
  | some .graphLaunch => 64 + rd p 22 2 + 4 * rd p 40 2
  | _ => 64

/-- Whether another queue of the lot waits at an entry that the lot's share cannot take: fetching stops for the whole lot (R60).
Assumption 38, DESIGN CHOICE. -/
def Device.journalHeld (d : Device) (lot q : Nat) : Bool :=
  (List.range Config.queuesPerLot).any fun i =>
    let v := d.queue lot i
    i ≠ q && v.enable && v.stalled ≠ 0 && d.journalFull lot v.stalled

/-- HEAD passes an entry. -/
def Device.passEntry (d : Device) (lot q : Nat) : Device :=
  let v := d.queue lot q
  d.setQueue lot q { v with head := (v.head + 1) % v.size, stalled := 0 }

/-- Rejects a fetched entry (R36). -/
def Device.reject (d : Device) (lot q : Nat) (p : Bytes) (st : Status) : Device :=
  let d := if rd p 4 4 / 2 ^ 18 ≠ lot && st = .ePermission && (Opcode.ofCode (rd p 0 2)).isSome then
      d.raiseSelvage (srcLot lot) 0x21 lot (toLE 4 (rd p 4 4) ++ toLE 4 (rd p 8 4) ++ toLE 1 ((d.hosting lot).getD 0))
    else d
  (d.rejectReply lot q p st).passEntry lot q

/-- COMMAND_FETCH: one entry of the queue whose turn it is is fetched, checked, and rejected or accepted (R32, R36, R37, R60, R66). A
STREAM_OPEN is accepted without the twin, whatever its MIRROR; a stream with MIRROR = 1 in a job without a twin waits for an acknowledgement
like any other (assumption 128, DESIGN CHOICE). -/
def Device.fetch (d : Device) (lot q : Nat) (host : List HostReturn) : Device :=
  if !d.mayFetch lot q || !d.inTurn lot q then d
  else
    let d := { d with lastFetch := queueKey lot q }
    match d.readEntry lot q host with
    | (none, d) => d
    | (some (.error a), d) =>
      let v := d.queue lot q
      let d := d.setQueue lot q { v with paused := true }
      d.raiseBoth (if v.sqLoc then srcStack (stackOf a) else srcLot lot) 5 lot (toLE 8 a ++ [0])
    | (some (.ok p), d) =>
      if d.journalFull lot (journalNeed p) || d.journalHeld lot q then
        let v := d.queue lot q
        d.setQueue lot q { v with stalled := journalNeed p, stalls := if v.stalled = 0 then satAdd 0xFFFF v.stalls 1 else v.stalls }
      else
        match d.headerCheck lot q p, Opcode.ofCode (rd p 0 2) with
        | some st, _ => d.reject lot q p st
        | none, none => d
        | none, some op =>
          if op ≠ .streamOpen && (d.stream (rd p 4 4 % 2 ^ 18)).mirror then
            d.setQueue lot q { d.queue lot q with unsettled := some p, stalled := 0 }
          else (d.accept lot q op p host).passEntry lot q

/-- JOURNAL_MIRROR_ACK: the twin holds the journal entry of a fetched command, which is then accepted (R66). -/
def Device.mirrorAcked (d : Device) (lot q : Nat) (host : List HostReturn) : Device :=
  let v := d.queue lot q
  if !d.running then d
  else
    match v.unsettled with
    | none => d
    | some p =>
      let d := d.setQueue lot q { v with unsettled := none }
      match d.headerCheck lot q p, Opcode.ofCode (rd p 0 2) with
      | some st, _ => d.reject lot q p st
      | none, none => d
      | none, some op => (d.accept lot q op p host).passEntry lot q

/-! ### Wakes (R402 to R405) -/

/-- Codes of R403. -/
def WakeSource.code : WakeSource → Nat
  | .wakeN => 0x01
  | .queue => 0x02
  | .work => 0x03
  | .event => 0x04
  | .timer => 0x05
  | .memory => 0x06
  | .dumpTick => 0x10
  | .scanHalt => 0x11

/-- Whether a source is an edge source (R403). -/
def WakeSource.edge (w : WakeSource) : Bool := 0x10 ≤ w.code

/-- Writes PWR_WAKE_SRC and PWR_WAKE_TIME (R405). -/
def Device.recordWake (d : Device) (kind unit : Nat) (w : WakeSource) : Device :=
  { d with power := { d.power with
      wakeEdge := w.edge, wakeKind := kind, wakeUnit := unit, wakeSource := w.code, wakeTime := d.time } }

/-- The package returns to D0, and the stacks leave self-refresh (R402). Assumption 88, DESIGN CHOICE. -/
def Device.toD0 (d : Device) : Device :=
  if d.power.d0Idle then
    (List.range Config.memStacks).foldl (fun d m => d.setStackDom m { d.stackDom m with cstate := 0 })
      { d with power := { d.power with d0Idle := false, idleSince := d.time } }
  else d

/-- The exit of the package from D0-idle (R405). -/
def Device.wakePackage (d : Device) (w : WakeSource) : Device := if d.power.d0Idle then d.toD0.recordWake 0 0 w else d

/-! ### Fences (R45) -/

/-- An entry of a fence: stream and sequence number (R45). -/
def fenceEntry (p : Bytes) (i : Nat) : Nat × Nat := (rd p (24 + 8 * i) 4 % 2 ^ 18, rd p (28 + 8 * i) 4)

/-- Whether final replies already given satisfy a fence entry (R45). -/
def Stream.reached (s : Stream) (seq : Nat) : Bool :=
  match s.lastFinal with
  | some x => x = seq || serialLater 32 seq x
  | none => false

/-- Whether a fence is satisfied by the entries marked so far (R45). -/
def Entry.fenceDone (e : Entry) : Bool :=
  let n := rd e.packet 16 1
  n = 0 || (if (rd e.packet 17 1).testBit 0 then !e.received.isEmpty else e.received.length = n)

/-- Marks the entries of a fence that a test accepts, with those whose named command failed. -/
def Entry.markFence (e : Entry) (hit : Nat → Nat → Bool) (failed : Nat → Nat → Bool) : Entry :=
  (List.range (rd e.packet 16 1)).foldl (fun e i =>
    let (s, q) := fenceEntry e.packet i
    if hit s q && !e.received.contains i then
      { e with received := e.received ++ [i], sticky := if failed s q then e.sticky + 2 ^ i else e.sticky }
    else e) e

/-- A satisfied fence completes: RESULT0 marks the entries whose named command failed; RESUME clears the halt flag (R45). -/
def Device.completeFence (d : Device) (e : Entry) : Device :=
  let d := if (rd e.packet 17 1).testBit 1 then d.setStream e.stream { d.stream e.stream with haltedBy := none } else d
  d.stageOk e.id (e.sticky % 32) 0

/-- Marks waiting fences, and completes those that are satisfied and have their turn (R42, R45). -/
def Device.settleFences (d : Device) (hit : Nat → Nat → Bool) (failed : Nat → Nat → Bool) : Device :=
  let fs := d.journal.filter fun e => e.op = .streamFence && e.phase = .dispatched && e.ran
  fs.foldl (fun d e =>
    let e := e.markFence hit failed
    let d := d.modEntry e.id fun _ => e
    if e.fenceDone && (d.ready e.stream .streamFence).any (fun x => x.id = e.id) then d.completeFence e else d) d

/-- The checks of a fence at its dispatch (R45): the status of the first that fails. -/
def Device.fenceCheck (d : Device) (e : Entry) : Option Status :=
  let n := e.param 16 1
  let l := d.lot e.lot
  let es := (List.range n).map (fenceEntry e.packet)
  if 5 < n || es.any fun x => x.1 = e.stream then some .eParam
  else if es.any fun x => x.1 < l.streamBase || l.streamBase + l.streamCount ≤ x.1 then some .ePermission
  else if es.any fun x => (d.stream x.1).state = .disabled then some .eStreamState
  else none

/-- A fence at its dispatch: it fails, or its entries that final replies already given satisfy are marked (R45). -/
def Device.fenceStart (d : Device) (e : Entry) : Device :=
  match d.fenceCheck e with
  | some st => d.failEntry e.id st
  | none => d.modEntry e.id fun x => { x with ran := true, wait := .fence }.markFence (fun s q => (d.stream s).reached q)
      fun s q => (d.stream s).finals.any fun f => f.1 = q && f.2

/-! ### Dispatch -/

/-- The handles that a command's parameters name. -/
def Entry.handles (e : Entry) : List Nat :=
  let h (off : Nat) : Nat := e.param off 4
  (match e.op with
   | .tensorFree | .tensorHint | .tensorPin | .rethread | .shardUpdate | .digestCheck => [h 16]
   | .opLaunch => h 16 :: (List.range (e.param 32 1)).map fun i => h (36 + 4 * i)
   | .graphLaunch => h 16 :: handlesOf e.tbl (e.param 40 2)
   | .mapDeclare => [h 44]
   | .collective => [h 20, h 24]
   | .snapshotShip => [h 24, h 52]
   | .secureNow | .ledgerAudit => [h 20]
   | .statsConfig | .precondInstall => [h 16, h 20, h 24]
   | .solve => [h 20, h 24, h 28, h 32]
   | .pmonConfig => [h 28]
   | .watchConfig => [h 16, h 36]
   | _ => []).filter (· ≠ 0)

/-- The tensor that a handle names for a dispatched command, as it was looked up at the dispatch: a tensor freed since is still reached, one
created since is not (R37, R49, R50). -/
def Device.find (d : Device) (e : Entry) (handle : Nat) : Res (Nat × Tensor) :=
  let key := tensorKeyOf e.lot (handle % 2 ^ 24)
  match d.tensor key with
  | some t =>
    if t.committed && t.gen = handle / 2 ^ 24 && e.tensors.contains key then .ok (key, t) else failWith .eHandle d
  | none => failWith .eHandle d

/-- The DEADLINE of a command that has one (R61, R197, R302): an absolute TIME, 0 for none. -/
def Entry.deadline (e : Entry) : Nat :=
  match e.op with
  | .mapDeclare | .redraw | .secureNow | .spareAdopt | .solve => e.param 48 8
  | .collective | .rethread => e.param 40 8
  | _ => 0

/-- Whether an installation holds back dispatch (R369, step 2). -/
def Device.draining (d : Device) : Bool := d.hosts.install.isSome

/-- The next command of a stream to dispatch: every earlier one is dispatched, and no fence before it is unsatisfied (R37,
R42, R45). -/
def Device.nextToDispatch (d : Device) (stream : Nat) : Option Entry :=
  let s := d.stream stream
  match (d.streamEntries stream).find? fun e => e.phase = .accepted with
  | none => none
  | some e =>
    let before := (d.streamEntries stream).filter fun x => x.id < e.id
    if s.pendingOpen = some e.id then none
    else if before.any fun x => x.op = .streamFence && x.phase = .dispatched then none
    else if e.op ≠ .streamOpen && before.any fun x => x.op = .streamOpen && x.phase = .dispatched then none
    else some e

/-- Whether the halt flag of a stream stops a command: one accepted after the command that failed (R58). -/
def Stream.haltsEntry (s : Stream) (e : Entry) : Bool :=
  !e.ignoresHalt && e.op ≠ .streamOpen && s.haltedBy.any fun id => id < e.id

/-- COMMAND_DISPATCH: the checks that do not depend on the opcode's own parameters, and those of a fence (R9, R37, R38, R45, R53, R58,
R463). -/
def Device.dispatch (d : Device) (stream : Nat) : Device :=
  if !d.running then d
  else
    match d.nextToDispatch stream with
    | none => d
    | some e =>
      let p := e.packet
      let cfgAny := (rd p 2 2).testBit 2
      if (d.stream stream).haltsEntry e then d.failOne e.id .ePriorFailed
      else if d.draining && !cfgAny then d.modEntry e.id fun e => { e with wait := .drain }
      else
        let go := d.modEntry e.id fun e => { e with
          phase := .dispatched, wait := .nothing, dispatchedAt := d.time, order := d.ctr.order + 1
          step := (d.job (d.stream e.stream).job).counter + 1
          logAt := (d.observe.nextLog - d.observe.log.length, d.observe.nextLog)
          tensors := (e.handles.filterMap fun h => (d.lookup e.lot h).map fun x => x.1).eraseDups }
        let go := ({ go with ctr := { go.ctr with order := go.ctr.order + 1 }
                             power := { go.power with idleSince := go.time } }).wakePackage .work
        if e.op = .streamClose then go
        else if !cfgAny && rd p 12 2 ≠ d.hosts.version then d.failEntry e.id .eStaleConfig
        else if !reservedOk e.op p then d.failEntry e.id .eParam
        else if needsJob e.op p && (d.stream stream).job = 0 then d.failEntry e.id .eParam
        else if e.blockStatus ≠ .ok then d.failEntry e.id e.blockStatus
        else if e.op = .streamFence then go.fenceStart e
        else go

/-! ### Streams -/

/-- STREAM_OPEN: the stream is ENABLED; a close accepted meanwhile takes effect (R43, R44). -/
def streamOpenBody (e : Entry) (d : Device) : Res (Nat × Nat × Device) :=
  let s := d.stream e.stream
  .ok (0, 0, d.setStream e.stream { s with state := if s.closing then .disabling else .enabled, closing := false })

/-- STREAM_FENCE: a fence that is satisfied completes, any other waits (R45). -/
def streamFenceBody (e : Entry) (d : Device) : Res (Nat × Nat × Device) :=
  if e.fenceDone then
    let d := if (rd e.packet 17 1).testBit 1 then d.setStream e.stream { d.stream e.stream with haltedBy := none } else d
    .ok (e.sticky % 32, 0, d)
  else waitFor .fence d

/-- FENCE_TIMEOUT: the limit of a waiting fence has passed; it counts from the dispatch of the fence, which the rules leave open (R45;
assumption 126, DESIGN CHOICE). -/
def Device.fenceTimeout (d : Device) (stream : Nat) : Device :=
  match d.runningEntry stream .streamFence with
  | some e =>
    let limit := e.param 20 4
    if d.running && e.ran && !e.fenceDone && limit ≠ 0 && e.dispatchedAt + limit ≤ d.time then d.failEntry e.id .eFenceTimeout else d
  | none => d

/-- The stream is DISABLED: fences that name it are satisfied, and a pending open acts (R43, R44, R45). -/
def Device.endStream (d : Device) (stream : Nat) : Device :=
  let d := d.setStream stream { d.stream stream with
    state := .disabled, queue := none, haltedBy := none, closeFailed := false, closing := false, job := 0, mirror := false }
  (d.settleFences (fun s _ => s = stream) (fun _ _ => false)).actPendingOpen stream

/-- STREAM_CLOSE: once every earlier command has its final reply the stream is DISABLED (R44). -/
def streamCloseBody (e : Entry) (d : Device) : Res (Nat × Nat × Device) :=
  match d.streamEntries e.stream with
  | x :: _ =>
    if x.id = e.id then .ok (0, 0, d.endStream e.stream) else waitFor .nothing d
  | [] => waitFor .nothing d

/-! ### Replies (R34, R35, R55) -/

/-- Bytes 0 to 31 of a status reply (R55). -/
def Reply.bytes (r : Reply) (q : Nat) (phase : Bool) : Bytes :=
  toLE 2 r.status.code ++ toLE 1 (b2n r.interim * 4 + b2n r.redelivered * 2 + b2n phase) ++ toLE 1 q
    ++ toLE 4 (r.dye * 2 ^ 18 + r.stream) ++ toLE 4 r.seq ++ toLE 4 r.result0 ++ toLE 8 r.time ++ toLE 8 r.result1

/-- A REPLY event (R384): byte 10 is 1 for the EVENT flag and 0 for RQ_NOTIFY. -/
def Device.replyEvent (d : Device) (lot : Nat) (r : Reply) (flag : Nat) : Device :=
  d.raiseLot (srcLot lot) 1 lot (toLE 4 (r.dye * 2 ^ 18 + r.stream) ++ toLE 4 r.seq ++ toLE 2 r.status.code ++ toLE 1 flag)

/-- Writes a reply at TAIL of its ring and advances TAIL (R34). -/
def Device.writeReply (d : Device) (lot q : Nat) (r : Reply) : Device :=
  let v := d.queue lot q
  let a := v.rqBase * 4096 + 32 * v.rqTail
  let b := r.bytes q v.rqPhase
  let put (d : Device) (off n : Nat) : Device :=
    if v.rqLoc then d.writeMem (a + off) ((b.drop off).take n)
    else d.writeHost (v.ringHost.getD ((d.hosting lot).getD 0)) (a + off) ((b.drop off).take n)
  let d := put (put d 4 28) 0 4
  let t := (v.rqTail + 1) % v.size
  let d := d.setQueue lot q { d.queue lot q with rqTail := t, rqPhase := if t = 0 then !v.rqPhase else v.rqPhase }
  if v.notify then d.replyEvent lot r 0 else d

/-- What a final reply of an accepted command brings about once it is given (R35, R45, R57, R64): its event, the record of the
stream's last final reply, the fences that it satisfies, and the retirement of its journal entry. -/
def Device.afterFinal (d : Device) (lot : Nat) (r : Reply) : Device :=
  if r.interim || r.rejected then d
  else
    let d := if r.event then d.replyEvent lot r 1 else d
    let d := match r.entry with
      | some id => { d with journal := d.journal.filter fun e => e.id ≠ id }
      | none => d
    let s := d.stream r.stream
    let bad := !r.status.good
    let d := d.setStream r.stream { s with lastFinal := some r.seq, finals := s.finals ++ [(r.seq, bad)] }
    let d := d.settleFences (fun x q => x = r.stream && (q = r.seq || serialLater 32 q r.seq)) fun x q => x = r.stream && q = r.seq && bad
    if s.closeFailed && (d.streamEntries r.stream).all (fun e => some e.id = s.pendingOpen) then d.endStream r.stream else d

/-- REPLY_WRITE: the first reply waiting for a ring is written, or held; one that QUIET suppresses is decided when it would have been
written (R33, R34, R35). -/
def Device.replyWrite (d : Device) (lot q : Nat) : Device :=
  let v := d.queue lot q
  match v.replies with
  | [] => d
  | r :: rest =>
    let popped := d.setQueue lot q { v with replies := rest }
    if v.replyHold || !d.ringReachable lot q then d.setQueue lot q { v with replyHold := true }
    else if v.ringFull then d
    else if r.quiet && r.status = .ok && !r.interim && !r.rejected then popped.afterFinal lot r
    else (popped.writeReply lot q r).afterFinal lot r

end Sys2Proof.Machine
end

