-- ==== Sys2Proof/Machine/Kernel.lean ====
section
/-!
DEFINITION. What the engines of a core share: its local store (R125, R130), its sticky summary (R136), the launch that it runs,
and the failure of that launch.
-/
namespace Sys2Proof.Machine

/-- A core's engines. -/
def Engines.core (g : Engines) (n : Nat) : Core := Tab.look {} g.cores n

/-- Replaces a core's engines. -/
def Engines.setCore (g : Engines) (n : Nat) (c : Core) : Engines := { g with cores := Tab.put {} c g.cores n }

/-- Bytes of a core's local store. -/
def Engines.read (g : Engines) (core a n : Nat) : Bytes := readBytes g.stores (core * Config.localStoreBytes + a) n

/-- Writes a core's local store. -/
def Engines.write (g : Engines) (core a : Nat) (bs : Bytes) : Engines :=
  { g with stores := writeBytes g.stores (core * Config.localStoreBytes + a) bs }

/-- Whether `n` bytes at an address lie in the local store (R130). -/
def inStore (a : Int) (n : Nat) : Bool := 0 ≤ a && a + n ≤ Config.localStoreBytes

/-- Whether `n` bytes at a natural address lie in the local store (R130). -/
def spanOk (a n : Nat) : Bool := a + n ≤ Config.localStoreBytes

/-- The cores that run a launch stop doing so. -/
def Engines.endKernel (g : Engines) (id : Nat) : Engines :=
  { g with cores := g.cores.map fun (c : Nat × Core) => if c.2.kernel = some id then (c.1, { c.2 with kernel := none }) else c }

/-- The launch that a core runs. -/
def State.kernelOf (s : State) (core : Nat) : Option Entry :=
  match (s.eng.core core).kernel with
  | some id => (s.dev.entry id).filter fun e => e.phase = .dispatched
  | none => none

/-- A launch fails on a core; with E_PARAM, RESULT1 [7:0] names the core (R130). -/
def State.failKernel (s : State) (id core : Nat) (st : Status) : State :=
  let d := s.dev.failEntry id st
  let d := if st = .eParam then d.modEntry id fun e => { e with result1 := core } else d
  { s with dev := d, eng := s.eng.endKernel id }

/-- A launch fails, and its cores stop running it. -/
def State.failLaunch (s : State) (id : Nat) (st : Status) : State :=
  { s with dev := s.dev.failEntry id st, eng := s.eng.endKernel id }

/-- ORs a flag word into a core's sticky summary and into the launch's (R136, R137), and counts its bits (R424). -/
def State.raiseFlags (s : State) (e : Entry) (core flags : Nat) : State :=
  let c := s.eng.core core
  let d := s.dev.modEntry e.id fun e => { e with sticky := e.sticky ||| flags }
  let d := (List.range 10).foldl (fun d b => if flags.testBit b then d.countCore core (0x020 + b) e.lot 1 else d) d
  { s with dev := d, eng := s.eng.setCore core { c with sticky := c.sticky ||| flags } }

/-- Runs an engine's work on a core for the launch that the core runs; work that fails fails the launch (R17, R61). On a core
that runs no launch, nothing happens (assumption 11, DESIGN CHOICE). -/
def State.onCore (s : State) (core : Nat) (body : Entry → State → Except Status State) : State :=
  if !s.dev.running then s
  else
    match s.kernelOf core with
    | none => s
    | some e =>
      match body e s with
      | .ok s => s
      | .error st => s.failKernel e.id core st

/-- An operation that writes a range drops the held sources it overlaps (R126, R128). -/
def Core.dropHeld (c : Core) (lo hi : Nat) : Core :=
  { c with held := c.held.filter fun h => h.high ≤ lo || hi ≤ h.low }

/-- Writes a core's local store as an operation of an engine does. -/
def State.storeWrite (s : State) (core a : Nat) (bs : Bytes) : State :=
  { s with eng := (s.eng.write core a bs).setCore core ((s.eng.core core).dropHeld a (a + bs.length)) }

end Sys2Proof.Machine
end

