-- ==== Sys2Proof/Machine/Layout.lean ====
section
/-!
DEFINITION. Positions, boxes and the laydown of a job (R300, R301, R304, R307 to R311), the shards of PARAMETER tensors (R243,
R245, R252 to R254, R310), digests (R265), generator bits (R89), and the reading and writing of a shard's planes.
-/
namespace Sys2Proof.Machine

/-! ### Positions (R300, R301) -/

/-- The network coordinates in a position word or in LINK_POSITION. -/
def coordABC (c : Nat) : Nat × Nat × Nat := (field c 4 0, field c 9 5, field c 13 10)

/-- The position word of coordinates. -/
def posWord (a b c : Nat) : Nat := a + b * 2 ^ 5 + c * 2 ^ 10

/-- Whether coordinates lie in the network shape (R300). A dimension that the network lacks has size 1. -/
def Links.inShape (l : Links) (c : Nat) : Bool :=
  let (x, y, z) := coordABC c
  x < 2 ^ l.log2.getD 0 0 && y < 2 ^ l.log2.getD 1 0 && z < 2 ^ l.log2.getD 2 0

/-- Checks a position word for a lot (R9, R300). -/
def Device.positionCheck (d : Device) (lot w : Nat) : Option Status :=
  if w.testBit 63 then
    let p := w % 256
    if field w 62 8 ≠ 0 then some .eParam
    else if 92 ≤ p && p ≤ 95 then
      if (d.lot lot).auxPorts.testBit (p - 92) then none else some .ePermission
    else some .eCoord
  else if field w 62 14 ≠ 0 then some .eParam
  else if !d.links.inShape w || w % 2 ^ 14 = d.links.coord then some .eCoord
  else none

/-- Devices of a job (R301). -/
def Job.size (j : Job) : Nat := 2 ^ (j.log2.getD 0 0 + j.log2.getD 1 0 + j.log2.getD 2 0)

/-- Whether a position lies in a job's box (R301). -/
def Job.contains (j : Job) (c : Nat) : Bool :=
  let (x, y, z) := coordABC c
  let ok (v i : Nat) : Bool := j.origin.getD i 0 ≤ v && v < j.origin.getD i 0 + 2 ^ j.log2.getD i 0
  ok x 0 && ok y 1 && ok z 2

/-- The physical rank of a position in a box (R301). -/
def Job.rankOf (j : Job) (c : Nat) : Nat :=
  let (x, y, z) := coordABC c
  let na := j.log2.getD 0 0
  let nb := j.log2.getD 1 0
  (x - j.origin.getD 0 0) + 2 ^ na * ((y - j.origin.getD 1 0) + 2 ^ nb * (z - j.origin.getD 2 0))

/-- The position of a physical rank. -/
def Job.posOf (j : Job) (r : Nat) : Nat :=
  let na := j.log2.getD 0 0
  let nb := j.log2.getD 1 0
  posWord (j.origin.getD 0 0 + r % 2 ^ na) (j.origin.getD 1 0 + r / 2 ^ na % 2 ^ nb) (j.origin.getD 2 0 + r / 2 ^ (na + nb))

/-- This device's rank in a job; 0 in a job that is not declared. -/
def Device.rank (d : Device) (j : Job) : Nat := if j.declared then j.rankOf d.links.coord else 0

/-- The rank of a rank's twin (R309). -/
def Job.twinOf (j : Job) (r : Nat) : Option Nat :=
  let na := j.log2.getD 0 0
  let nb := j.log2.getD 1 0
  if j.log2.getD 2 0 > 0 then some (r ^^^ 2 ^ (na + nb))
  else if nb > 0 then some (r ^^^ 2 ^ na)
  else if na > 0 then some (r ^^^ 1)
  else none

/-! ### Cuts (R304, R307) -/

/-- The log2 cut sizes of a phase entry, and k (R304). -/
structure Cuts where
  d : Nat
  t : Nat
  s : Nat
  e : Nat
  k : Nat
  deriving DecidableEq, Repr

/-- The cuts of an entry. -/
def cutsOf (v : Nat) : Cuts := ⟨field v 3 0, field v 7 4, field v 11 8, field v 15 12, field v 19 16⟩

/-- A logical coordinate (d, t, s, e). -/
structure Logical where
  d : Nat
  t : Nat
  s : Nat
  e : Nat
  deriving DecidableEq, Repr

/-- The logical coordinate of a rank (R307). -/
def Cuts.coord (c : Cuts) (r : Nat) : Logical :=
  ⟨r / 2 ^ (c.t + c.s + c.e), r % 2 ^ c.t, r / 2 ^ c.t % 2 ^ c.s, r / 2 ^ (c.t + c.s) % 2 ^ c.e⟩

/-- The row-group index (R308). -/
def Cuts.rowGroup (c : Cuts) (r : Nat) : Nat :=
  let l := c.coord r
  l.s + 2 ^ c.s * (l.e + 2 ^ c.e * l.d)

/-- The entry of a phase for a job step: a pending one from its FROM_STEP (R316). The optimiser entry in force changes at a
tensor's RETHREAD instead. -/
def Job.entryFor (j : Job) (phase step : Nat) : Nat :=
  match j.pendingMap with
  | some p => if phase < 4 && p.mask.testBit phase && p.fromStep ≤ step then p.entries.getD phase 0 else j.entries.getD phase 0
  | none => j.entries.getD phase 0

/-- The optimiser entry that holds for a tensor (R316): the pending one once the tensor has been rethreaded. -/
def Job.optEntry (j : Job) (key : Nat) : Nat :=
  match j.pendingMap with
  | some p => if p.mask.testBit 4 && j.rethreaded.contains key then p.entries.getD 4 0 else j.entries.getD 4 0
  | none => j.entries.getD 4 0

/-! ### Shards (R310) -/

/-- Whether a tensor is an expert tensor (R310). -/
def Tensor.expert (t : Tensor) : Bool := t.dims.length = 3

/-- P of R310. -/
def Tensor.parts (t : Tensor) (c : Cuts) : Nat := if t.shardDim.isNone then 1 else 2 ^ (c.t + c.k)

/-- The extent of SHARD_DIM. -/
def Tensor.shardExtent (t : Tensor) : Nat := match t.shardDim with | some i => t.dims.getD i 1 | none => 1

/-- Whether a tensor can be cut under an entry (R310). -/
def Tensor.cutOk (t : Tensor) (c : Cuts) : Bool :=
  let p := t.parts c
  (t.shardDim.isNone || t.shardExtent % p = 0)
    && (!t.expert || (t.dims.getD 2 1 % 2 ^ c.e = 0 && t.shardDim ≠ some 2))
    && !(t.working = 7 && t.shardDim = some 0 && t.shardExtent / p % 32 ≠ 0)

/-- The shard indices that a rank holds (R310). The shards of an expert tensor are numbered expert by expert (assumption 15, DEDUCED). -/
def Tensor.held (t : Tensor) (c : Cuts) (r : Nat) : List Nat :=
  let l := c.coord r
  let p := t.parts c
  let j := if t.shardDim.isNone then 0 else l.t + 2 ^ c.t * (l.d % 2 ^ c.k)
  if t.expert then
    let x := t.dims.getD 2 1
    ((List.range x).filter fun u => u * 2 ^ c.e / x = l.e).map fun u => u * p + j
  else [j]

/-- The shards of a tensor that this device owns, under the optimiser entry in force for it (R310). A tensor without a job has
one shard, held here. -/
def Device.ownedShards (d : Device) (key : Nat) (t : Tensor) : List Nat :=
  let j := d.job t.job
  t.held (cutsOf (j.optEntry key)) (d.rank j)

/-- P of a tensor under the optimiser entry in force for it. -/
def Device.partsOf (d : Device) (key : Nat) (t : Tensor) : Nat := t.parts (cutsOf ((d.job t.job).optEntry key))

/-- The dims of one shard. -/
def Tensor.shardDims (t : Tensor) (p : Nat) : List Nat :=
  t.dims.zipIdx.map fun x =>
    if t.expert && x.2 = 2 then 1 else if t.shardDim = some x.2 then x.1 / p else x.1

/-- The runs of linear element indices that a shard covers, in increasing order: start and length. -/
def Tensor.runs (t : Tensor) (p shard : Nat) : List (Nat × Nat) :=
  let j := shard % p
  let u := shard / p
  let total := prod t.dims
  let (lo, hi) := if t.expert then (u * prod (t.dims.take 2), (u + 1) * prod (t.dims.take 2)) else (0, total)
  match t.shardDim with
  | none => [(lo, hi - lo)]
  | some sd =>
    let inner := prod (t.dims.take sd)
    let n := t.dims.getD sd 1
    let chunk := n / p
    let outer := inner * n
    (List.range ((hi - lo) / outer)).map fun o => (lo + o * outer + j * chunk * inner, chunk * inner)

/-- The linear index, in the whole tensor, of element i of a shard. -/
def linearOf : List (Nat × Nat) → Nat → Nat
  | [], i => i
  | (lo, n) :: t, i => if i < n then lo + i else linearOf t (i - n)

/-- Elements of a shard. -/
def Tensor.shardCount (t : Tensor) (p : Nat) : Nat := prod (t.shardDims p)

/-- C, R and the number of matrices of a shard (R245). -/
def Tensor.shardMatrix (t : Tensor) (p : Nat) : Nat × Nat × Nat :=
  let ds := t.shardDims p
  (ds.getD 0 1, ds.getD 1 1, prod (ds.drop 2))

/-- Bytes of a master element (R243). -/
def Tensor.masterBytes (t : Tensor) : Nat := if t.master = 1 then 2 else 4

/-- The byte ranges of a shard's master planes in the tensor's storage, in storage order (R72, R105, R108, R243). -/
def Tensor.masterSpans (t : Tensor) (p shard : Nat) : List (Nat × Nat) :=
  let w := t.masterBytes
  let rs := t.runs p shard
  let planes := planesOf t.fmt t.dims t.block16 t.sparsity
  let half := if t.sparsity = 1 then 2 else 1
  let moff := (planes.getD 1 (0, 0)).1
  (rs.map fun (r : Nat × Nat) => (r.1 * w / half, r.2 * w / half))
    ++ (if t.sparsity = 1 then rs.map fun r => (moff + r.1 / 8, ceilDiv (r.1 + r.2) 8 - r.1 / 8) else [])
    ++ (if t.sparsity = 2 then [planes.getD 3 (0, 0)] else [])

/-- Bytes of a whole master (R331). -/
def Tensor.masterSize (t : Tensor) : Nat := (planesOf t.fmt t.dims t.block16 t.sparsity).foldl (fun n p => n + p.2) 0

/-- The master planes of a shard through a list of extents. -/
def Device.readPlanes (d : Device) (xs : List Nat) (spans : List (Nat × Nat)) : Bytes :=
  spans.flatMap fun s => d.readExtents xs s.1 s.2

/-- The committed master planes of a shard. -/
def Device.masterOf (d : Device) (key shard : Nat) : Bytes :=
  match d.tensor key with
  | some t => d.readPlanes t.extents (t.masterSpans (d.partsOf key t) shard)
  | none => []

/-- Reads the committed master planes of a shard for a lot's work, with the accesses to their lines: poison fails it, and a LOST tensor (R213, R214,
R223, R349). -/
def Device.fetchMaster (d : Device) (tag key shard cls : Nat) : Res (Bytes × Device) :=
  match d.tensor key with
  | none => failWith .eHandle d
  | some t =>
    if t.lost then failWith .eStaleShard d
    else (t.masterSpans (d.partsOf key t) shard).foldlM (fun (acc : Bytes × Device) (s : Nat × Nat) => do
      let (b, d) ← acc.2.fetchExtents tag t.extents s.1 s.2 cls
      pure (acc.1 ++ b, d)) ([], d)

/-- The extents that the committed master planes of a shard lie in. -/
def Device.masterExtents (d : Device) (key shard : Nat) : List Nat :=
  match d.tensor key with
  | some t => ((t.masterSpans (d.partsOf key t) shard).flatMap fun s =>
      (List.range (ceilDiv (s.1 + s.2) Config.extentBytes - s.1 / Config.extentBytes)).map fun i =>
        t.extents.getD (s.1 / Config.extentBytes + i) 0).eraseDups
  | none => []

/-- The ranges of the master planes of some shards of a tensor, as a command claims them (R62). -/
def Device.masterRanges (d : Device) (key : Nat) (t : Tensor) (shards : List Nat) : List (Nat × Nat × Nat) :=
  shards.flatMap fun i => (t.masterSpans (d.partsOf key t) i).map fun s => (key, s.1, s.2)

/-- Stages and writes the master planes of a shard. -/
def Device.putMaster (d : Device) (e : Entry) (key shard : Nat) (bytes : Bytes) : Res Device :=
  match d.tensor key with
  | none => failWith .eHandle d
  | some t =>
    ((t.masterSpans (d.partsOf key t) shard).foldlM (fun (acc : Device × Bytes) (s : Nat × Nat) => do
      let d ← acc.1.stageRange e key s.1 s.2
      let d := d.writeStaged e key s.1 (acc.2.take s.2)
      pure (d.touchSpan e.lot (d.viewExtents e key t) s.1 s.2 e.op.traffic true, acc.2.drop s.2)) (d, bytes)).map
        fun (r : Device × Bytes) => r.1

/-- The bytes of element i of a shard in its master planes: offset in the value part, or none where it is not stored
(R105). -/
def Tensor.elemSlot (t : Tensor) (p shard : Nat) (planes : Bytes) (i : Nat) : Option Nat :=
  let w := t.masterBytes
  if t.sparsity = 1 then
    let values := t.shardCount p / 2 * w
    let n := bitElem 4 (i / 4 + (linearOf (t.runs p shard) 0) / 4 % 2) (planes.drop values)
    if i % 4 = n % 4 then some (2 * (i / 4) * w)
    else if i % 4 = n / 4 then some ((2 * (i / 4) + 1) * w)
    else none
  else some (i * w)

/-- The FP32 value of element i of a master without its compensation (R243). -/
def Tensor.masterElem (t : Tensor) (planes : Bytes) (slot : Option Nat) : Nat :=
  match slot with
  | none => 0
  | some o => if t.master = 1 then rd planes o 2 * 2 ^ 16 else rd planes o 4

/-- w of R246: the master with its compensation under MASTER_MODE 1. -/
def Tensor.masterValue (t : Tensor) (planes comp : Bytes) (slot : Option Nat) (i : Nat) : Nat :=
  let v := t.masterElem planes slot
  if t.master = 1 then fAdd fp32 v (rd comp (2 * i) 2 * 2 ^ 16) else v

/-! ### Digests (R265) -/

/-- The digest of a shard's master and compensation (R265). -/
def shardDigest (t : Tensor) (master comp : Bytes) : Nat := crc64 (if t.master = 1 then master ++ comp else master)

/-! ### Versions and step records (R252, R253) -/

/-- The next version (R252). -/
def nextVersion (v : Nat) : Nat := nextSkip0 32 v

/-- The flags of a step record (R253). -/
def recordFlags (skipped init : Bool) (old new : Nat) : Nat :=
  b2n skipped + 2 * b2n init + 4 * b2n (old = 0xFFFFFFFF && new = 1)

/-- The step record of a shard as its 64-byte codeword (R253). -/
def Shard.record (s : Shard) : Bytes :=
  toLE 4 s.version ++ toLE 4 s.flags ++ toLE 8 s.step ++ toLE 8 s.updates ++ toLE 8 s.digest ++ toLE 8 s.time ++ zeros 24

/-- A STATE record (R384) to a lot's queue: 0 statistics skip, 1 version wrap, 2 digest repair, 3 GAP. -/
def Device.stateEvent (d : Device) (lot handle shard k : Nat) : Device :=
  d.raiseLot (srcLot lot) 0x0A lot (toLE 4 handle ++ toLE 4 shard ++ toLE 1 k)

/-- A WRAPPED version is reported (R254). -/
def Device.wrapEvent (d : Device) (lot handle shard : Nat) (s : Shard) : Device :=
  if s.flags.testBit 2 then d.stateEvent lot handle shard 1 else d

/-! ### The working state of a PARAMETER tensor -/

/-- Bytes of a shard's second-moment sketch (R245). -/
def Tensor.sketchBytes (t : Tensor) (p : Nat) : Nat :=
  let (c, r, m) := t.shardMatrix p
  match t.sketch % 16 with
  | 0 => m * (4 * (r + c))
  | 1 => m * (pad64 (ceilDiv (r * c) 2) + pad64 (4 * ceilDiv (r * c) 64))
  | _ => m * (4 * (t.sketch / 16 * r + c))

/-- A shard record as TENSOR_CREATE leaves it (R243): +0 everywhere, version 0. -/
def Tensor.newShard (t : Tensor) (p : Nat) : Shard :=
  { comp := if t.master = 1 then zeros (2 * t.shardCount p) else [], moment := zeros (2 * t.shardCount p)
    sketch := zeros (t.sketchBytes p) }

/-- Bytes of a shard's compensation, m and sketch. -/
def Shard.stateBytes (s : Shard) : Nat := s.comp.length + s.moment.length + s.sketch.length

/-- The shard record of a tensor; as created where nothing has written it. -/
def Device.shardOf (d : Device) (key i : Nat) : Shard :=
  match d.shard key i with
  | some s => s
  | none => match d.tensor key with
    | some t => t.newShard (d.partsOf key t)
    | none => {}

/-- Extents that the compensation, m and sketch of the shards owned here of a new PARAMETER tensor take (R243). -/
def Device.newCopyExtents (d : Device) (key : Nat) (t : Tensor) : Nat :=
  if t.param then (d.ownedShards key t).length * extentsOf (t.newShard (d.partsOf key t)).stateBytes else 0

/-- Gives the shards owned here of a PARAMETER tensor, where they have no record yet, their compensation, m and sketch in device memory, all +0 at
version 0 (R243). -/
def Device.newCopies (d : Device) (key : Nat) (t : Tensor) : Option Device :=
  if !t.param then some d
  else
    (d.ownedShards key t).foldlM (fun d i =>
      if (d.shard key i).isSome then some d
      else
        let s := t.newShard (d.partsOf key t)
        (d.placeCopy (tensorLot key) s.stateBytes).map fun r => r.2.setShard key i { s with extents := r.1 }) d

/-- PARAMETER tensors of a job on this device. -/
def Device.paramsOf (d : Device) (lot job : Nat) : List (Nat × Tensor) :=
  d.tensors.filter fun t => tensorLot t.1 = lot && t.2.param && t.2.live && t.2.committed && t.2.job = job

/-! ### Protection (R331, R334) -/

/-- Whether a tensor is protected by MIRROR now (R331, R350): the method in force, or the choice of R331 before any. A change to WAIT leaves the
mirrors until its pass is secured. -/
def Device.isMirror (d : Device) (key : Nat) (t : Tensor) : Bool :=
  let j := d.job t.job
  if j.size = 1 then false
  else match Tab.find j.active key with
    | some m => m = 1
    | none => j.recovery = 0 && t.masterSize ≤ 64 * 2 ^ 20

/-- Whether a rank holds a shard. -/
def Device.holds (d : Device) (key : Nat) (t : Tensor) (shard r : Nat) : Bool :=
  (t.held (cutsOf ((d.job t.job).optEntry key)) r).contains shard

/-- Whether the twin is itself a replica of a shard (R322, R334). -/
def Device.twinHolds (d : Device) (key : Nat) (t : Tensor) (shard : Nat) : Bool :=
  let j := d.job t.job
  match j.twinOf (d.rank j) with
  | some r => d.holds key t shard r
  | none => false

/-- Whether a commit of a shard waits for its twin's acknowledgement (R334). -/
def Device.needsAck (d : Device) (key : Nat) (t : Tensor) (shard : Nat) : Bool :=
  d.isMirror key t && !d.twinHolds key t shard

/-- The image of a shard as it stands or travels (R328, R334, R336, R346). -/
def Device.imageOf (d : Device) (key shard : Nat) (master : Bytes) (s : Shard) : ShardImage :=
  { handle := match d.tensor key with | some t => t.handle key | none => 0
    shard := shard, version := s.version, step := s.step, updates := s.updates, flags := s.flags, time := s.time, master := master
    comp := s.comp, moment := s.moment, sketch := s.sketch, amax := s.amax, gathered := s.gathered
    retained := s.retained.map fun r => (r.step, r.data, r.nonfinite), held := s.held }

end Sys2Proof.Machine
end

