-- ==== Sys2Proof/Machine/Tensors.lean ====
section
/-!
DEFINITION. The tensor commands: TENSOR_CREATE, TENSOR_FREE, TENSOR_HINT, TENSOR_PIN, the return of a freed tensor's storage, and
the expiry of a DEADLINE during a wait for quota (R46 to R52, R61, R204, R205, R462).
-/
namespace Sys2Proof.Machine

/-- The checks of TENSOR_CREATE (R46 to R48). -/
def createOk (p : Bytes) : Option (Format × List Nat) :=
  match Format.ofCode (rd p 16 1) with
  | none => none
  | some fmt =>
    let rank := rd p 17 1
    let dims := (List.range rank).map fun i => rd p (20 + 4 * i) 4
    let layout := rd p 18 1
    let d0 := dims.getD 0 0
    let d1 := dims.getD 1 0
    let block16 := layout.testBit 2
    let param := layout.testBit 3
    let sparsity := layout % 4
    let sdim := rd p 19 1
    let sketch := rd p 45 1
    let narrow := fmt.isMx || [Format.fp16, .bf16, .e4m3, .e5m2].contains fmt
    if rank < 1 || 6 < rank || dims.contains 0 || !(sdim = 0xFF || sdim < rank) || sparsity = 3 then none
    else if fmt = .code && rank ≠ 1 then none
    else if fmt.isMx && d0 % (if block16 then 16 else 32) ≠ 0 then none
    else if block16 && !fmt.isMx then none
    else if sparsity = 1 && (d0 % 4 ≠ 0 || !narrow) then none
    else if sparsity = 2 && (rank < 2 || d0 % 32 ≠ 0 || d1 % 32 ≠ 0) then none
    else if param && !(fmt = .fp32 || fmt = .bf16) then none
    else if param && fmt = .fp32 && rd p 44 1 ≠ 0 then none
    else if param && fmt = .bf16 && rd p 44 1 ≠ 1 then none
    else if param && !(rd p 47 1 = 7 || rd p 47 1 = 5) then none
    else if param && rd p 47 1 = 7 && d0 % 32 ≠ 0 then none
    else if param && (sketch % 16 > 2 || (sketch % 16 = 2 && (sketch / 16 < 1 || 8 < sketch / 16))
        || (sketch % 16 ≠ 2 && sketch / 16 ≠ 0)) then none
    else some (fmt, dims)

/-- The lowest key from `lo` that a table does not list. -/
def freeKey {α : Type} : Nat → Table α → Nat
  | lo, [] => lo
  | lo, (k, _) :: t => if k < lo then freeKey lo t else if k = lo then freeKey (lo + 1) t else lo

/-- A free handle index of a lot: the first from a start that the manual leaves open, in cyclic order (R49, assumption 12, DESIGN CHOICE). -/
def Device.freeIndex (d : Device) (tag start : Nat) : Option Nat :=
  let first := 1 + start % (2 ^ 24 - 1)
  let a := freeKey (tensorKeyOf tag first) d.tensors
  if a / 2 ^ 24 = tag then some (a % 2 ^ 24)
  else
    let b := freeKey (tensorKeyOf tag 1) d.tensors
    if b < tensorKeyOf tag first then some (b % 2 ^ 24) else none

/-- TENSOR_CREATE (R46 to R49, R205): RESULT0 the handle, RESULT1 the bytes reserved. The copies of a PARAMETER tensor's shards take quota as staging
does (R61, R243; assumption 40, DESIGN CHOICE). -/
def tensorCreateBody (e : Entry) (d : Device) : Res (Nat × Nat × Device) := do
  let p := e.packet
  let (fmt, dims) ← need (createOk p) .eParam d
  let layout := rd p 18 1
  let size := tensorBytes fmt dims (layout.testBit 2) (layout % 4)
  let n := extentsOf size
  check (d.heldExtents e.lot + n ≤ d.quotaExtents e.lot) .eQuota d
  let ix ← need (d.freeIndex e.lot (Config.tensorIndex e.id)) .eQuota d
  let key := tensorKeyOf e.lot ix
  let gen := nextSkip0 8 (Tab.look 0 d.gens key)
  let job := (d.stream e.stream).job
  let cookie := rd p 48 8
  let t : Tensor :=
    { gen := gen, fmt := fmt, dims := dims, param := layout.testBit 3, block16 := layout.testBit 2, sparsity := layout % 4
      shardDim := if rd p 19 1 = 0xFF then none else some (rd p 19 1), master := rd p 44 1, sketch := rd p 45 1
      rounding := rd p 46 1, working := rd p 47 1, cookie := cookie, job := job, key := tensorKey job cookie, size := size }
  let copies := d.newCopyExtents key t
  let d ← if copies = 0 then pure d else d.take e (n + copies)
  match d.placeNew e.lot (List.range Config.memStacks) n none [] with
  | none => d.noSpace e
  | some (xs, d') =>
    match d'.newCopies key t with
    | none => d.noSpace e
    | some d =>
      let d := { d with tensors := Tab.insert { t with extents := xs } d.tensors key, gens := Tab.put 0 gen d.gens key }
      let d := d.modEntry e.id fun e => { e with tensors := [key] }
      pure (t.handle key, size, d)

/-- The commit of TENSOR_CREATE: the tensor exists. -/
def commitCreate (e : Entry) (d : Device) : Device :=
  e.tensors.foldl (fun d key => d.modTensor key fun t => { t with committed := true }) d

/-- TENSOR_FREE (R50). -/
def tensorFreeBody (e : Entry) (d : Device) : Res (Nat × Nat × Device) := do
  let _ ← d.find e (e.param 16 4)
  pure (0, 0, d)

/-- ENABLE is cleared on queues and event rings of a lot that no longer lie in pinned tensors; replies waiting for such a ring are held until
it is enabled again (R395, R462). -/
def Device.recheckRings (d : Device) (tag : Nat) : Device :=
  let d := (List.range Config.queuesPerLot).foldl (fun d q =>
    let v := d.queue tag q
    let bad := (v.sqLoc && !d.ringOk tag (v.sqBase * 4096) (64 * v.size))
      || (v.rqLoc && !d.ringOk tag (v.rqBase * 4096) (32 * v.size))
    if v.enable && bad then d.setQueue tag q { v with enable := false } else d) d
  let d := d.holdAll tag
  let v := d.evq tag
  let n := 2 ^ (if v.depth = 0 then 16 else v.depth)
  if v.enable && v.loc && !d.ringOk tag (v.base * 4096) (32 * n) then d.setEvq tag { v with enable := false } else d

/-- Watches by lot and tensor: key lot·2^24 + index, so the tensor key itself. -/
def Device.dropWatch (d : Device) (key : Nat) : Device :=
  { d with observe := { d.observe with watches := Tab.erase d.observe.watches key } }

/-- The commit of TENSOR_FREE: the handle becomes invalid, its watch and its statistics context go, and rings that lay in the
tensor lose ENABLE (R50, R154, R431, R462). -/
def commitFree (e : Entry) (d : Device) : Device :=
  let key := tensorKeyOf e.lot (e.param 16 4 % 2 ^ 24)
  let d := d.modTensor key fun t => { t with live := false }
  let d := d.dropWatch key
  let d := { d with solver := { d.solver with contexts := d.solver.contexts.filter fun c => c.1 / 2 ^ 16 ≠ key && c.2.weight ≠ key } }
  d.recheckRings e.lot

/-- TENSOR_HINT (R51). -/
def tensorHintBody (e : Entry) (d : Device) : Res (Nat × Nat × Device) := do
  let _ ← d.find e (e.param 16 4)
  check (e.param 21 1 ≤ 3) .eParam d
  pure (0, 0, d)

/-- The commit of TENSOR_HINT. -/
def commitHint (e : Entry) (d : Device) : Device :=
  d.modTensor (tensorKeyOf e.lot (e.param 16 4 % 2 ^ 24)) fun t =>
    { t with phases := e.param 20 1, cls := some (e.param 21 1), reuse := some (e.param 22 2) }

/-- Pinned extents of a lot, with those of pins that are staged (R52, R377). -/
def Device.pinnedExtents (d : Device) (tag : Nat) : Nat :=
  ((d.tensors.filter fun t => tensorLot t.1 = tag && t.2.pinned).map fun t => t.2.extents.length).sum

/-- Extents of pins of a lot that are staged and not committed. -/
def Device.pinsStaged (d : Device) (tag id : Nat) : Nat :=
  ((d.journal.filter fun e => e.lot = tag && e.id ≠ id && e.op = .tensorPin && e.phase = .staged && e.status.good
      && e.param 20 1 = 1).map fun e =>
    match d.tensor (tensorKeyOf tag (e.param 16 4 % 2 ^ 24)) with
    | some t => if t.pinned then 0 else t.extents.length
    | none => 0).sum

/-- The copy of an extent to another: UMBER traffic of its 8,192 lines at both stacks (R207, R223). -/
def Device.moveTraffic (d : Device) (x y : Nat) : Device :=
  (d.stackLines systemTag (x * Config.extentBytes) 8192 3).stackLines systemTag (y * Config.extentBytes) 8192 3

/-- The copies that a pin makes of extents outside STACK_MASK, on stacks of the mask chosen as R205 chooses. -/
def Device.pinMoves (d : Device) (e : Entry) (key : Nat) (t : Tensor) (stackIds : List Nat) : Res Device :=
  let outside := t.extents.zipIdx.filter fun p => !stackIds.contains (extentStack p.1)
  let move (acc : Device × Option Nat) (p : Nat × Nat) : Res (Device × Option Nat) := do
    let (d, prev) := acc
    let cur ← need (d.entry e.id) .eHandle d
    match cur.staging.find? fun s => s.tensor = key && s.index = p.2 with
    | some s => pure (d, some (extentStack s.extent))
    | none =>
      let d ← d.take e 1
      match d.chooseStack stackIds prev none with
      | none => d.noSpace e
      | some m =>
        let (x, d) := d.giveExtent m (.lot e.lot)
        let d := d.modEntry e.id fun e => { e with staging := e.staging ++ [{ tensor := key, index := p.2, extent := x }] }
        pure ((d.moveTraffic p.1 x).copyExtent p.1 x, some m)
  (outside.foldlM move (d, none)).map fun r => r.1

/-- The placement moves of a tensor are abandoned and their copies freed (R207). -/
def Device.abandonMoves (d : Device) (key : Nat) : Device :=
  let mine := d.mem.moves.filter fun m => m.tensor = key
  { d with mem := { d.mem with moves := d.mem.moves.filter fun m => m.tensor ≠ key } }.releaseExtents (mine.map fun (m : Move) => m.to_)

/-- TENSOR_PIN (R52): a move in progress is abandoned by the pin (R207). -/
def tensorPinBody (e : Entry) (d : Device) : Res (Nat × Nat × Device) := do
  let (key, t) ← d.find e (e.param 16 4)
  let action := e.param 20 1
  let mask := e.param 24 4
  check (action ≤ 1) .eParam d
  if action = 0 then
    check (mask = 0) .eParam d
    pure (0, 0, d)
  else
    let n := t.extents.length
    let pinned := d.pinnedExtents e.lot + d.pinsStaged e.lot e.id
    check (t.pinned || (pinned + n) * Config.extentBytes ≤ (d.lot e.lot).pinQuota) .eQuota d
    if mask = 0 then
      pure (0, 0, d.abandonMoves key)
    else
      let stackIds := bitsOf Config.memStacks mask
      let out := (t.extents.filter fun x => !stackIds.contains (extentStack x)).length
      check (e.ran || out ≤ (stackIds.map d.freeIn).sum) .eQuota d
      let d ← d.claim e [(key, 0, n * Config.extentBytes)]
      let d := (d.abandonMoves key).modEntry e.id fun e => { e with ran := true }
      let d ← d.pinMoves e key t stackIds
      pure (0, 0, d)

/-- Codewords poisoned in one extent, as they stand in another that receives its content (R216). -/
def Device.movePoison (d : Device) (x y : Nat) : Device :=
  let moved := (d.mem.poison.filter fun a => a / Config.extentBytes = x).map fun a => a % Config.extentBytes + y * Config.extentBytes
  { d with mem := { d.mem with poison := d.mem.poison ++ moved } }

/-- The commit of TENSOR_PIN: the copies take the place of the extents outside the mask; the tensor is pinned or not (R52, R207,
R462). -/
def commitPin (e : Entry) (d : Device) : Device :=
  let key := tensorKeyOf e.lot (e.param 16 4 % 2 ^ 24)
  match d.tensor key with
  | none => d
  | some t =>
    if e.param 20 1 = 0 then
      (d.modTensor key fun t => { t with pinned := false, mask := 0 }).recheckRings e.lot
    else
      let d := e.staging.foldl (fun d s =>
        let old := t.extents.getD s.index 0
        ((d.zeroExtent s.extent).copyExtent old s.extent).movePoison old s.extent) d
      let d := d.abandonMoves key
      let d := if e.staging.isEmpty then d else d.commitStaging e.id
      d.modTensor key fun t => { t with pinned := true, mask := e.param 24 4 }

/-- Whether a command in flight, or a version pin, still reaches a tensor (R50). -/
def Device.inUse (d : Device) (key : Nat) : Bool :=
  d.journal.any (fun e => (e.phase = .dispatched || e.phase = .staged) && e.status.good && e.tensors.contains key)
    || d.shards.any (fun s => s.1 / 2 ^ 32 = key && s.2.pins.any fun p => !p.users.isEmpty)

/-- Nothing of a job's securing state refers to a tensor whose index is free. -/
def Job.forget (j : Job) (key : Nat) : Job :=
  { j with
    methods := Tab.erase j.methods key, active := Tab.erase j.active key, auto := Tab.erase j.auto key
    leaving := Tab.erase j.leaving key, digestOf := Tab.erase j.digestOf key, digestForce := j.digestForce.filter (· ≠ key)
    compared := Tab.erase j.compared key, repaired := Tab.erase j.repaired key }

/-- STORAGE_RETURN: the storage of a freed tensor returns to the quota, and its index becomes free (R49, R50, R204). -/
def Device.storageReturn (d : Device) (tag ix : Nat) : Device :=
  let key := tensorKeyOf tag ix
  match d.tensor key with
  | none => d
  | some t =>
    if t.live || !t.committed || d.inUse key then d
    else
      let d := { d.abandonMoves key with
        tensors := Tab.erase d.tensors key
        jobs := d.jobs.map fun (j : Nat × Job) => (j.1, j.2.forget key)
        shards := d.shards.filter fun (s : Nat × Shard) => s.1 / 2 ^ 32 ≠ key
        solver := { d.solver with preconds := Tab.erase d.solver.preconds key } }
      (d.releaseExtents t.extents).sweepOrphans

/-- QUOTA_WAIT_DEADLINE: the DEADLINE of a command that waits for quota has passed (R61). -/
def Device.quotaDeadline (d : Device) (stream : Nat) : Device :=
  if !d.running then d
  else
    match (d.streamEntries stream).find? fun e => e.phase = .dispatched && e.wait = .quota && e.deadline ≠ 0 && e.deadline ≤ d.time with
    | some e => d.failEntry e.id .eDeadlineMissed
    | none => d

end Sys2Proof.Machine
end

