-- ==== Sys2Proof/Machine/Launch.lean ====
section
/-!
DEFINITION. Launches: OP_LAUNCH, GRAPH_LAUNCH and KERNEL_ENTRY (R53, R54, R95, R101, R111, R136, R148, R155, R222, R311).
-/
namespace Sys2Proof.Machine

/-- The handle in tensor slot i of a launch, or in entry i of a graph's handle table. -/
def Entry.slotHandle (e : Entry) (i : Nat) : Nat :=
  if e.op = .graphLaunch then rd e.tbl (4 * i) 4 else if i < 7 then e.param (36 + 4 * i) 4 else 0

/-- Tensor slots of a launch. -/
def Entry.slots (e : Entry) : Nat := if e.op = .graphLaunch then e.param 40 2 else e.param 32 1

/-- PHASE of a launch (R53). -/
def Entry.phaseByte (e : Entry) : Nat := if e.op = .graphLaunch then e.param 42 1 else e.param 33 1

/-- What the code object declares for a slot. -/
def CodeDecl.slot (c : CodeDecl) (i : Nat) : SlotDecl := c.slots.getD i {}

/-- The stream's launch that runs: dispatched, its checks passed. -/
def Device.launchOf (d : Device) (stream : Nat) : Option Entry :=
  d.journal.find? fun e => e.stream = stream && (e.op = .opLaunch || e.op = .graphLaunch) && e.phase = .dispatched && e.ran

/-! ### Shuttle records (R111, R116) -/

/-- A dispatch record (R111). -/
structure ShuttleRecord where
  tokens   : Nat
  experts  : Nat
  topk     : Nat
  policy   : Nat
  renorm   : Bool
  depth    : Nat
  capacity : Nat
  score    : Nat
  list     : Nat
  deriving DecidableEq, Repr

/-- Reads a dispatch record; `none` where a field is out of range or a reserved one not 0 (R111, R9). -/
def shuttleRecord (b : Bytes) : Option ShuttleRecord :=
  let p := rd b 7 1
  let r : ShuttleRecord :=
    { tokens := rd b 0 4, experts := rd b 4 2, topk := rd b 6 1, policy := p % 4, renorm := p.testBit 2, depth := field p 5 3
      capacity := rd b 8 4, score := rd b 12 1, list := rd b 13 1 }
  if b.length = 16 && 1 ≤ r.tokens && r.tokens ≤ 2 ^ 20 && 1 ≤ r.experts && r.experts ≤ 256 && 1 ≤ r.topk && r.topk ≤ 8
      && r.topk ≤ r.experts && r.policy ≤ 2 && p < 64 && (if r.policy = 1 then 1 ≤ r.depth else r.depth = 0)
      && 1 ≤ r.capacity && r.capacity ≤ r.tokens && r.score ≤ 6 && (r.list ≤ 6 || r.list = 0xFF) && rd b 14 2 = 0
  then some r else none

/-- H, S and the size of a dispatch structure (R116). -/
def ShuttleRecord.layout (r : ShuttleRecord) : Nat × Nat × Nat :=
  let h := pad64 (16 * r.experts)
  let s := h + pad64 (r.experts * r.capacity * 8)
  (h, s, s + pad64 (r.tokens * r.topk * 8))

/-- The dispatch record of a launch (R111). -/
def Entry.shuttle (e : Entry) (i : Nat) : Option ShuttleRecord :=
  match e.decl.records[i]? with
  | some off => shuttleRecord ((e.args.drop off).take 16)
  | none => none

/-! ### The tap (R148, R155) -/

/-- Whether a context is due at a step (R155). -/
def StatsCtx.due (c : StatsCtx) (step : Nat) : Bool :=
  c.enable && c.kind ≤ 3 && c.offset ≤ step && (step - c.offset) % (max c.period 1) = 0

/-- The contexts that a launch taps (R155): their keys and states. -/
def Device.tapped (d : Device) (e : Entry) (decl : CodeDecl) : List (Nat × StatsCtx) :=
  match decl.gradOf with
  | none => []
  | some slot =>
    if e.phaseByte ≠ 1 then []
    else
      let key := tensorKeyOf e.lot (e.slotHandle slot % 2 ^ 24)
      let step := e.step
      d.solver.contexts.filter fun c => c.1 / 2 ^ 40 = e.lot && c.2.weight = key && c.2.due step

/-- The global index of a launch's first row on this device, less the rows of the launches before it, and its rows on all devices (R308). -/
def Device.launchRows (d : Device) (e : Entry) (decl : CodeDecl) : Nat × Nat :=
  let j := d.job (d.stream e.stream).job
  let c := cutsOf (j.entryFor 1 e.step)
  (decl.rows * c.rowGroup (d.rank j), decl.rows * 2 ^ (c.d + c.s + c.e))

/-- What a launch taps for a context, as the context is configured now (R146, R154). -/
def Device.tapFor (d : Device) (e : Entry) (decl : CodeDecl) (key : Nat) (c : StatsCtx) : LaunchTap :=
  let step := e.step
  let before := ((c.tapRows.filter fun r => r.1 = step && r.2.1 < e.id).map fun r => r.2.2).sum
  { key := key, kind := c.kind, width := c.width, subsample := c.subsample, phase := c.phase
    expert := (d.tensor c.weight).any Tensor.expert, origin := before + (d.launchRows e decl).1 }

/-- Whether a logical row is sampled (R146). -/
def LaunchTap.samples (t : LaunchTap) (i : Nat) : Bool := i % 2 ^ t.subsample = t.phase

/-- N_s of a launch for a context (R148): of a dense weight its sampled rows; of an expert weight the code object's bound. -/
def LaunchTap.rows (t : LaunchTap) (decl : CodeDecl) : Nat :=
  if t.expert then decl.sampled else ((List.range decl.rows).filter fun r => t.samples (t.origin + r)).length

/-- Whether the panel of a context keeps 2-byte elements: its operand is BF16 or FP16 (R148). -/
def Device.panelNarrow (d : Device) (e : Entry) (decl : CodeDecl) (t : LaunchTap) : Bool :=
  (List.range e.slots).any fun i =>
    (decl.slot i).tapOperand = some (decide (t.kind % 2 = 1)) && match d.lookup e.lot (e.slotHandle i) with
      | some (_, x) => x.fmt = .bf16 || x.fmt = .fp16
      | none => false

/-- Bytes of the sample panels of a launch (R148). -/
def Device.panelBytes (d : Device) (e : Entry) (decl : CodeDecl) (taps : List LaunchTap) : Nat :=
  (taps.map fun t => t.rows decl * t.width * (if d.panelNarrow e decl t then 2 else 4)).sum

/-! ### The checks at dispatch -/

/-- The parameters of an OP_LAUNCH (R53). -/
def opLaunchParams (e : Entry) : Bool :=
  1 ≤ e.param 32 1 && e.param 32 1 ≤ 7 && e.param 22 2 ≤ 4096 && (e.param 22 2 ≠ 0 || e.param 24 8 = 0)
    && (e.param 33 1 ≤ 4 || e.param 33 1 = 0xFF)

/-- The parameters of a GRAPH_LAUNCH (R54). -/
def graphLaunchParams (e : Entry) : Bool :=
  e.param 22 2 ≤ 4096 && (e.param 22 2 ≠ 0 || e.param 24 8 = 0) && 1 ≤ e.param 40 2 && e.param 40 2 ≤ 4096
    && (e.param 42 1 ≤ 4 || e.param 42 1 = 0xFF) && 1 ≤ e.param 44 4 && e.param 44 4 ≤ 65536

/-- Checks one tensor slot of a launch (R101, R147, R310, R311, R349). Assumption 16, DEDUCED. -/
def Device.checkSlot (d : Device) (e : Entry) (decl : CodeDecl) (tapped : Bool) (i : Nat) : Res Unit := do
  let (key, t) ← d.find e (e.slotHandle i)
  let s := decl.slot i
  let job := d.job t.job
  let mine := t.job = (d.stream e.stream).job && t.job ≠ 0
  check (!(t.lost && s.reads)) .eStaleShard d
  check (!(s.transposed && t.fmt.isMx)) .eMxAxis d
  check (!(tapped && s.tapOperand.isSome && t.fmt = .fp64)) .eParam d
  if t.param && mine && e.phaseByte ≤ 4 then
    let c := cutsOf (job.entryFor e.phaseByte e.step)
    check (t.shardDim.isNone || t.shardExtent % 2 ^ c.t = 0) .eParam d
    check (t.cutOk (cutsOf (job.optEntry key))) .eParam d

/-- Checks one dispatch record of a launch (R111, R116). -/
def Device.checkRecord (d : Device) (e : Entry) (i : Nat) : Res Nat := do
  let r ← need (e.shuttle i) .eParam d
  check (r.score < e.slots && (r.list = 0xFF || r.list < e.slots)) .eParam d
  let (_, sc) ← d.find e (e.slotHandle r.score)
  check (sc.fmt = .fp32 && sc.dims = [r.experts, r.tokens]) .eParam d
  let (_, _, size) := r.layout
  if r.list ≠ 0xFF then
    let (_, l) ← d.find e (e.slotHandle r.list)
    check (l.fmt = .uint8 && size ≤ l.size) .eParam d
  pure size

/-- Declares the reduction regions of a launch (R222). -/
def Device.declareRegions (d : Device) (e : Entry) (decl : CodeDecl) : Device :=
  decl.regions.foldl (fun d r =>
    let key := tensorKeyOf e.lot (e.slotHandle r.slot % 2 ^ 24)
    { d with mem := { d.mem with
        regions := Tab.insert { lot := e.lot, entry := e.id, fn := r.fn, n := r.contributors, tensor := key, offset := r.offset }
          d.mem.regions (e.id * 2 ^ 16 + r.region) } }) d

/-- A launch at its dispatch: its checks, and what it reserves until it ends (R53, R101, R111, R116, R148, R155). -/
def launchStart (e : Entry) (decl : CodeDecl) (params : Bool) (d : Device) : Res Device := do
  check (params && !decl.fp64Stage) .eParam d
  let (_, k) ← d.find e (e.param 16 4)
  check (k.fmt = .code) .eParam d
  check (!k.lost) .eStaleShard d
  let e := { e with decl := decl }
  let ctxs := d.tapped e decl
  (List.range e.slots).forM fun i => d.checkSlot e decl (!ctxs.isEmpty) i
  check (decl.regions.all fun r => r.slot < e.slots && 1 ≤ r.contributors && r.region < 2 ^ 16) .eParam d
  let step := e.step
  check (ctxs.all fun c => match c.2.tapStream with | some (s, z) => s ≠ step || z = e.stream | none => true) .eParam d
  let sizes ← (List.range decl.records.length).mapM fun i => d.checkRecord e i
  let lists := (List.range decl.records.length).filterMap fun i => (e.shuttle i).map fun r => r.list
  let d ← d.claim e ((List.range e.slots).filterMap fun i =>
    if (decl.slot i).writes || lists.contains i then (d.lookup e.lot (e.slotHandle i)).map fun x => (x.1, 0, x.2.size) else none)
  let taps := ctxs.map fun c => d.tapFor e decl c.1 c.2
  let panel := d.panelBytes e decl taps
  check (d.scratchFits e.lot panel) .eQuota d
  let d := d.takeScratch e.id e.lot panel
  check (d.scratchFits e.lot sizes.sum) .eShuttleSpace d
  let d := d.takeScratch e.id e.lot sizes.sum
  let d := { d with solver := { d.solver with
    contexts := d.solver.contexts.map fun (c : Nat × StatsCtx) =>
      if ctxs.any fun x => x.1 = c.1 then
        (c.1, { c.2 with
          tapStream := some (step, e.stream)
          tapRows := (c.2.tapRows.filter fun (r : Nat × Nat × Nat) => r.1 = step && r.2.1 ≠ e.id) ++ [(step, e.id, (d.launchRows e decl).2)] })
      else c } }
  pure ((d.declareRegions e decl).modEntry e.id fun e => { e with decl := decl, taps := taps, ran := true })

/-- A launch at its first row: its checks, and then it runs; its work is done by the core commands. -/
def launchBody (decl : CodeDecl) (params : Entry → Bool) (e : Entry) (d : Device) : Res (Nat × Nat × Device) := do
  if e.ran then waitFor e.wait d
  else
    let d ← launchStart e decl (params e) d
    waitFor .nothing d

/-- Whether a core can run a kernel: its cluster and itself enabled and awake (R400, R407). -/
def Device.coreReady (d : Device) (core : Nat) : Bool :=
  (d.coreDom core).state = .enabled && (d.coreDom core).cstate ≤ 1 && (d.cluster (core / 8)).state = .enabled
    && (d.cluster (core / 8)).cstate ≤ 1

/-- KERNEL_ENTRY: the core starts the kernel of a launch and clears its sticky summary (R136); its top-down counts go to the lot
(R427). -/
def execKernelEntry (core : CoreId) (stream : StreamId) (s : State) : Out :=
  match s.dev.launchOf stream with
  | none => .next s
  | some e =>
    let c := s.eng.core core
    let busy := match s.kernelOf core with | some x => x.id ≠ e.id | none => false
    if !s.dev.running || !s.dev.coreReady core || busy then .next s
    else
      .next { s with
        dev := (s.dev.countCore core 0x00F e.lot 1).setCoreDom core { s.dev.coreDom core with idleSince := s.dev.time }
        eng := s.eng.setCore core { c with kernel := some e.id, sticky := 0 } }

end Sys2Proof.Machine
end

