-- ==== Sys2Proof/Machine/CacheOps.lean ====
section
/-!
DEFINITION. What the shared-cache slices execute: the atomics of R220 and the declared reductions of R222.
-/
namespace Sys2Proof.Machine

/-- Bytes of the memory element of an atomic (R220). -/
def AtomicKind.bytes : AtomicKind → Nat
  | .bf16 => 2
  | .w64 => 8
  | _ => 4

/-- Element kinds that an operation has (R220). -/
def AtomicFn.kinds : AtomicFn → List AtomicKind
  | .add => [.f32, .bf16, .f32e4m3, .f32e5m2]
  | .min | .max => [.f32, .i32]
  | _ => [.w32, .w64]

/-- Whether an atomic has the form that R220 gives its operation: an element kind of it, one element, or up to 64 consecutive 32-bit ones of one line,
and for CAS a compare value for each. -/
def Atomic.wf (a : Atomic) (fn : AtomicFn) : Bool :=
  fn.kinds.contains a.kind && 1 ≤ a.operands.length && (if a.kind.bytes = 4 then a.operands.length ≤ 64 else a.operands.length = 1)
    && (a.addr % a.kind.bytes ≠ 0 || a.addr % 256 + a.kind.bytes * a.operands.length ≤ 256)
    && (if fn = .cas then a.compare.length = a.operands.length else a.compare.isEmpty)

/-- The sum of an ADD (R70, R80, R220). -/
def atomicSum (k : AtomicKind) (old op : Nat) : Nat :=
  match k with
  | .bf16 => fAdd bf16 old op
  | .f32e4m3 => encodeF fp32 ((decodeF fp32 old).add (decodeF e4m3 op))
  | .f32e5m2 => encodeF fp32 ((decodeF fp32 old).add (decodeF e5m2 op))
  | _ => fAdd fp32 old op

/-- The smaller of two elements (R139). -/
def atomicLess (k : AtomicKind) (old op : Nat) : Nat :=
  match k with
  | .i32 => if toSigned 32 op < toSigned 32 old then op else old
  | _ => f32min old op

/-- The larger of two elements (R139). -/
def atomicMore (k : AtomicKind) (old op : Nat) : Nat :=
  match k with
  | .i32 => if toSigned 32 old < toSigned 32 op then op else old
  | _ => f32max old op

/-- The element's new value from its old one, its operand and its compare value (R220). -/
def AtomicFn.eval (fn : AtomicFn) (k : AtomicKind) (old op compare : Nat) : Nat :=
  match fn with
  | .add => atomicSum k old op
  | .min => atomicLess k old op
  | .max => atomicMore k old op
  | .band => old &&& op
  | .bor => old ||| op
  | .bxor => old ^^^ op
  | .swap => op
  | .cas => if old = compare then op else old

/-- Whether an operation returns the old value (R220). -/
def AtomicFn.returns (fn : AtomicFn) : Bool := fn = .swap || fn = .cas

/-- The new values of an atomic's elements from the old ones. -/
def Atomic.results (a : Atomic) (fn : AtomicFn) (olds : List Nat) : List Nat :=
  olds.zipIdx.map fun p => fn.eval a.kind p.1 (a.operands.getD p.2 0) (a.compare.getD p.2 0)

/-- One line operation (R220): it is performed on what the launch's stream sees of the tensor, and staged (R61); an extent of another owner and poison
fail the launch (R209, R214). -/
def atomicBody (a : Atomic) (fn : AtomicFn) (e : Entry) (d : Device) : Res Device := do
  let n := a.kind.bytes
  let len := n * a.operands.length
  let x := a.addr / Config.extentBytes
  if d.owner x ≠ .lot e.lot then failWith .eTagViolation (d.tagViolation (srcSlice (homeSlice a.addr)) e.lot a.addr)
  else
    let (key, t) ← need (d.tensorAt e.lot x) .eHandle d
    let off := (t.extents.idxOf x) * Config.extentBytes + a.addr % Config.extentBytes
    let d ← d.stageRange e key off len
    let (old, d) ← d.fetchTensor e key off len
    let olds := (List.range a.operands.length).map fun i => rd old (n * i) n
    let d ← d.putTensor e key off ((a.results fn olds).flatMap (toLE n))
    let d := d.countCluster (some (homeSlice a.addr)) 0x103 e.lot 1
    pure (if fn.returns then { d with mem := { d.mem with atomicOld := Tab.insert olds d.mem.atomicOld a.core } } else d)

/-! ### Atomic queues (R221) -/

/-- The home slice of an atomic (R217). -/
def IssuedAtomic.slice (q : IssuedAtomic) : Nat := homeSlice q.op.addr

/-- The atomics that a slice has queued for a lot, oldest first. -/
def Device.atomicQueue (d : Device) (slice lot : Nat) : List IssuedAtomic :=
  d.mem.atomics.filter fun q => q.queued && q.slice = slice && q.lot = lot

/-- Atomics that cores hold because a queue of 64 is full enter it, oldest first, once it has room; a core's later atomics wait behind the one it
holds (R221). `held`: the cores that hold one. -/
def admitAtomics (d : Device) : List Nat → List IssuedAtomic → List IssuedAtomic → List IssuedAtomic
  | _, done, [] => done
  | held, done, q :: rest =>
    let room := ((done ++ rest).filter fun x => x.queued && x.slice = q.slice && x.lot = q.lot).length < 64
    if q.queued || held.contains q.op.core then admitAtomics d held (done ++ [q]) rest
    else if room then admitAtomics d held (done ++ [{ q with queued := true }]) rest
    else admitAtomics d (held ++ [q.op.core.val]) (done ++ [q]) rest

/-- The lot that a slice serves next: the first with queued atomics from its turn on, in the order of the dye tags (R221). -/
def Device.atomicLot (d : Device) (slice : Nat) : Option Nat :=
  let turn := Tab.look 0 d.mem.atomicTurn slice
  ((List.range Config.lots).map fun i => (turn + i) % Config.lots).find? fun l => !(d.atomicQueue slice l).isEmpty

/-- The atomic with which a slice goes on leaves its queue. -/
def Device.dequeue (d : Device) (q : IssuedAtomic) : Device :=
  let atomics := d.mem.atomics.erase q
  { d with mem := { d.mem with atomics := admitAtomics d [] [] atomics } }

/-- A slice performs one line operation of the lot whose turn it is (R220, R221). One that must wait for space stays at the head of its queue. -/
def State.serveAtomic (s : State) (slice : Nat) : State :=
  match s.dev.atomicLot slice with
  | none => s
  | some lot =>
    let d := { s.dev with mem := { s.dev.mem with atomicTurn := Tab.put 0 ((lot + 1) % Config.lots) s.dev.mem.atomicTurn slice } }
    match d.atomicQueue slice lot with
    | [] => s
    | q :: _ =>
      match d.entry q.entry with
      | none => { s with dev := d.dequeue q }
      | some e =>
        match atomicBody q.op q.fn e d with
        | .ok d => { s with dev := (d.dequeue q).modEntry e.id fun e => { e with wait := .nothing } }
        | .error (.fail st d) => { s with dev := d }.failKernel e.id q.op.core st
        | .error (.wait w d) => { s with dev := d.modEntry e.id fun e => { e with wait := w } }

/-- A core issues an atomic for the launch that it runs: one that R220 does not admit, at or above the end of memory, or misaligned, fails the launch
(R202, R220; assumption 132, DEDUCED); another enters the queue of its lot in its home slice, which then serves one line operation. On a core that
runs no launch, nothing happens (assumption 11, DESIGN CHOICE). -/
def State.atomic (s : State) (fn : AtomicFn) (a : Atomic) : State :=
  match s.kernelOf a.core with
  | none => s
  | some e =>
    if e.stream ≠ a.stream || !s.dev.running then s
    else if !a.wf fn || Config.memTop < a.addr + a.kind.bytes * a.operands.length then s.failKernel e.id a.core .eParam
    else if a.addr % a.kind.bytes ≠ 0 then s.failKernel e.id a.core .eAlign
    else
      let q : IssuedAtomic := { entry := e.id, lot := e.lot, fn := fn, op := a }
      let full := (s.dev.atomicQueue q.slice e.lot).length = 64
      let d := if full then s.dev.countCluster (some q.slice) 0x104 e.lot 1 else s.dev
      { s with dev := { d with mem := { d.mem with atomics := admitAtomics d [] [] (d.mem.atomics ++ [q]) } } }.serveAtomic q.slice

/-- ATOMIC_ADD. -/
def execAtomicAdd (op : Atomic) (s : State) : Out := .next (s.atomic .add op)

/-- ATOMIC_MIN. -/
def execAtomicMin (op : Atomic) (s : State) : Out := .next (s.atomic .min op)

/-- ATOMIC_MAX. -/
def execAtomicMax (op : Atomic) (s : State) : Out := .next (s.atomic .max op)

/-- ATOMIC_AND. -/
def execAtomicAnd (op : Atomic) (s : State) : Out := .next (s.atomic .band op)

/-- ATOMIC_OR. -/
def execAtomicOr (op : Atomic) (s : State) : Out := .next (s.atomic .bor op)

/-- ATOMIC_XOR. -/
def execAtomicXor (op : Atomic) (s : State) : Out := .next (s.atomic .bxor op)

/-- ATOMIC_SWAP returns the old values. -/
def execAtomicSwap (op : Atomic) (s : State) : Out := .next (s.atomic .swap op)

/-- ATOMIC_CAS writes the new value where the old one equals the compare value, and returns the old values. -/
def execAtomicCas (op : Atomic) (s : State) : Out := .next (s.atomic .cas op)

/-! ### Declared reductions (R222) -/

/-- Combines two partial lines; the lower one covers the smaller indices (R222). -/
def RegionFn.combine (f : RegionFn) (lower upper : List Nat) : List Nat :=
  (lower.zip upper).map fun p =>
    match f with
    | .sum => fAdd fp32 p.1 p.2
    | .min => f32min p.1 p.2
    | .max => f32max p.1 p.2

/-- Merges the two top entries while they cover subtrees of equal size (R222). Fuel: the height of the stack. -/
def mergeTop (f : RegionFn) : Nat → List (Nat × List Nat) → List (Nat × List Nat)
  | 0, st => st
  | n + 1, st =>
    match st with
    | (a, up) :: (b, lo) :: rest => if a = b then mergeTop f n ((a + b, f.combine lo up) :: rest) else st
    | st => st

/-- Takes contributions from the window while it holds the next one (R222). Fuel: the window's size. -/
def LineState.advance (f : RegionFn) : Nat → LineState → LineState
  | 0, s => s
  | n + 1, s =>
    match s.window.find? fun w => w.1 = s.next with
    | none => s
    | some w =>
      LineState.advance f n
        { next := s.next + 1, window := s.window.filter fun x => x.1 ≠ w.1
          stack := mergeTop f (s.stack.length + 1) ((1, w.2) :: s.stack) }

/-- Combines the stack from the top down (R222). -/
def LineState.finish (f : RegionFn) (s : LineState) : List Nat :=
  match s.stack with
  | [] => []
  | (_, top) :: rest => rest.foldl (fun t x => f.combine x.2 t) top

/-- Bytes of a line-state (R222). -/
def lineStateBytes (n : Nat) : Nat := (clog2 n + 9) * 256

/-- The home slice of a result line of a region (R217, R222): of the address that its launch sees it at. Assumption 143, DESIGN CHOICE. -/
def Device.lineSlice (d : Device) (e : Entry) (r : Region) (line : Nat) : Nat :=
  match d.tensor r.tensor with
  | some t => homeSlice (physAddr (d.viewExtents e r.tensor t) (r.offset + 256 * line))
  | none => 0

/-- Scratch lines of a line-state in its slice (R222). -/
def Device.takeLineState (d : Device) (e : Entry) (r : Region) (key slice : Nat) : Device :=
  let runs := takeLines slice (lineStateBytes r.n / 256) (d.scratchFree r.lot slice)
  { d with mem := { d.mem with scratch := d.mem.scratch ++ [{ entry := e.id, lot := r.lot, line := some key, runs := runs }] } }

/-- One contribution (R222): it stalls when it is too early or its slice has no line-state free, and a repeated one is discarded (R325). A scratch
line that does not carry the lot's tag fails the launch (R210). -/
def contribute (region line index : Nat) (values : List Nat) (d : Device) : Device :=
  match Tab.find d.mem.regions region with
  | none => d
  | some r =>
    match d.entry r.entry with
    | none => d
    | some e =>
      let key := region * 2 ^ 24 + line
      let old := Tab.find d.mem.lines key
      let s := old.getD {}
      let slice := d.lineSlice e r line
      if index ≥ r.n || index < s.next || s.window.any (fun w => w.1 = index) || s.next + 8 < index then d
      else if old.isNone && rangesSize (d.scratchFree r.lot slice) < lineStateBytes r.n / 256 then d.countCluster (some slice) 0x105 r.lot 1
      else if !d.scratchOwned e then (d.tagViolation (srcSlice slice) e.lot 0xF000000000).failEntry e.id .eTagViolation
      else
        let keep (d : Device) (s : LineState) : Device :=
          { d with mem := { d.mem with lines := Tab.insert s d.mem.lines key } }
        let d := if old.isNone then keep (d.takeLineState e r key slice) s else d
        let s := LineState.advance r.fn (s.window.length + 1) { s with window := s.window ++ [(index, values)] }
        if s.next < r.n then keep d s
        else
          match d.putTensor e r.tensor (r.offset + 256 * line) ((s.finish r.fn).flatMap (toLE 4)) with
          | .ok d =>
            let d := (keep d { next := r.n }).modEntry e.id fun e => { e with wait := .nothing }
            { d with mem := { d.mem with scratch := d.mem.scratch.filter fun p => p.line ≠ some key } }
          | .error (.fail st d) => d.failEntry e.id st
          | .error (.wait w d) => d.modEntry e.id fun e => { e with wait := w }

/-- REDUCTION_CONTRIBUTION. `region` names the region by the launch's entry number and the region's own number; a line has 64 values. -/
def execReductionContribution (region : Nat) (line : Fin 16777216) (index : Nat) (values : List Nat) (s : State) : Out :=
  s.onDev fun d => if d.running then contribute region line index ((values ++ List.replicate 64 0).take 64) d else d

end Sys2Proof.Machine
end

