-- ==== Sys2Proof/Machine/Routes.lean ====
section
/-!
DEFINITION. The direct network as a device sees it: link slots and ports (R290), neighbours, cut pairs (R293), the routes of
messages (R292), and the sending of flits on a port under credits and the retry buffer (R280, R282).
-/
namespace Sys2Proof.Machine

/-! ### Slots and ports (R290) -/

/-- The link slots of a shape in order: dimension, offset, copy. -/
def Links.slots (l : Links) : List (Nat × Nat × Nat) :=
  (List.range l.dims).flatMap fun k =>
    let s := 2 ^ l.log2.getD k 0
    (List.range (32 / s)).flatMap fun j => (List.range (s - 1)).map fun o => (k, o + 1, j)

/-- The weft port of slot i. -/
def slotPort (i : Nat) : Nat := if i < 80 then 24 * (i % 4) + i / 4 else 24 * ((i - 80) % 3) + 20 + (i - 80) / 3

/-- The slot number that uses a network port. -/
def portSlot (p : Nat) : Nat := if p % 24 < 20 then 4 * (p % 24) + p / 24 else 80 + 3 * (p % 24 - 20) + p / 24

/-- The slot of a port: none for an auxiliary port or one that the shape does not use. -/
def Links.slotOf (l : Links) (p : Nat) : Option (Nat × Nat × Nat) := if p < 92 then l.slots[portSlot p]? else none

/-- One coordinate of a position word. -/
def axisOf (c k : Nat) : Nat :=
  let (x, y, z) := coordABC c
  if k = 0 then x else if k = 1 then y else z

/-- A position word with one coordinate replaced. -/
def withAxis (c k v : Nat) : Nat :=
  let (x, y, z) := coordABC c
  if k = 0 then posWord v y z else if k = 1 then posWord x v z else posWord x y v

/-- The neighbour that a slot leads to. -/
def Links.neighbour (l : Links) (slot : Nat × Nat × Nat) : Nat :=
  withAxis l.coord slot.1 ((axisOf l.coord slot.1 + slot.2.1) % 2 ^ l.log2.getD slot.1 0)

/-- The position that a port leads to. -/
def Links.portTo (l : Links) (p : Nat) : Option Nat := (l.slotOf p).map l.neighbour

/-- The ports of the parallel copies to a neighbour, lowest copy first. -/
def Links.copiesTo (l : Links) (pos : Nat) : List Nat :=
  (l.slots.zipIdx.filter fun s => l.neighbour s.1 = pos).map fun s => slotPort s.2

/-! ### Cut pairs and routes (R292, R293) -/

/-- A pair of neighbours, the lower position word first. -/
def cutKey (a b : Nat) : Nat × Nat := (min a b, max a b)

/-- Whether a copy to a neighbour is ACTIVE. -/
def Device.reaches (d : Device) (pos : Nat) : Bool := (d.links.copiesTo pos).any fun p => (d.port p).lstate = 4

/-- Whether a pair of neighbours is cut: by this device's own ports, or by its table. -/
def Device.isCut (d : Device) (a b : Nat) : Bool :=
  if a = d.links.coord then !d.reaches b
  else if b = d.links.coord then !d.reaches a
  else d.links.cuts.contains (cutKey a b)

/-- Whether the twin's position in a job is reached, or there is no twin (R309, R335). -/
def Device.twinReached (d : Device) (job : Nat) : Bool :=
  let j := d.job job
  match j.twinOf (d.rank j) with
  | some r => d.reaches (j.posOf r)
  | none => true

/-- The positions that a path visits in an order of dimensions. -/
def hops : List Nat → Nat → Nat → List Nat
  | [], _, _ => []
  | k :: t, a, b =>
    if axisOf a k = axisOf b k then hops t a b
    else
      let n := withAxis a k (axisOf b k)
      n :: hops t n b

/-- Whether no pair on a path is cut. -/
def Device.pathClear (d : Device) : Nat → List Nat → Bool
  | _, [] => true
  | a, n :: t => !d.isCut a n && d.pathClear n t

/-- The ACTIVE copy that a message takes to a neighbour (R292): the lowest-numbered one with a credit of its VC. -/
def Device.copyFor (d : Device) (pos vc : Nat) : Option Nat :=
  let up := (d.links.copiesTo pos).filter fun p => (d.port p).lstate = 4
  (up.find? fun p => (d.port p).credits.getD vc 0 ≠ 0) <|> up.head?

/-- The port and VC of a message to a position: direct on its own VC, or routed on VC4 or VC5; `none` where both orders meet a cut
pair. -/
def Device.routeTo (d : Device) (pos vc : Nat) : Option (Nat × Nat) :=
  let me := d.links.coord
  let via (order : List Nat) (v : Nat) : Option (Nat × Nat) :=
    let path := hops order me pos
    match path with
    | n :: rest =>
      if d.pathClear me path then (d.copyFor n (if rest.isEmpty then vc else v)).map fun p => (p, if rest.isEmpty then vc else v) else none
    | [] => none
  via [0, 1, 2] 4 <|> via [2, 1, 0] 5

/-! ### Sending (R280, R282) -/

/-- Flits that carry `n` bytes (R278). -/
def flitsOf (n : Nat) : Nat := max 1 (ceilDiv n 240)

/-- Whether a port may start a message now: ACTIVE and not disabling, with a credit of the VC, room in the retry buffer, and no flit of that VC that
still waits. -/
def Port.canSend (p : Port) (vc : Nat) : Bool :=
  p.lstate = 4 && p.state ≠ .disabling && p.credits.getD vc 0 ≠ 0 && p.retry.length < 1024 && p.waiting.all fun f => f.vc ≠ vc

/-- The bytes of a flit (R278). -/
def OutFlit.encode (f : OutFlit) (epoch seq : Nat) (ack : Option Nat) : Bytes :=
  let acked := match ack with | some a => 0x8000 + a | none => 0
  let b := fit 252 (toLE 1 (f.vc * 32 + f.pos * 8 + f.kind) ++ toLE 1 epoch ++ toLE 2 seq ++ toLE 2 acked ++ toLE 1 (f.credVc * 32 + f.credN)
    ++ toLE 1 f.tag ++ toLE 4 (f.len * 2 ^ 28 + f.dest) ++ f.payload)
  b ++ toLE 4 (crc32 b)

/-- The flits of a message with a payload: 240 bytes each, the first and the last marked (R278). -/
def payloadFlits (vc kind tag dest : Nat) (payload : Bytes) : List OutFlit :=
  let n := flitsOf payload.length
  (List.range n).map fun i =>
    let part := (payload.drop (240 * i)).take 240
    { vc := vc, kind := kind, tag := tag, dest := dest, payload := part, len := max 1 (ceilDiv part.length 16)
      pos := if n = 1 then 3 else if i = 0 then 1 else if i + 1 = n then 2 else 0 }

/-- The ACK that a flit of a port carries: the last SEQ received in order (R278). -/
def Port.ack (v : Port) : Option Nat := if v.heard then some ((v.recvSeq + 4095) % 4096) else none

/-- Transmits a flit with the next SEQ: a DATA or CONTROL flit uses a credit of its VC, a CREDIT flit none, and the retry buffer keeps it (R279,
R280, R282). -/
def Device.transmit (d : Device) (p : Nat) (f : OutFlit) : Device :=
  let v := d.port p
  let b := f.encode v.epoch v.sendSeq v.ack
  let d := d.setPort p { v with
    credits := if f.kind = 2 then v.credits else v.credits.set f.vc (v.credits.getD f.vc 0 - 1)
    sendSeq := (v.sendSeq + 1) % 4096, ackDue := false
    retry := v.retry ++ [{ vc := f.vc, seq := v.sendSeq, data := b }] }
  { d with links := { d.links with wire := d.links.wire ++ [(p, b)] } }

/-- Whether a flit must wait: 1,024 flits are unacknowledged, or its VC has no credit or an earlier flit that waits (R280 to R282). -/
def Port.blocks (v : Port) (f : OutFlit) : Bool :=
  1024 ≤ v.retry.length || (f.kind ≠ 2 && (v.credits.getD f.vc 0 = 0 || v.waiting.any fun g => g.kind ≠ 2 && g.vc = f.vc))

/-- Transmits the waiting flits of an ACTIVE port as far as credits and the retry buffer allow, in order within each VC. -/
def Device.pump (d : Device) (p : Nat) : Device :=
  let v := d.port p
  if v.lstate ≠ 4 then d
  else
    v.waiting.foldl (fun d f =>
      let v := d.port p
      if v.blocks f then d.setPort p { v with waiting := v.waiting ++ [f] } else d.transmit p f) (d.setPort p { v with waiting := [] })

/-- Gives flits to a port. -/
def Device.queueFlits (d : Device) (p : Nat) (fs : List OutFlit) : Device :=
  let v := d.port p
  (d.setPort p { v with waiting := v.waiting ++ fs }).pump p

/-- Sends a message on a port: its flits go out as credits allow. A message whose layout no rule gives has free bytes, `bytes` of them, or as many as
they are (assumption 53, DESIGN CHOICE). -/
def Device.sendOn (d : Device) (p vc : Nat) (m : LinkOut) (tag dest : Nat := 0) (bytes : Option Nat := none) : Device :=
  let kind := match m with
    | .diff _ | .working _ | .routed _ => 1
    | .credits _ _ => 2
    | _ => 3
  let free := Config.messageBytes d.ctr.free
  let d : Device := { d with links := { d.links with outbox := d.links.outbox ++ [(p, m)] } }
  match m with
  | .diff b | .identity b => d.queueFlits p (payloadFlits vc kind tag dest b)
  | .credits v n => d.queueFlits p [{ vc := 0, kind := kind, credVc := v, credN := n }]
  | .routed b =>
    d.queueFlits p [{ vc := vc, kind := kind, pos := field (rd b 0 1) 4 3, tag := rd b 7 1 % 64, len := field (rd b 8 4) 31 28
                      dest := field (rd b 8 4) 13 0, payload := (b.drop 12).take 240 }]
  | _ =>
    let d := { d with ctr := { d.ctr with free := d.ctr.free + 1 } }
    d.queueFlits p (payloadFlits vc kind tag dest (fit (bytes.getD (min 240 free.length)) free))

/-- Puts on a port what is sent outside the sequence: an identity record during training, in one CONTROL flit with SEQ 0 and no ACK. Assumption 53,
DEDUCED. -/
def Device.sendRaw (d : Device) (p : Nat) (m : LinkOut) : Device :=
  let flit := match m with
    | .identity b => (payloadFlits 0 3 0 0 b).map fun f => (p, f.encode (d.port p).epoch 0 none)
    | _ => []
  { d with links := { d.links with outbox := d.links.outbox ++ [(p, m)], wire := d.links.wire ++ flit } }

/-- Floods a notice: one copy to each neighbour, on VC0 (R293, R347). -/
def Device.floodAll (d : Device) (m : LinkOut) : Device :=
  let around := (d.links.slots.map d.links.neighbour).eraseDups
  around.foldl (fun d n =>
    match d.copyFor n 0 with
    | some p => d.sendOn p 0 m
    | none => d) d

/-- Floods a cut-pair notice (R293). -/
def Device.flood (d : Device) (a b : Nat) (cut : Bool) : Device := d.floodAll (.cutPair a b cut)

/-! ### Messages of commands (R285, R325) -/

/-- Puts the messages of a command to other positions on their way; `none` where one has no route. A command's messages are sent
once. -/
def Device.post (d : Device) (e : Entry) (targets : List Nat) : Option Device :=
  if d.links.messages.any fun m => m.entry = e.id then some d
  else
    targets.foldlM (fun (d : Device) pos => do
      let (p, _) ← d.routeTo pos 1
      let id := d.ctr.message + 1
      pure { d with
        ctr := { d.ctr with message := id }
        links := { d.links with messages := d.links.messages ++ [{ id := id, port := p, entry := e.id, target := pos }] } }) d

/-- A command's messages end with it. -/
def Device.endMessages (d : Device) (id : Nat) : Device :=
  { d with links := { d.links with messages := d.links.messages.filter fun m => m.entry ≠ id } }

end Sys2Proof.Machine
end

