-- ==== Sys2Proof/Machine/Mapping.lean ====
section
/-!
DEFINITION. Job-wide commands and the mapping: the matching of R302, MAP_DECLARE and its query (R303 to R306, R314), REDRAW (R315,
R316), RETHREAD (R327 to R330), RELEASE_NOTICE, JOB_MATCH_ARRIVAL and JOB_DEADLINE_EXPIRY.
-/
namespace Sys2Proof.Machine

/-! ### Matching (R302) -/

/-- The fields of a job-wide command that its digest takes as 0: handles, addresses and DEADLINE (R302). -/
def digestHoles (op : Opcode) : List (Nat × Nat) :=
  match op with
  | .mapDeclare => [(44, 4), (48, 8)]
  | .redraw => [(48, 8)]
  | .collective => [(20, 8), (40, 8)]
  | .rethread => [(16, 4), (24, 8), (40, 8)]
  | .secureNow => [(20, 4), (32, 8), (48, 8)]
  | _ => []

/-- The digest that members exchange: over OPCODE and the parameters (R302). -/
def Entry.matchDigest (e : Entry) : Nat :=
  let p := (digestHoles e.op).foldl (fun p h => wrAt p h.1 (zeros h.2)) e.packet
  crc64 (p.take 2 ++ p.drop 16)

/-- The box of a declaration: origin and log2 sizes. -/
def boxOf (p : Bytes) : List Nat × List Nat := ([rd p 18 1, rd p 19 1, rd p 20 1], [rd p 21 1, rd p 22 1, rd p 23 1])

/-- Waits until every other member has dispatched its match; a differing digest fails the command with RESULT0 [31] (R302).
`members`: the physical ranks of the group without this device. A member that no route reaches fails the command (R292, R325). -/
def matchGroup (e : Entry) (members : List Nat) (d : Device) : Res Device := do
  let mine := d.arrivals.filter fun a => a.stream = e.stream && a.ordinal = e.ordinal
  if mine.any fun a => a.digest ≠ e.matchDigest then
    failWith .eParam (d.modEntry e.id fun e => { e with sticky := 2 ^ 31 })
  else if members.all fun m => mine.any fun a => a.member = m then
    let j := d.job (d.stream e.stream).job
    let j : Job := if e.op = .mapDeclare then { origin := (boxOf e.packet).1, log2 := (boxOf e.packet).2 } else j
    let engine := e.op = .collective || e.op = .rethread
    let d ← need (d.post e (members.map j.posOf)) (if engine then .eLinkLost else .eNoRoute) d
    pure (d.modEntry e.id fun e => { e with members := members, ran := true })
  else waitFor .peers d

/-- The other physical ranks of a box. -/
def othersOf (n r : Nat) : List Nat := (List.range n).filter (· ≠ r)

/-- JOB_MATCH_ARRIVAL: another member has dispatched its match of an ordinal of this stream (R302). -/
def execJobMatchArrival (stream : StreamId) (member ordinal digest : Nat) (s : State) : Out :=
  s.onClocked fun d =>
    let a : Arrival := { stream := stream, ordinal := ordinal, member := member, digest := digest }
    if d.arrivals.any fun x => x.stream = a.stream && x.ordinal = a.ordinal && x.member = a.member then d
    else { d with arrivals := d.arrivals ++ [a] }

/-- JOB_DEADLINE_EXPIRY: the DEADLINE of a command still waiting at its match has passed (R302). -/
def execJobDeadlineExpiry (stream : StreamId) (s : State) : Out :=
  s.onDev fun d =>
    match (d.streamEntries stream).find? fun e => e.phase = .dispatched && e.wait = .peers with
    | some e => if d.running && e.deadline ≠ 0 && e.deadline ≤ d.time then d.failEntry e.id .eDeadlineMissed else d
    | none => d

/-! ### MAP_DECLARE (R303 to R306) -/

/-- The phase entries of a packet, from an offset. -/
def entriesAt (p : Bytes) (off : Nat) : List Nat := (List.range 5).map fun i => rd p (off + 4 * i) 4

/-- Whether a phase entry fits a box (R305). -/
def entryOk (total phase v : Nat) : Bool :=
  let c := cutsOf v
  c.d + c.t + c.s + c.e = total && c.k ≤ c.d && (phase = 4 || c.k = 0)

/-- Whether a box fits the network, with its origin aligned (R301, R305). -/
def Links.boxFits (l : Links) (origin log2 : List Nat) : Bool :=
  (List.range 3).all fun i =>
    let o := origin.getD i 0
    let n := log2.getD i 0
    let size := l.log2.getD i 0
    n ≤ size && o % 2 ^ n = 0 && o + 2 ^ n ≤ 2 ^ size

/-- MAP_DECLARE with ACTION 0 (R303, R305). -/
def mapDeclareBody (e : Entry) (d : Device) : Res (Nat × Nat × Device) := do
  let p := e.packet
  let job := (d.stream e.stream).job
  let (o, l) := boxOf p
  let total := l.sum
  check (rd p 16 1 = 0 && rd p 44 4 = 0) .eParam d
  check (d.links.boxFits o l) .eParam d
  check ((entriesAt p 24).zipIdx.all fun x => entryOk total x.2 x.1) .eParam d
  check (!(d.job job).declared) .eParam d
  let j : Job := { origin := o, log2 := l }
  check (j.contains d.links.coord) .eCoord d
  let d ← matchGroup e (othersOf j.size (j.rankOf d.links.coord)) d
  pure (0, 0, d)

/-- The shards of a job's PARAMETER tensors that nothing has written are laid out anew, since a declaration changes what this device owns (R243,
R310). One that finds no FREE extents takes them at its first update (assumption 40, DESIGN CHOICE). -/
def Device.relayShards (d : Device) (job : Nat) : Device :=
  let mine := d.tensors.filter fun t => t.2.param && t.2.job = job
  let d : Device := { d with shards := d.shards.filter fun s => s.2.version ≠ 0 || !mine.any fun t => t.1 = s.1 / 2 ^ 32 }
  mine.foldl (fun d t => (d.newCopies t.1 t.2).getD d) d

/-- The commit of a declaration (R306, R367): map generation 1, and the defaults of the image. -/
def commitDeclare (e : Entry) (d : Device) : Device :=
  if rd e.packet 16 1 = 1 then d
  else
    let job := (d.stream e.stream).job
    let j := d.job job
    let (o, l) := boxOf e.packet
    let pol := d.hosts.image.policy
    let d := d.setJob job { j with
      lot := e.lot, declared := true, mapGen := 1, origin := o, log2 := l, entries := entriesAt e.packet 24
      fromSteps := [0, 0, 0, 0, 0], recovery := pol.recovery, devMtbf := pol.devMtbf, digestPeriod := pol.digest, failures := 0 }
    d.relayShards job

/-- MAP_DECLARE. -/
def execMapDeclare (stream : StreamId) (s : State) : Out :=
  s.onDev fun d =>
    match d.ready stream .mapDeclare with
    | some e => if rd e.packet 16 1 = 1 then d else d.runMarked stream .mapDeclare mapDeclareBody
    | none => d

/-- The entry that the laydown record shows for a phase at a step (R314): the pending one from its FROM_STEP. -/
def Job.shown (j : Job) (phase step : Nat) : Nat × Nat :=
  match j.pendingMap with
  | some p => if p.mask.testBit phase && p.fromStep ≤ step then (p.entries.getD phase 0, p.fromStep)
      else (j.entries.getD phase 0, j.fromSteps.getD phase 0)
  | none => (j.entries.getD phase 0, j.fromSteps.getD phase 0)

/-- The lowest bits of the cuts in r (R314). -/
def Cuts.firstBits (c : Cuts) : List Nat :=
  let f (size bit : Nat) : Nat := if size = 0 then 0xFF else bit
  [f c.t 0, f c.s c.t, f c.e (c.t + c.s), f c.d (c.t + c.s + c.e)]

/-- The laydown record (R314). -/
def Device.laydownRecord (d : Device) (job : Nat) : Bytes :=
  let j := d.job job
  let r := d.rank j
  if !j.declared then fit 256 (toLE 8 job)
  else
    let head := toLE 8 job ++ toLE 2 j.mapGen ++ toLE 1 (match j.pendingMap with | some p => p.mask | none => 0)
      ++ j.origin.flatMap (toLE 1) ++ zeros 2 ++ j.log2.flatMap (toLE 1) ++ zeros 1
      ++ toLE 8 (match j.twinOf r with | some t => j.posOf t | none => 0) ++ toLE 4 r
    let phase (p : Nat) : Bytes :=
      let (v, from_) := j.shown p (j.counter + 1)
      let c := cutsOf v
      let l := c.coord r
      toLE 4 v ++ toLE 8 from_ ++ toLE 2 l.d ++ toLE 2 l.t ++ toLE 2 l.s ++ toLE 2 l.e ++ c.firstBits.flatMap (toLE 1)
        ++ toLE 4 (c.rowGroup r) ++ toLE 4 (if p = 4 then l.t + 2 ^ c.t * (l.d % 2 ^ c.k) else 0)
    fit 256 (head ++ (List.range 5).flatMap phase)

/-- MAP_DECLARE with ACTION 1 (R303, R314). -/
def mapQueryBody (e : Entry) (d : Device) : Res (Nat × Nat × Device) := do
  let (key, t) ← d.find e (rd e.packet 44 4)
  check (t.fmt = .uint8 && 256 ≤ t.count) .eParam d
  let d ← d.claim e [(key, 0, 256)]
  let d ← d.putTensor e key 0 (d.laydownRecord (d.stream e.stream).job)
  pure (0, 0, d)

/-- MAP_DECLARE_QUERY: a query is not job-wide (R303). -/
def execMapDeclareQuery (stream : StreamId) (s : State) : Out :=
  s.onDev fun d =>
    match d.ready stream .mapDeclare with
    | some e => if rd e.packet 16 1 = 1 then d.runOp stream .mapDeclare mapQueryBody else d
    | none => d

/-! ### REDRAW (R315, R316) -/

/-- The entries that a REDRAW puts in force: those of its mask, and the present ones. -/
def redrawEntries (j : Job) (p : Bytes) : List Nat :=
  (List.range 5).map fun i => if (rd p 16 1).testBit i then rd p (20 + 4 * i) 4 else j.entries.getD i 0

/-- REDRAW. -/
def redrawBody (e : Entry) (d : Device) : Res (Nat × Nat × Device) := do
  let p := e.packet
  let j := d.job (d.stream e.stream).job
  let new := redrawEntries j p
  let o := cutsOf (j.entries.getD 4 0)
  let n := cutsOf (new.getD 4 0)
  check j.declared .eParam d
  check (e.ran || j.pendingMap.isNone) .eParam d
  check (new.zipIdx.all fun x => entryOk j.log2.sum x.2 x.1) .eParam d
  check (n.t + n.k = o.t + o.k && n.e = o.e) .eParam d
  check (e.ran || j.counter + 2 ≤ rd p 40 8) .eStepOrder d
  let d ← matchGroup e (othersOf j.size (d.rank j)) d
  pure (0, 0, d)

/-- Whether a tensor's holders differ between two optimiser entries (R316). -/
def Job.holdersChange (j : Job) (t : Tensor) (old new : Nat) : Bool :=
  (List.range j.size).any fun r => t.held (cutsOf old) r ≠ t.held (cutsOf new) r

/-- A pending REDRAW whose phases have begun, and whose tensors have all been rethreaded, is pending no longer (R316). -/
def Device.settleMap (d : Device) (job : Nat) : Device :=
  let j := d.job job
  match j.pendingMap with
  | none => d
  | some p =>
    let old := j.entries.getD 4 0
    let new := p.entries.getD 4 0
    let done := !p.mask.testBit 4 || (d.paramsOf j.lot job).all fun t =>
      !j.holdersChange t.2 old new || j.rethreaded.contains t.1
    if p.fromStep ≤ j.counter + 1 && done then
      d.setJob job { j with
        entries := p.entries, pendingMap := none, rethreaded := []
        fromSteps := (List.range 5).map fun i => if p.mask.testBit i then p.fromStep else j.fromSteps.getD i 0 }
    else d

/-- The commit of a REDRAW (R306, R316). -/
def commitRedraw (e : Entry) (d : Device) : Device :=
  let job := (d.stream e.stream).job
  let j := d.job job
  (d.setJob job { j with
    mapGen := nextSkip0 16 j.mapGen, rethreaded := []
    pendingMap := some { mask := rd e.packet 16 1, entries := redrawEntries j e.packet, fromStep := rd e.packet 40 8 } }).settleMap job

/-- REDRAW. -/
def execRedraw (stream : StreamId) (s : State) : Out := s.onDev fun d => d.runMarked stream .redraw redrawBody

/-- Whether a tensor still waits for its RETHREAD at a step (R316). -/
def Device.awaitsRethread (d : Device) (key : Nat) (t : Tensor) (step : Nat) : Bool :=
  let j := d.job t.job
  match j.pendingMap with
  | some p => p.mask.testBit 4 && p.fromStep ≤ step && !j.rethreaded.contains key
      && j.holdersChange t (j.entries.getD 4 0) (p.entries.getD 4 0)
  | none => false

/-! ### RETHREAD (R327 to R330) -/

/-- Dimensions in which two ranks differ (R313). -/
def Job.distance (j : Job) (a b : Nat) : Nat :=
  let (x, y, z) := coordABC (j.posOf a)
  let (u, v, w) := coordABC (j.posOf b)
  b2n (x ≠ u) + b2n (y ≠ v) + b2n (z ≠ w)

/-- The holder that serves a requester (R313): the fewest dimensions of difference, the lowest rank on a tie. -/
def Job.nearest (j : Job) (r : Nat) (holders : List Nat) : Option Nat :=
  holders.foldl (fun (b : Option Nat) h =>
    match b with
    | none => some h
    | some x => if j.distance r h < j.distance r x || (j.distance r h = j.distance r x && h < x) then some h else some x) none

/-- The handles of a RETHREAD: HANDLE, or a table in device memory under R208 (R327). -/
def rethreadHandles (e : Entry) (d : Device) : Res (List Nat × Device) := do
  let h := e.param 16 4
  let a := e.param 24 8
  let n := e.param 32 2
  if h ≠ 0 then
    check (a = 0 && n = 0) .eParam d
    pure ([h], d)
  else
    check (a % 64 = 0) .eAlign d
    check (1 ≤ n && n ≤ 4096) .eParam d
    let (b, d) ← d.fetchAddr (srcLot e.lot) e.lot a (4 * n)
    pure (handlesOf b n, d)

/-- Bytes of a shard image as it travels: master, compensation, m, sketch and step record (R328). -/
def ShardImage.size (i : ShardImage) : Nat := i.master.length + i.comp.length + i.moment.length + i.sketch.length + 64

/-- A shard record from an image (R328, R346). -/
def ShardImage.toShard (i : ShardImage) (t : Tensor) : Shard :=
  { version := i.version, flags := i.flags, step := i.step, updates := i.updates, digest := shardDigest t i.master i.comp, time := i.time
    comp := i.comp, moment := i.moment, sketch := i.sketch, amax := i.amax, gathered := i.gathered }

/-- The installed roots of a weight, those of one expert replaced (R328, R346). -/
def Device.takeRoots (d : Device) (key expert : Nat) (p : Precond) : Device :=
  let now := Tab.look {} d.solver.preconds key
  let others (l : List Root) : List Root := l.filter fun r => r.expert ≠ expert
  let new : Precond :=
    { active := others now.active ++ p.active, pendingFrom := p.pendingFrom <|> now.pendingFrom, pendingSet := others now.pendingSet ++ p.pendingSet }
  { d with solver := { d.solver with preconds := Tab.insert new d.solver.preconds key } }

/-- A statistics context that comes with a shard: its sums, its state and its factor; WEIGHT and PARTNER stay those that this device has
configured (R312, R328, R346). -/
def Device.takeContext (d : Device) (lot key : Nat) (c : ContextImage) : Device :=
  let fk := tensorKeyOf lot (c.factor % 2 ^ 24)
  let k := ctxKey fk c.expert
  let here := Tab.find d.solver.contexts k
  let ctx := { c.ctx with weight := key, partner := match here with | some x => x.partner | none => c.ctx.partner }
  let d := match d.tensor fk with
    | some t => d.writeCommitted t (c.expert * c.data.length) c.data lot 2
    | none => d
  { d with solver := { d.solver with contexts := Tab.insert ctx d.solver.contexts k } }

/-- What moves beside the planes of a shard: installed roots and statistics contexts (R328, R346). -/
def Device.takeAlong (d : Device) (lot key : Nat) (t : Tensor) (p shard : Nat) (roots : Option Precond) (contexts : List ContextImage) : Device :=
  let d := match roots with | some r => d.takeRoots key (if t.expert then shard / p else 0) r | none => d
  contexts.foldl (fun d c => d.takeContext lot key c) d

/-- The plan of a RETHREAD for one tensor on this device: the shards to receive, and those to send with their receivers'
count (R328). -/
def Device.rethreadPlan (d : Device) (j : Job) (t : Tensor) : List Nat × List Nat :=
  let me := d.rank j
  let old := cutsOf (j.entries.getD 4 0)
  let new := cutsOf ((match j.pendingMap with | some p => p.entries | none => j.entries).getD 4 0)
  let mine := t.held old me
  let in_ := (t.held new me).filter fun i => !mine.contains i
  let ranks := List.range j.size
  let out := ranks.flatMap fun r =>
    ((t.held new r).filter fun i => mine.contains i && !(t.held old r).contains i).filter fun i =>
      j.nearest r (ranks.filter fun h => (t.held old h).contains i) = some me
  (in_, out)

/-- Bytes of one shard of a tensor on this device, as R328 moves it. -/
def Device.shardTravel (d : Device) (key i : Nat) : Nat :=
  (d.imageOf key i (d.masterOf key i) (d.shardOf key i)).size

/-- Stages a received shard: its planes and its record. -/
def Device.stageImage (d : Device) (e : Entry) (key : Nat) (t : Tensor) (i : ShardImage) : Res Device := do
  let cur ← need (d.entry e.id) .eHandle d
  if cur.shards.any fun s => s.tensor = key && s.index = i.shard then pure d
  else
    let d ← d.putMaster e key i.shard i.master
    let n := i.toShard t
    let (xs, d) ← d.takeCopy e n.stateBytes
    let s : StagedShard :=
      { tensor := key, index := i.shard, shard := { n with extents := xs }, acked := true, roots := i.roots, contexts := i.contexts }
    pure (d.modEntry e.id fun e => { e with shards := e.shards ++ [s] })

/-- RETHREAD on this device: match, plan, receipt, decision (R327 to R330). A shard moves only after the flip of a staged version (R257). -/
def rethreadBody (input : RethreadInput) (e : Entry) (d : Device) : Res (Nat × Nat × Device) := do
  let job := (d.stream e.stream).job
  let j := d.job job
  let (hs, d) ← rethreadHandles e d
  let ts ← hs.mapM fun h => d.find e h
  let p ← need j.pendingMap .eParam d
  check (p.mask.testBit 4 && p.entries.getD 4 0 ≠ j.entries.getD 4 0) .eParam d
  check (ts.all fun t => t.2.param && t.2.job = job) .eParam d
  check (ts.all fun t => !j.rethreaded.contains t.1) .eParam d
  check (ts.all fun t => t.2.cutOk (cutsOf (p.entries.getD 4 0))) .eParam d
  let busy (x : Entry) : Bool := x.id ≠ e.id && x.inFlight && x.shards.any fun s => ts.any fun t => t.1 = s.tensor
  if j.counter + 1 < p.fromStep || j.jobStep + 1 < p.fromStep then waitFor .peers d
  else if d.journal.any busy then waitFor .conflict d
  else
    let d ← matchGroup e (othersOf j.size (d.rank j)) d
    let d := d.passReset 5 fun _ => true
    check (!input.linkLost) .eLinkLost d
    let plans := ts.map fun t => (t, d.rethreadPlan j t.2)
    let planned := input.shards.filter fun i => plans.any fun x => x.1.2.handle x.1.1 = i.handle && x.2.1.contains i.shard
    let got := planned.foldl (fun l i => if l.any fun x => x.handle = i.handle && x.shard = i.shard then l else l ++ [i]) []
    let inPlan := (plans.map fun x => x.2.1.length).sum
    let outPlan := (plans.map fun x => x.2.2.length).sum
    let bytesOf (t : Tensor) : Nat :=
      let n := t.parts (cutsOf (j.entries.getD 4 0))
      t.masterBytes * t.shardCount n + (t.newShard n).comp.length + 2 * t.shardCount n + t.sketchBytes n + 64
    let outBytes := (plans.map fun x => (x.2.2.map fun i => d.shardTravel x.1.1 i).sum).sum
    let inBytes := (plans.map fun x => x.2.1.length * bytesOf x.1.2).sum
    let l : RethreadLedger :=
      { outPlan := outPlan, outSent := outPlan, inPlan := inPlan, inRecv := got.length, outBytesPlan := outBytes
        outBytesSent := outBytes, inBytesPlan := inBytes, inBytesRecv := (got.map ShardImage.size).sum }
    let d := d.setJob job { d.job job with ledger := l }
    let d ← got.foldlM (fun d i =>
      match ts.find? fun t => t.2.handle t.1 = i.handle with
      | some t => d.stageImage e t.1 t.2 i
      | none => pure d) d
    if got.length < inPlan || input.complete + 1 < j.size then waitFor .peers d
    else if input.diffs + outPlan - inPlan ≠ 0 || input.byteDiffs + outBytes - inBytes ≠ 0 || l.inBytesRecv ≠ inBytes then
      let pos := j.posOf (d.rank j)
      let d := d.voidLedger 5 0
      failWith .eMemUncorrectable (d.raiseMgmt srcWatch 0x0D (zeros 4 ++ toLE 1 6 ++ toLE 1 5 ++ toLE 2 pos))
    else pure (got.length, l.inBytesRecv, d.modEntry e.id fun e => { e with tensors := ts.map fun t => t.1 })

/-- The commit of a RETHREAD: the holdings switch in one write, and the old ones stay until the release notice (R328, step 5). -/
def commitRethread (e : Entry) (d : Device) : Device :=
  let job := (d.stream e.stream).job
  let j := d.job job
  let old := cutsOf (j.entries.getD 4 0)
  let d := e.shards.foldl (fun d s =>
    match d.tensor s.tensor with
    | some t => (d.setShard s.tensor s.index s.shard).takeAlong e.lot s.tensor t (t.parts old) s.index s.roots s.contexts
    | none => d) d
  let me := d.rank j
  let new := cutsOf ((match j.pendingMap with | some p => p.entries | none => j.entries).getD 4 0)
  let leaving := e.tensors.filterMap fun key => (d.tensor key).map fun t =>
    (key, (t.held old me).filter fun i => !(t.held new me).contains i)
  (d.setJob job { j with
    rethreaded := j.rethreaded ++ e.tensors, releasing := j.releasing ++ leaving, secureNext := true
    lastRethread := some j.counter }).settleMap job

/-- RETHREAD. -/
def execRethread (stream : StreamId) (input : RethreadInput) (s : State) : Out :=
  s.onDev fun d => d.runMarked stream .rethread (rethreadBody input)

/-- The installed roots of experts of which this device holds no shard any more go with the shards (R328). -/
def Device.dropRoots (d : Device) (key : Nat) : Device :=
  match d.tensor key, Tab.find d.solver.preconds key with
  | some t, some p =>
    let mine (r : Root) : Bool := !t.expert || (d.ownedShards key t).any fun i => i / d.partsOf key t = r.expert
    { d with solver := { d.solver with
        preconds := Tab.insert { p with active := p.active.filter mine, pendingSet := p.pendingSet.filter mine } d.solver.preconds key } }
  | _, _ => d

/-- RELEASE_NOTICE: after the job-wide notice, the device frees the holdings it no longer has (R328, step 5). -/
def execReleaseNotice (job : Nat) (s : State) : Out :=
  s.onClocked fun d =>
    let j := d.job job
    let gone := j.releasing.flatMap fun x => x.2.map fun i => shardKey x.1 i
    let d := { d.setJob job { j with releasing := [] } with shards := d.shards.filter fun (x : Nat × Shard) => !gone.contains x.1 }
    (j.releasing.foldl (fun d x => d.dropRoots x.1) d).sweepOrphans

end Sys2Proof.Machine
end

