-- ==== Sys2Proof/Machine/Collectives.lean ====
section
/-!
DEFINITION. COLLECTIVE and GRAD_DELIVER (R317 to R326, R342), and the acknowledgement of a member's commit (R324). What the other
members contribute stands in the operands (assumption 9, DESIGN CHOICE).
-/
namespace Sys2Proof.Machine

/-! ### Groups (R317) -/

/-- The axes of AXES that a group reduces, in the order T, S, E, D, with the log2 size of each and a member's coordinate on it. -/
def axisList (c : Cuts) (axes : Nat) (l : Logical) : List (Nat × Nat) :=
  (if axes.testBit 1 then [(c.t, l.t)] else []) ++ (if axes.testBit 2 then [(c.s, l.s)] else [])
    ++ (if axes.testBit 3 then [(c.e, l.e)] else []) ++ (if axes.testBit 0 then [(c.d, l.d)] else [])

/-- A contributor index: the coordinates on the axes, the first least significant (R317). -/
def mixedIndex : List (Nat × Nat) → Nat
  | [] => 0
  | (n, v) :: t => v + 2 ^ n * mixedIndex t

/-- The contributor index of a rank. -/
def contributor (c : Cuts) (axes r : Nat) : Nat := mixedIndex (axisList c axes (c.coord r))

/-- Members of a group: the ranks whose coordinates agree on every axis that is not in AXES (R317). -/
def groupOf (c : Cuts) (axes n r : Nat) : List Nat :=
  let rest := 15 - axes % 16
  (List.range n).filter fun x => axisList c rest (c.coord x) = axisList c rest (c.coord r)

/-! ### COLLECTIVE (R318, R319) -/

/-- Pieces of a tensor's planes: piece i of n (R318). -/
def pieceSpans (t : Tensor) (n i : Nat) : List (Nat × Nat) :=
  (planesOf t.fmt t.dims t.block16 t.sparsity).map fun p => (p.1 + i * (p.2 / n), p.2 / n)

/-- Formats that SUM, MIN and MAX take (R318). -/
def reduceFmt (f : Format) : Bool := [Format.fp32, .bf16, .e4m3, .e5m2].contains f

/-- The outermost extent of a tensor. -/
def Tensor.outermost (t : Tensor) : Nat := t.dims.getLast?.getD 1

/-- Whether the formats and shapes of a collective fit (R318). -/
def collectiveFits (fn op n : Nat) (src dst : Tensor) : Bool :=
  let same := src.fmt = dst.fmt && src.block16 = dst.block16 && src.sparsity = dst.sparsity
  let reduces := (if op = 3 then (src.fmt = .int32 || src.fmt = .uint8) && dst.fmt = src.fmt
      else reduceFmt src.fmt && dst.fmt = .fp32) && src.sparsity = 0 && dst.sparsity = 0
  let piece (x y : Tensor) : Bool := x.dims.dropLast = y.dims.dropLast && x.dims.length = y.dims.length && x.outermost * n = y.outermost
  match fn with
  | 1 => reduces && dst.dims = src.dims
  | 2 => reduces && piece dst src
  | 3 => same && piece src dst
  | 4 => same && dst.dims = src.dims
  | 5 => same && src.outermost % n = 0 && dst.dims = src.dims
  | _ => true

/-- One element of a reduction: the canonical tree over the members' values in contributor order (R319). -/
def reduceElem (op : Nat) (vals : List Nat) : Nat :=
  match op with
  | 1 => tree f32min 0 vals
  | 2 => tree f32max 0 vals
  | 3 => tree (fun a b => a ||| b) 0 vals
  | _ => treeSum vals

/-- Reduces the members' byte strings elementwise: floating-point ones widened exactly to FP32 (R318). -/
def reduceBytes (fmt : Format) (op count : Nat) (data : List Bytes) : Bytes :=
  let w := elemSize fmt
  let value (b : Bytes) (i : Nat) : Nat :=
    if op = 3 then rd b (w * i) w else fConv ((fmt.spec).getD fp32) fp32 (rd b (w * i) w)
  (List.range count).flatMap fun i => toLE (if op = 3 then w else 4) (reduceElem op (data.map fun b => value b i))
where
  /-- Bytes of one element. -/
  elemSize (f : Format) : Nat := f.bits / 8

/-- The parameters of a COLLECTIVE (R317). -/
def collectiveParams (e : Entry) : Bool :=
  let fn := e.param 16 1
  let op := e.param 17 1
  1 ≤ fn && fn ≤ 7 && op ≤ 3 && (fn ≤ 2 || op = 0) && e.param 18 1 < 16 && (fn ≠ 7 || (e.param 18 1 = 0 && e.param 19 1 = 1))
    && e.param 19 1 ≤ 4 && (fn = 7 || e.param 32 8 = 0)

/-- The first contribution of each member: a receiver discards any that it already holds (R325). -/
def firstOf (sent : List PeerData) : List PeerData :=
  sent.foldl (fun l p => if l.any fun x => x.member = p.member then l else l ++ [p]) []

/-- Takes references to the extents of SRC until its members have acknowledged (R324). -/
def Device.refSource (d : Device) (e : Entry) (members : List Nat) (t : Tensor) : Device :=
  if members.isEmpty then d
  else { d with srcRefs := d.srcRefs ++ [{ stream := e.stream, members := members, extents := t.extents }] }

/-- COLLECTIVE, but for GRAD_DELIVER. Assumption 47, DESIGN CHOICE. -/
def collectiveBody (sent : List PeerData) (linkLost : Bool) (e : Entry) (d : Device) : Res (Nat × Nat × Device) := do
  let peers := firstOf sent
  let fn := e.param 16 1
  let op := e.param 17 1
  let axes := e.param 18 1
  let job := (d.stream e.stream).job
  let j := d.job job
  check (collectiveParams e && j.declared) .eParam d
  let c := cutsOf (j.entryFor (e.param 19 1) e.step)
  let me := d.rank j
  let group := groupOf c axes j.size me
  let n := group.length
  let q := contributor c axes me
  check (fn ≠ 4 || e.param 28 2 < n) .eParam d
  if fn = 6 then
    let d ← matchGroup e (group.filter (· ≠ me)) d
    check (!linkLost) .eLinkLost d
    pure (n, 0, d)
  else
    let (sk, src) ← d.find e (e.param 20 4)
    let (dk, dst) ← d.find e (e.param 24 4)
    check (collectiveFits fn op n src dst) .eParam d
    check (!src.lost) .eStaleShard d
    let d ← d.claim e [(dk, 0, dst.size)]
    let d ← matchGroup e (group.filter (· ≠ me)) d
    check (!linkLost) .eLinkLost d
    let (mine, d) ← d.fetchTensor e sk 0 src.size
    let spans (b : Bytes) (ss : List (Nat × Nat)) : Bytes := ss.flatMap fun s => (b.drop s.1).take s.2
    let from_ (m : Nat) : Option Bytes := (peers.find? fun p => p.member = m).map fun p => p.data
    let part (own : Bytes) (m : Nat) : Option Bytes := if m = q then some own else from_ m
    let all (own : Bytes) : Option (List Bytes) := (List.range n).mapM fun m => part own m
    let outs : Option (List ((Nat × Nat) × Bytes)) :=
      match fn with
      | 1 => (all mine).map fun bs => [((0, 0), reduceBytes src.fmt op src.count bs)]
      | 2 => (all (spans mine (pieceSpans src n q))).map fun bs => [((0, 0), reduceBytes src.fmt op dst.count bs)]
      | 3 => (all (spans mine ((planesOf src.fmt src.dims src.block16 src.sparsity)))).map fun bs =>
          bs.zipIdx.flatMap fun b => cut b.1 (pieceSpans dst n b.2)
      | 4 => (part mine (e.param 28 2)).map fun b => [((0, 0), b)]
      | _ => (all (spans mine (pieceSpans src n q))).map fun bs => bs.zipIdx.flatMap fun b => cut b.1 (pieceSpans dst n b.2)
    match outs with
    | none => waitFor .peers d
    | some os =>
      let d ← os.foldlM (fun d o => d.putTensor e dk o.1.1 o.2) d
      let d := d.refSource e (group.filter (· ≠ me)) src
      let used (m : Nat) : Bool := m ≠ q && m < n && (fn ≠ 4 || m = e.param 28 2)
      pure (n, ((peers.filter fun p => used p.member).map fun p => p.data.length).sum, d)
where
  /-- Cuts a byte string over spans. -/
  cut : Bytes → List (Nat × Nat) → List ((Nat × Nat) × Bytes)
    | _, [] => []
    | b, s :: t => (s, b.take s.2) :: cut (b.drop s.2) t

/-- COLLECTIVE. -/
def execCollective (stream : StreamId) (peers : List PeerData) (linkLost : Bool) (s : State) : Out :=
  s.onDev fun d =>
    match d.ready stream .collective with
    | some e => if e.param 16 1 = 7 then d else d.runMarked stream .collective (collectiveBody peers linkLost)
    | none => d

/-! ### GRAD_DELIVER (R321 to R323, R342) -/

/-- The dims of a device's work slice (R311). -/
def Tensor.sliceDims (t : Tensor) (c : Cuts) : List Nat :=
  t.dims.zipIdx.map fun x =>
    if t.expert && x.2 = 2 then x.1 / 2 ^ c.e else if t.shardDim = some x.2 then x.1 / 2 ^ c.t else x.1

/-- The coordinates of a linear index, dimension 0 first. -/
def coordsOf : List Nat → Nat → List Nat
  | [], _ => []
  | n :: t, i => i % n :: coordsOf t (i / n)

/-- The linear index of coordinates. -/
def indexIn : List Nat → List Nat → Nat
  | n :: t, c :: u => c + n * indexIn t u
  | _, _ => 0

/-- Where an element of the tensor lies among the work slices: its t, its E group, and its index in the slice (R311). -/
def Tensor.inSlice (t : Tensor) (c : Cuts) (i : Nat) : Nat × Nat × Nat :=
  let xs := coordsOf t.dims i
  let sd := t.sliceDims c
  let tt := match t.shardDim with | some k => xs.getD k 0 / sd.getD k 1 | none => 0
  let ee := if t.expert then xs.getD 2 0 / sd.getD 2 1 else 0
  let ys := xs.zipIdx.map fun x =>
    if t.expert && x.2 = 2 then x.1 % sd.getD 2 1 else if t.shardDim = some x.2 then x.1 % sd.getD x.2 1 else x.1
  (tt, ee, indexIn sd ys)

/-- The ranks that contribute to an element, in contributor order (R319, R321): over S, E and D for a dense tensor, over S and D
for an expert tensor. Assumption 48, DESIGN CHOICE. -/
def Tensor.contributors (t : Tensor) (c : Cuts) (n tt ee : Nat) : List Nat :=
  let axes := if t.expert then 0b0101 else 0b1101
  let rs := (List.range n).filter fun r => (c.coord r).t = tt && (!t.expert || (c.coord r).e = ee)
  (List.range rs.length).filterMap fun k => rs.find? fun r => contributor c axes r = k

/-- The reduced gradient of one shard; `none` while a member's data is missing. -/
def Tensor.reduceShard (t : Tensor) (c : Cuts) (n p shard : Nat) (src : Nat → Option Bytes) : Option Bytes :=
  let rs := t.runs p shard
  ((List.range (t.shardCount p)).mapM fun k => do
    let (tt, ee, i) := t.inSlice c (linearOf rs k)
    let vals ← (t.contributors c n tt ee).mapM fun r => (src r).map fun b => rd b (4 * i) 4
    pure (toLE 4 (treeSum vals))).map List.flatten

/-- Stages the retained gradient of a shard (R321, R322): its twin must acknowledge its copy, where it is no holder itself. -/
def Device.stageRetained (d : Device) (e : Entry) (key : Nat) (t : Tensor) (shard : Nat) (r : Retained) : Res Device := do
  let cur ← need (d.entry e.id) .eHandle d
  if cur.shards.any fun s => s.tensor = key && s.index = shard then pure d
  else
    let s := d.shardOf key shard
    let (xs, d) ← match s.retained with
      | some g => if g.step = r.step then pure (g.extents, d) else d.takeCopy e r.data.length
      | none => d.takeCopy e r.data.length
    let j := d.job t.job
    let acked := (j.twinOf (d.rank j)).isNone || d.twinHolds key t shard
    let st : StagedShard :=
      { tensor := key, index := shard, shard := { s with retained := some { r with extents := xs } }, acked := acked }
    pure (d.modEntry e.id fun e => { e with shards := e.shards ++ [st] })

/-- The shards of a tensor whose gradient this device keeps for its twin: those that the twin holds and this device does not (R322). -/
def Device.twinShards (d : Device) (key : Nat) (t : Tensor) : List Nat :=
  let j := d.job t.job
  match j.twinOf (d.rank j) with
  | some r => (t.held (cutsOf (j.optEntry key)) r).filter fun i => !(d.ownedShards key t).contains i
  | none => []

/-- Keeps the copy of the twin's reduced gradient of one shard; it takes quota as staging does (R322). -/
def Device.stageTwin (d : Device) (e : Entry) (key shard : Nat) (r : Retained) : Res Device := do
  let cur ← need (d.entry e.id) .eHandle d
  if cur.twins.any fun g => g.1 = key && g.2.1 = shard then pure d
  else
    let (xs, d) ← d.takeCopy e r.data.length
    pure (d.modEntry e.id fun e => { e with twins := e.twins ++ [(key, shard, { r with extents := xs })] })

/-- GRAD_DELIVER. The other devices' SRC bytes are the peers' data, by physical rank; what its twin sends this device equals, bit for bit, what they
reduce to (R92, R319, R322). -/
def gradBody (sent : List PeerData) (peerNonfinite linkLost : Bool) (e : Entry) (d : Device) : Res (Nat × Nat × Device) := do
  let peers := firstOf sent
  let job := (d.stream e.stream).job
  let j := d.job job
  let step := e.param 32 8
  check (collectiveParams e && j.declared) .eParam d
  let (sk, src) ← d.find e (e.param 20 4)
  let (dk, dst) ← d.find e (e.param 24 4)
  let c := cutsOf (j.entryFor 1 e.step)
  let o := cutsOf (j.optEntry dk)
  check (dst.param && dst.job = job && src.fmt = .fp32) .eParam d
  check (dst.cutOk o && (dst.shardDim.isNone || dst.shardExtent % 2 ^ c.t = 0)) .eParam d
  check (!dst.expert || dst.dims.getD 2 1 % 2 ^ c.e = 0) .eParam d
  check (src.count = prod (dst.sliceDims c)) .eParam d
  check (!src.lost) .eStaleShard d
  let me := d.rank j
  let others := othersOf j.size me
  let d ← matchGroup e others d
  if d.awaitsRethread dk dst step then waitFor .gather d
  else
    check (!linkLost) .eLinkLost d
    let (mine, d) ← d.fetchTensor e sk 0 (4 * src.count)
    let data (r : Nat) : Option Bytes := if r = me then some mine else (peers.find? fun p => p.member = r).map fun p => p.data
    let nf := peerNonfinite || (List.range src.count).any fun i => fNonfinite fp32 (rd mine (4 * i) 4)
    let p := dst.parts o
    let due := (d.ownedShards dk dst).filter fun i => (d.shardOf dk i).step < step || (d.shardOf dk i).version = 0
    let reduce (i : Nat) : Option (Nat × Bytes) := (dst.reduceShard c j.size p i data).map fun b => (i, b)
    match due.mapM reduce, (d.twinShards dk dst).mapM reduce with
    | some rs, some ts =>
      let d ← rs.foldlM (fun d r => d.stageRetained e dk dst r.1 { step := step, data := r.2, nonfinite := nf }) d
      let d ← ts.foldlM (fun d r => d.stageTwin e dk r.1 { step := step, data := r.2, nonfinite := nf }) d
      let d := d.refSource e others src
      pure (j.size, ((peers.filter fun p => p.member ≠ me).map fun p => p.data.length).sum, d)
    | _, _ => waitFor .peers d

/-- GRAD_DELIVER. -/
def execGradDeliver (stream : StreamId) (peers : List PeerData) (peerNonfinite linkLost : Bool) (s : State) : Out :=
  s.onDev fun d =>
    match d.ready stream .collective with
    | some e => if e.param 16 1 = 7 then d.runMarked stream .collective (gradBody peers peerNonfinite linkLost) else d
    | none => d

/-- The commit of a GRAD_DELIVER: the retained gradients, and the twin copies (R322, R324). -/
def commitGrad (e : Entry) (d : Device) : Device :=
  let d := e.shards.foldl (fun d s =>
    d.setShard s.tensor s.index { d.shardOf s.tensor s.index with retained := s.shard.retained }) d
  { d with twinGrads := (d.twinGrads.filter fun g => !e.twins.any fun n => n.1 = g.1 && n.2.1 = g.2.1) ++ e.twins }

/-- SRC_COMMIT_ACK: a member that received data has acknowledged its commit; the references end with the last (R324). -/
def execSrcCommitAck (stream : StreamId) (member : Nat) (s : State) : Out :=
  s.onClocked fun d =>
    match d.srcRefs.find? fun r => r.stream = stream.val && r.members.contains member with
    | none => d
    | some r =>
      let left := r.members.filter (· ≠ member)
      let rest := d.srcRefs.erase r
      { d with srcRefs := if left.isEmpty then rest else rest ++ [{ r with members := left }] }.sweepOrphans

end Sys2Proof.Machine
end

