-- ==== Sys2Proof/Machine/Events.lean ====
section
/-!
DEFINITION. The event collector and the event queues (R379 to R396), the selvage log's intake (R439 to R441), MSI-X vectors (R389,
R390), internal consumers (R391, R392), and which registers a function reaches (R12, R13, R353, R354, R361).
-/
namespace Sys2Proof.Machine

/-! ### What a function reaches -/

/-- The key of a function. -/
def Fn.key (f : Fn) : Nat := f.attach.val * 65 + (match f.vf with | some l => l.val + 1 | none => 0)

/-- Whether a function, or its physical function, is in a function-level reset (R359). -/
def Device.inFlr (d : Device) (f : Fn) : Bool :=
  let till (f : Fn) : Nat := (Tab.find d.hosts.flr f.key).getD 0
  d.time < till f || d.time < till { f with vf := none }

/-- Whether a lot's host accesses have the IDE stream that the lot requires (R375). -/
def Device.ideOk (d : Device) (lot : Nat) : Bool :=
  !(d.lot lot).ideRequired || match d.hosting lot with
    | some a => !(d.attachment a).secure.isEmpty
    | none => false

/-- Whether the device serves BAR0 beside IDENT, SEC and PWR_BOOT: it is Ready or in warm reset, and its clocks run. -/
def Device.serving (d : Device) : Bool :=
  (d.power.stage = 7 || d.power.stage = 9) && d.power.locked && d.power.pwrgd && !d.power.tripped

/-- Whether a function reaches the blocks of its BAR0 beyond IDENT and SEC (R353 to R355, R359, R375, R376). -/
def Device.barOpen (d : Device) (f : Fn) : Bool :=
  d.serving && d.attached f.attach && !(d.attachment f.attach).d3hot && !d.inFlr f
    && match f.vf with
      | none => true
      | some l => l.val ≠ 0 && d.lotDom l = .enabled && (d.lot l).attach = f.attach.val && (d.lotState l).tdi ≠ 3 && d.ideOk l

/-- Whether a function is the physical function that holds the management role (R360). -/
def Device.isMgmt (d : Device) (f : Fn) : Bool := f.vf.isNone && d.hosts.holder = some f.attach.val

/-- Whether a function sees a lot's slice of a block (R12, R361). -/
def Device.sees (d : Device) (f : Fn) (lot : Nat) : Bool :=
  d.barOpen f && match f.vf with
    | some l => l.val = lot
    | none => d.isMgmt f || d.hosting lot = some f.attach.val

/-- The dye tag of a function's lot; 0 on a physical function (R14). -/
def Fn.dye (f : Fn) : Nat := match f.vf with | some l => l.val | none => 0

/-- An access by a function discards the high half that an earlier read of it latched (R7). -/
def Device.dropLatch (d : Device) (f : Fn) : Device :=
  { d with hosts := { d.hosts with latches := Tab.erase d.hosts.latches f.key } }

/-- A command that is one register access of a function. -/
def State.onAccess (s : State) (f : Fn) (g : Device → Device) : Out := s.onDev fun d => g (d.dropLatch f)

/-- A write to SELV, LINK or LOT by a function that reaches its BAR0 and does not hold the management role: it goes to the selvage log
(R13, R439). Assumption 109, DESIGN CHOICE. -/
def Device.probe (d : Device) (f : Fn) (offset : Nat) : Device :=
  if d.barOpen f && !d.isMgmt f then
    d.raiseSelvage (srcAttach f.attach) 0x20 f.dye (toLE 1 f.attach ++ toLE 1 f.dye ++ zeros 2 ++ toLE 4 offset)
  else d

/-! ### Internal consumers (R391, R392) -/

/-- A consumer's state. -/
def Device.consumer (d : Device) (c : Nat) : Consumer := Tab.look {} d.events.consumers c

/-- Replaces a consumer's state. -/
def Device.setConsumer (d : Device) (c : Nat) (v : Consumer) : Device :=
  { d with events := { d.events with consumers := Tab.put {} v d.events.consumers c } }

/-- Takes the highest-priority pending source that exceeds the threshold and the running level (R391). -/
def Consumer.take (v : Consumer) (prio : Nat → Nat) : Consumer :=
  let best := v.waiting.foldl (fun (b : Option Nat) s =>
    match b with
    | none => some s
    | some x => if prio x < prio s || (prio x = prio s && s < x) then some s else some x) none
  match best with
  | none => v
  | some s =>
    let above := match v.running with | (_, p) :: _ => p < prio s | [] => true
    if v.threshold < prio s && above then
      { v with running := (s, prio s) :: v.running, waiting := v.waiting.filter (· ≠ s) }
    else v

/-- A source fires for an internal consumer, with a payload or none (R239, R391, R392). -/
def Device.fireInternal (d : Device) (c s : Nat) (payload : Bytes := []) : Device :=
  let v := d.consumer c
  let v := if payload.isEmpty then v else { v with payloads := Tab.insert payload v.payloads s }
  let v := if v.running.any fun r => r.1 = s then { v with again := if v.again.contains s then v.again else v.again ++ [s] }
    else { v with waiting := if v.waiting.contains s then v.waiting else v.waiting ++ [s] }
  d.setConsumer c (v.take d.prio)

/-- HANDLER_COMPLETION_WRITE: the running handler ends. A source that fired during its service is taken again at once, ahead of
every other of equal or lower priority (R392); otherwise the interrupted handler resumes and the next source is taken (R391). -/
def execHandlerCompletionWrite (consumer : Fin 260) (s : State) : Out :=
  s.onDev fun d =>
    let v := d.consumer consumer
    match v.running with
    | [] => d
    | (src, _) :: rest =>
      if v.again.contains src then
        let higher := v.waiting.any fun w => d.prio src < d.prio w
        let v := { v with running := rest, again := v.again.filter (· ≠ src) }
        if higher then d.setConsumer consumer ({ v with waiting := src :: v.waiting }.take d.prio)
        else d.setConsumer consumer { v with running := (src, d.prio src) :: rest }
      else d.setConsumer consumer ({ v with running := rest }.take d.prio)

/-! ### Signalling (R389, R390) -/

/-- The function and table entry of a queue's vector (R389). -/
def Device.vectorOf (d : Device) (q : Nat) : Option (Fn × Nat) :=
  match d.hosting q with
  | none => none
  | some a =>
    if h : a < 16 then
      if q = 0 then some ({ attach := ⟨a, h⟩ }, 0)
      else if (d.evq q).vectorFn then some ({ attach := ⟨a, h⟩ }, 1 + q)
      else if hq : q < 64 then some ({ attach := ⟨a, h⟩, vf := some ⟨q, hq⟩ }, 0)
      else none
    else none

/-- The key of a vector. -/
def vectorKey (f : Fn) (entry : Nat) : Nat := f.key * 4096 + entry

/-- Whether a message of a queue can be sent now (R390). -/
def Device.vectorReachable (d : Device) (q : Nat) : Bool :=
  match d.vectorOf q with
  | some (f, _) => d.attached f.attach && !d.inFlr f
  | none => false

/-- Sends a queue's message: through a masked vector it is held pending, as PCIe defines (R389). -/
def Device.sendMessage (d : Device) (q : Nat) : Device :=
  if !d.vectorReachable q then d
  else
    match d.vectorOf q with
    | none => d
    | some (f, i) =>
      let k := vectorKey f i
      let v := Tab.look {} d.events.vectors k
      let v := if v.masked then { v with pend := true } else { v with sent := v.sent + 1 }
      let e := d.evq q
      { d with events := { d.events with vectors := Tab.put {} v d.events.vectors k } }.setEvq q
        { e with messages := satAdd 0xFFFF e.messages 1 }

/-- HOLDOFF in force (R395). -/
def EventQueue.hold (e : EventQueue) : Nat := min e.holdoff 100000

/-- Sends a message and restarts moderation from it (R390). -/
def Device.signal (d : Device) (q : Nat) : Device :=
  let d := d.sendMessage q
  let e := d.evq q
  d.setEvq q { e with armed := false, timerAt := if e.hold > 0 then some (d.time + e.hold) else none }

/-- Moderation on the write of a record (R390). `idle`: no unconsumed record before it. -/
def Device.moderate (d : Device) (q prio : Nat) (idle : Bool) : Device :=
  let e := d.evq q
  if prio < e.threshold then d
  else if idle || e.timerAt.isNone then d.signal q
  else d.setEvq q { e with armed := true }

/-- A vector has become reachable with its queue enabled: an unconsumed record at or above the threshold sends one message
(R390). -/
def Device.resignal (d : Device) (q : Nat) : Device :=
  let e := d.evq q
  if e.enable && d.vectorReachable q && (e.ring ++ e.spill).any fun r => e.threshold ≤ r.prio then d.signal q else d

/-- HOLDOFF_TIMER_EXPIRY (R390). -/
def execHoldoffTimerExpiry (lot : Lot) (s : State) : Out :=
  s.onClocked fun d =>
    let e := d.evq lot
    match e.timerAt with
    | none => d
    | some t =>
      if d.time < t then d
      else if e.armed && e.tail ≠ e.head then
        let d := d.sendMessage lot
        d.setEvq lot { d.evq lot with armed := false, timerAt := some (t + e.hold) }
      else d.setEvq lot { e with timerAt := none }

/-! ### Rings and spills (R379 to R383) -/

/-- n of R379. -/
def EventQueue.log2 (e : EventQueue) : Nat := if e.depth = 0 then 16 else e.depth

/-- Records of a ring. -/
def EventQueue.size (e : EventQueue) : Nat := 2 ^ e.log2

/-- An event record of 32 bytes (R382). -/
def EventRec.bytes (r : EventRec) (phase : Bool) : Bytes :=
  toLE 2 r.source ++ toLE 1 r.kind ++ toLE 1 (b2n phase * 128 + r.dye) ++ toLE 4 (r.srcSeq * 256 + r.prio) ++ toLE 8 r.time
    ++ r.payload

/-- Whether a queue's ring can be written: enabled, not full, and reached (R355, R381, R462). -/
def Device.ringOpen (d : Device) (q : Nat) : Bool :=
  let e := d.evq q
  e.enable && (if e.loc then d.ringOk q (e.base * 4096) (32 * e.size) else d.hostReachable q)

/-- Whether a queue's ring holds 2^n − 1 unconsumed records. -/
def EventQueue.ringFull (e : EventQueue) : Bool := (e.tail + e.size - e.head) % e.size = e.size - 1

/-- Writes a record at TAIL of a queue's ring: bytes 4 to 31, then bytes 0 to 3 (R383). -/
def Device.ringWrite (d : Device) (q : Nat) (r : EventRec) : Device :=
  let e := d.evq q
  let a := e.base * 4096 + 32 * e.tail
  let b := r.bytes e.phase
  let put (d : Device) (off n : Nat) : Device :=
    if e.loc then d.writeMem (a + off) ((b.drop off).take n) else d.writeHost ((d.hosting q).getD 0) (a + off) ((b.drop off).take n)
  let d := put (put d 4 28) 0 4
  let t := (e.tail + 1) % e.size
  d.setEvq q { d.evq q with tail := t, phase := if t = 0 then !e.phase else e.phase, ring := e.ring ++ [r] }

/-- Whether a queue's spill has room (R381). -/
def Device.spillRoom (d : Device) (q : Nat) : Bool :=
  if q = 0 then (d.evq 0).spill.length < 32768 else d.journalUsed q + 32 ≤ (d.lot q).journalMib * 2 ^ 20

/-- Writes an accepted record to its queue's ring or spill; `none` while both are full (R381, R390). -/
def Device.deliver (d : Device) (q : Nat) (r : EventRec) : Option Device :=
  let e := d.evq q
  let idle := e.ring.isEmpty && e.spill.isEmpty
  if d.ringOpen q && e.spill.isEmpty && !e.ringFull then some ((d.ringWrite q r).moderate q r.prio idle)
  else if d.spillRoom q then
    let d := d.setEvq q { e with
      spill := e.spill ++ [r], full := if d.ringOpen q && e.ringFull then satAdd 0xFFFF e.full 1 else e.full }
    some (d.moderate q r.prio idle)
  else none

/-- Moves spilled records into the ring, in order (R381). Fuel: the records in the spill. -/
def Device.unspill (d : Device) (q : Nat) : Nat → Device
  | 0 => d
  | n + 1 =>
    let e := d.evq q
    match e.spill with
    | [] => d
    | r :: rest =>
      if d.ringOpen q && !e.ringFull then ((d.setEvq q { e with spill := rest }).ringWrite q r).unspill q n else d

/-- Moves what fits of a queue's spill into its ring. -/
def Device.drainSpill (d : Device) (q : Nat) : Device := d.unspill q (d.evq q).spill.length

/-! ### The collector (R386, R387, R393, R394, R439, R440) -/

/-- Credits of a source (R393). -/
def credits (s : Nat) : Nat := if s ≤ 0xFF then 4 else if s ≤ 0x11F then 2 else 1

/-- Logs a record (R439, R440): kinds 1, 2, 0x0E and 0x0F are not logged; the log keeps its last 65,536 entries. -/
def Device.logRecord (d : Device) (r : EventRec) : Device :=
  if [0x01, 0x02, 0x0E, 0x0F].contains r.kind then d
  else
    let l := d.observe.log ++ [(d.observe.nextLog, r.queue.isSome, r)]
    { d with observe := { d.observe with
        log := l.drop (l.length - Config.selvageEntries), nextLog := d.observe.nextLog + 1 } }

/-- Sources that hold records, in cyclic ascending order from the one after the last accepted (R394). Assumption 8, DESIGN CHOICE. -/
def Device.raisedSources (d : Device) : List Nat :=
  let all := (d.events.sources.filter fun s => !s.2.raised.isEmpty).map fun s => s.1
  all.filter (d.events.last < ·) ++ all.filter (· ≤ d.events.last)

/-- Accepts one record of a source, if it holds a credit (R393). -/
def Device.acceptOne (d : Device) (src : Nat) : Device :=
  let s := d.source src
  let held := (d.events.buffer.filter fun r => r.source = src).length
  match s.raised with
  | [] => d
  | r :: rest =>
    if credits src ≤ held then d
    else
      let d := (d.setSource src { s with raised := rest }).logRecord r
      { d with events := { d.events with buffer := d.events.buffer ++ [r], last := src } }

/-- Passes the records in the collector's buffer to their queues, in order; those of a masked source, and those behind a full
spill, stay (R381, R387). -/
def Device.deliverAll (d : Device) : Device :=
  let (d, kept, _) := d.events.buffer.foldl (fun (acc : Device × List EventRec × List Nat) r =>
    let (d, kept, stuck) := acc
    if (d.source r.source).masked && r.source ≠ srcFatal then (d, kept ++ [r], stuck)
    else
      match r.queue with
      | none => acc
      | some q =>
        if stuck.contains q then (d, kept ++ [r], stuck)
        else
          match d.deliver q r with
          | some d => (d, kept, stuck)
          | none => (d, kept ++ [r], stuck ++ [q])) ({ d with events := { d.events with buffer := [] } }, [], [])
  { d with events := { d.events with buffer := kept } }

/-- EVENT_RECORD_ACCEPT: one cycle of the collector: up to 8 records, at most one from any source (R394), then their delivery. -/
def execEventRecordAccept (s : State) : Out :=
  s.onDev fun d =>
    if !d.clocked then d
    else
      let ready := d.raisedSources.filter fun x => (d.events.buffer.filter fun r => r.source = x).length < credits x
      ((ready.take 8).foldl Device.acceptOne d).deliverAll

/-! ### Event-queue registers (R395, R396) -/

/-- Fields of a write to EVQ_CTL beside ENABLE: DEPTH_LOG2 is ignored while ENABLE is 1, and for 1 to 5 (R395). -/
def EventQueue.setCtl (e : EventQueue) (v : Nat) : EventQueue :=
  let n := field v 19 16
  { e with
    vectorFn := v.testBit 30, threshold := field v 23 20
    depth := if e.enable || (1 ≤ n && n ≤ 5) then e.depth else n }

/-- EVQ_ENABLE_SET: a write of EVQ_CTL with ENABLE 1 (R381, R390, R395, R462). -/
def Device.evqEnable (d : Device) (f : Fn) (lot v : Nat) : Device :=
  let e := d.evq lot
  if !d.sees f lot || !v.testBit 31 then d
  else
    let e' := e.setCtl v
    if e.enable then d.setEvq lot e'
    else if e'.loc && !d.ringOk lot (e'.base * 4096) (32 * e'.size) then d.judgeRings lot [(e'.base * 4096, 32 * e'.size)]
    else
      let d := d.setEvq lot { e' with enable := true, head := 0, tail := 0, phase := true, ring := [] }
      (d.drainSpill lot).resignal lot

/-- EVQ_ENABLE_SET. -/
def execEvqEnableSet (fn : Fn) (lot : Lot) (value : BitVec 32) (s : State) : Out :=
  s.onAccess fn fun d => d.evqEnable fn lot value.toNat

/-- EVQ_ENABLE_CLEAR: a write of EVQ_CTL with ENABLE 0; records then go to the spill (R395). -/
def Device.evqDisable (d : Device) (f : Fn) (lot v : Nat) : Device :=
  if !d.sees f lot || v.testBit 31 then d else d.setEvq lot { (d.evq lot).setCtl v with enable := false }

/-- EVQ_ENABLE_CLEAR. -/
def execEvqEnableClear (fn : Fn) (lot : Lot) (value : BitVec 32) (s : State) : Out :=
  s.onAccess fn fun d => d.evqDisable fn lot value.toNat

/-- EVQ_HEAD_WRITE: software has consumed records; spilled ones move into the ring (R381, R395). -/
def Device.evqHead (d : Device) (f : Fn) (lot v : Nat) : Device :=
  if !d.sees f lot then d
  else
    let e := d.evq lot
    let h := v % 2 ^ 16 % e.size
    let left := (e.tail + e.size - h) % e.size
    (d.setEvq lot { e with head := h, ring := e.ring.drop (e.ring.length - left) }).drainSpill lot

/-- EVQ_HEAD_WRITE. -/
def execEvqHeadWrite (fn : Fn) (lot : Lot) (value : BitVec 32) (s : State) : Out :=
  s.onAccess fn fun d => (d.evqHead fn lot value.toNat).deliverAll

/-- The sources named by the set bits of a word (R396). -/
def wordSources (w : Nat) (v : Nat) : List Nat := (bitsOf 32 v).map (32 * w + ·)

/-- Whether a source ID is assigned (R385). -/
def sourceAssigned (s : Nat) : Bool :=
  s ≤ 0x3BF || (0x3C0 ≤ s && s ≤ 0x3D3) || (0x3E0 ≤ s && s ≤ 0x456)

/-- EVQ_MASK_SET (R386, R387). -/
def execEvqMaskSet (fn : Fn) (word : Fin 128) (value : BitVec 32) (s : State) : Out :=
  s.onAccess fn fun d =>
    if d.barOpen fn && d.isMgmt fn then
      ((wordSources word value.toNat).filter sourceAssigned).foldl (fun d x => d.setSource x { d.source x with masked := true }) d
    else d

/-- EVQ_MASK_CLR: the held records are then written in their order (R387). -/
def execEvqMaskClr (fn : Fn) (word : Fin 128) (value : BitVec 32) (s : State) : Out :=
  s.onAccess fn fun d =>
    if d.barOpen fn && d.isMgmt fn then
      ((wordSources word value.toNat).foldl (fun d x => d.setSource x { d.source x with masked := false }) d).deliverAll
    else d

/-- Whether a source has a SOFT record that has not been written (R388). -/
def Device.softWaiting (d : Device) (src : Nat) : Bool :=
  ((d.source src).raised ++ d.events.buffer.filter fun r => r.source = src).any fun r => r.kind = 0x0E

/-- The pending bit of a source (R387, R388). -/
def Device.pendingBit (d : Device) (src : Nat) : Bool :=
  d.softWaiting src || ((d.source src).masked && !(((d.source src).raised ++ d.events.buffer.filter fun r => r.source = src).isEmpty))

/-- EVQ_PEND_SET: a SOFT record from each source whose bit is 0 (R388). -/
def execEvqPendSet (fn : Fn) (word : Fin 128) (value : BitVec 32) (s : State) : Out :=
  s.onAccess fn fun d =>
    if d.barOpen fn && d.isMgmt fn then
      ((wordSources word value.toNat).filter sourceAssigned).foldl
        (fun d x => if d.pendingBit x then d else d.raiseMgmt x 0x0E []) d
    else d

/-- EVQ_PEND_CLR: withdraws a SOFT record that has not been written (R388). -/
def execEvqPendClr (fn : Fn) (word : Fin 128) (value : BitVec 32) (s : State) : Out :=
  s.onAccess fn fun d =>
    if d.barOpen fn && d.isMgmt fn then
      (wordSources word value.toNat).foldl (fun d x =>
        let v := d.source x
        let d := d.setSource x { v with raised := v.raised.filter fun r => r.kind ≠ 0x0E }
        { d with events := { d.events with buffer := d.events.buffer.filter fun r => !(r.source = x && r.kind = 0x0E) } }) d
    else d

/-- MSIX_VECTOR_UNMASK: the vector is unmasked, and a pending message is sent (R389). -/
def execMsixVectorUnmask (fn : Fn) (entry : Nat) (s : State) : Out :=
  s.onClocked fun d =>
    if entry < 4096 then
      let k := vectorKey fn entry
      let v := Tab.look {} d.events.vectors k
      let v := { v with masked := false, pend := false, sent := if v.pend then v.sent + 1 else v.sent }
      { d with events := { d.events with vectors := Tab.put {} v d.events.vectors k } }
    else d

end Sys2Proof.Machine
end

