-- ==== Sys2Proof/Machine/Packs.lean ====
section
/-!
DEFINITION. The packing operations of the vector engine: MX_UNPACK, MX_PACK, SP24_PACK, SP24_UNPACK, BITS_PACK, BITS_UNPACK,
INTERLEAVE and DEINTERLEAVE (R72, R83, R105, R106, R133, R134).
-/
namespace Sys2Proof.Machine

/-- Bytes of the elements of one microscaled block (R71). -/
def mxBlockBytes (f : Format) (block : Nat) : Nat := f.bits * block / 8

/-- Whether a microscaled operation has one of the forms of R133. -/
def MxOp.wf (op : MxOp) : Bool := op.fmt.isMx && (op.block = 32 || op.block = 16) && 1 ≤ op.blocks

/-- Whether the planes of a microscaled operation lie in the local store (R130). -/
def MxOp.inside (op : MxOp) : Bool :=
  spanOk op.plane (op.blocks * mxBlockBytes op.fmt op.block) && spanOk op.scales op.blocks
    && spanOk op.data (4 * op.block * op.blocks)

/-- The exact values of one stored block (R73). -/
def mxBlockValues (f : Format) (block : Nat) (elems : Bytes) (scale : Nat) : List Flt :=
  let sp := (f.mxElem).getD e4m3
  (List.range block).map fun i => mxDecode sp scale (bitElem f.bits i elems)

/-- MX_UNPACK (R73, R133): exact, NaN blocks included. -/
def mxUnpackBody (core : Nat) (op : MxOp) (e : Entry) (s : State) : Except Status State := do
  if !op.wf || !op.inside then throw .eParam
  let n := mxBlockBytes op.fmt op.block
  let vals := (List.range op.blocks).flatMap fun b =>
    mxBlockValues op.fmt op.block (s.eng.read core (op.plane + b * n) n) (rd (s.eng.read core (op.scales + b) 1) 0 1)
  let nan := (s.eng.read core op.scales op.blocks).any fun b => b = 0xFF
  let flags := vals.foldl (fun f v => f ||| roundFlags fp32 v) (flagIf nan fMxNan ||| operandFlags vals)
  let s := s.storeWrite core op.data (vals.flatMap fun v => toLE 4 (encodeF fp32 v))
  let s := s.raiseFlags e core flags
  pure { s with dev := s.dev.countVector core e.lot (op.block * op.blocks) }

/-- MX_UNPACK. -/
def execMxUnpack (core : CoreId) (op : MxOp) (s : State) : Out :=
  .next (s.onCore core (mxUnpackBody core op))

/-- Encodes values in blocks (R83): element plane, scale plane, and flags. -/
def mxPackValues (f : Format) (block : Nat) (vals : List Flt) : Bytes × Bytes × Nat :=
  let sp := (f.mxElem).getD e4m3
  (List.range (vals.length / block)).foldl (fun acc b =>
    let vs := (vals.drop (b * block)).take block
    let r := mxEncode sp vs []
    let tiny := (vs.zip r.1).any fun p => !p.1.isZero && !p.1.nonfinite && sp.low p.2
    (acc.1 ++ packBits f.bits r.1, acc.2.1 ++ [BitVec.ofNat 8 r.2],
      acc.2.2 ||| flagIf (r.2 = 0xFF) fMxNan ||| flagIf (tiny && r.2 ≠ 0xFF) fTiny ||| operandFlags vs)) ([], [], 0)

/-- MX_PACK (R83, R133). -/
def mxPackBody (core : Nat) (op : MxOp) (e : Entry) (s : State) : Except Status State := do
  if !op.wf || !op.inside then throw .eParam
  let n := op.block * op.blocks
  let data := s.eng.read core op.data (4 * n)
  let vals := (List.range n).map fun i => decodeF fp32 (rd data (4 * i) 4)
  let (elems, scales, flags) := mxPackValues op.fmt op.block vals
  let s := (s.storeWrite core op.plane elems).storeWrite core op.scales scales
  let s := s.raiseFlags e core flags
  pure { s with dev := s.dev.countVector core e.lot n }

/-- MX_PACK. -/
def execMxPack (core : CoreId) (op : MxOp) (s : State) : Out :=
  .next (s.onCore core (mxPackBody core op))

/-! ### Element 2:4 sparsity (R105, R106, R134) -/

/-- Whether a 2:4 operation has one of the forms of R133. -/
def Sp24Op.wf (op : Sp24Op) : Bool := [Format.fp32, .bf16, .fp16, .e4m3, .e5m2].contains op.fmt && 1 ≤ op.groups

/-- Whether the planes of a 2:4 operation lie in the local store (R130). -/
def Sp24Op.inside (op : Sp24Op) : Bool :=
  let w := elemBytes op.fmt
  spanOk op.data (4 * w * op.groups) && spanOk op.values (2 * w * op.groups) && spanOk op.meta24 (ceilDiv op.groups 2)

/-- Whether a value ranks before another of a higher position (R134): NaN first, then the larger magnitude. -/
def ranksBefore (a b : Flt) : Bool :=
  match a, b with
  | .nan, _ => true
  | _, .nan => false
  | a, b => !a.abs.lt b.abs

/-- The two positions that SP24_PACK keeps in a group of four, lower first (R134). -/
def keepTwo (vs : List Flt) : Nat × Nat :=
  let rank (i : Nat) : Nat :=
    ((List.range 4).filter fun j =>
      let a := vs.getD j .zero
      let b := vs.getD i .zero
      if j < i then ranksBefore a b else j > i && !ranksBefore b a).length
  match (List.range 4).filter fun i => rank i < 2 with
  | [a, b] => (a, b)
  | _ => (0, 1)

/-- A metadata nibble (R105). -/
def metaNibble (p : Nat × Nat) : Nat := p.1 + 4 * p.2

/-- Whether a nibble is one of the six valid ones (R106). -/
def nibbleOk (n : Nat) : Bool := [0x4, 0x8, 0xC, 0x9, 0xD, 0xE].contains n

/-- SP24_PACK (R134). -/
def sp24PackBody (core : Nat) (op : Sp24Op) (e : Entry) (s : State) : Except Status State := do
  if !op.wf || !op.inside then throw .eParam
  let w := elemBytes op.fmt
  let sp := (op.fmt.spec).getD fp32
  let data := s.eng.read core op.data (4 * w * op.groups)
  let out := (List.range op.groups).map fun g =>
    let raw := (List.range 4).map fun i => rd data ((4 * g + i) * w) w
    let vs := raw.map (decodeF sp)
    let k := keepTwo vs
    let lost := (List.range 4).any fun i => i ≠ k.1 && i ≠ k.2 && !(vs.getD i .zero).isZero
    (toLE w (raw.getD k.1 0) ++ toLE w (raw.getD k.2 0), metaNibble k, lost, operandFlags vs)
  let flags := out.foldl (fun f o => f ||| flagIf o.2.2.1 fDiscard ||| o.2.2.2) 0
  let s := s.storeWrite core op.values (out.flatMap fun o => o.1)
  let s := s.storeWrite core op.meta24 (packBits 4 (out.map fun o => o.2.1))
  let s := s.raiseFlags e core flags
  pure { s with dev := s.dev.countVector core e.lot (4 * op.groups) }

/-- SP24_PACK. -/
def execSp24Pack (core : CoreId) (op : Sp24Op) (s : State) : Out :=
  .next (s.onCore core (sp24PackBody core op))

/-- SP24_UNPACK (R106, R133): +0 in the positions not kept. -/
def sp24UnpackBody (core : Nat) (op : Sp24Op) (e : Entry) (s : State) : Except Status State := do
  if !op.wf || !op.inside then throw .eParam
  let w := elemBytes op.fmt
  let vals := s.eng.read core op.values (2 * w * op.groups)
  let nibs := (List.range op.groups).map fun g => bitElem 4 g (s.eng.read core op.meta24 (ceilDiv op.groups 2))
  if !nibs.all nibbleOk then throw .eSparseMeta
  let out := (List.range (4 * op.groups)).flatMap fun i =>
    let n := nibs.getD (i / 4) 0
    if i % 4 = n % 4 then elemBytesAt vals w (2 * (i / 4))
    else if i % 4 = n / 4 then elemBytesAt vals w (2 * (i / 4) + 1)
    else zeros w
  let s := s.storeWrite core op.data out
  pure { s with dev := s.dev.countVector core e.lot (4 * op.groups) }
where
  /-- The bytes of element i. -/
  elemBytesAt (b : Bytes) (w i : Nat) : Bytes := (b.drop (i * w)).take w

/-- SP24_UNPACK. -/
def execSp24Unpack (core : CoreId) (op : Sp24Op) (s : State) : Out :=
  .next (s.onCore core (sp24UnpackBody core op))

/-! ### Predicates and interleaving (R133) -/

/-- BITS_PACK: element 0 in bit [0] of byte 0. -/
def execBitsPack (core : CoreId) (op : BitsOp) (s : State) : Out :=
  .next (s.onCore core fun e s =>
    if spanOk op.addr (ceilDiv op.count 8) then
      let m := Tab.look [] (s.eng.core core).masks op.predicate
      let bits := (List.range op.count).map fun i => b2n (m.getD i false)
      let s := s.storeWrite core op.addr (packBits 1 bits)
      .ok { s with dev := s.dev.countVector core e.lot op.count }
    else .error .eParam)

/-- BITS_UNPACK. -/
def execBitsUnpack (core : CoreId) (op : BitsOp) (s : State) : Out :=
  .next (s.onCore core fun e s =>
    if spanOk op.addr (ceilDiv op.count 8) then
      let b := s.eng.read core op.addr (ceilDiv op.count 8)
      let c := s.eng.core core
      let m := (List.range op.count).map fun i => decide (bitElem 1 i b = 1)
      .ok { s with
        eng := s.eng.setCore core { c with masks := Tab.put [] m c.masks op.predicate }
        dev := s.dev.countVector core e.lot op.count }
    else .error .eParam)

/-- Whether an interleave has one of the forms of R133. -/
def InterleaveOp.wf (op : InterleaveOp) : Bool :=
  (op.parts.length = 2 || op.parts.length = 4) && [1, 2, 4, 8].contains op.width

/-- Whether the operands lie in the local store. -/
def InterleaveOp.inside (op : InterleaveOp) : Bool :=
  op.parts.all (fun p => spanOk p (op.width * op.count)) && spanOk op.whole (op.width * op.count * op.parts.length)

/-- INTERLEAVE: element e of operand p goes to place m·e + p. -/
def execInterleave (core : CoreId) (op : InterleaveOp) (s : State) : Out :=
  .next (s.onCore core fun e s =>
    if op.wf && op.inside then
      let m := op.parts.length
      let srcs := op.parts.map fun p => s.eng.read core p (op.width * op.count)
      let out := (List.range (m * op.count)).flatMap fun i =>
        ((srcs.getD (i % m) []).drop (i / m * op.width)).take op.width
      let s := s.storeWrite core op.whole out
      .ok { s with dev := s.dev.countVector core e.lot (m * op.count) }
    else .error .eParam)

/-- DEINTERLEAVE: the inverse. -/
def execDeinterleave (core : CoreId) (op : InterleaveOp) (s : State) : Out :=
  .next (s.onCore core fun e s =>
    if op.wf && op.inside then
      let m := op.parts.length
      let src := s.eng.read core op.whole (op.width * op.count * m)
      let s := op.parts.zipIdx.foldl (fun s p =>
        s.storeWrite core p.1 ((List.range op.count).flatMap fun i => (src.drop ((m * i + p.2) * op.width)).take op.width)) s
      .ok { s with dev := s.dev.countVector core e.lot (m * op.count) }
    else .error .eParam)

end Sys2Proof.Machine
end

