-- ==== Sys2Proof/Machine/Shuttle.lean ====
section
/-!
DEFINITION. SHUTTLE_DISPATCH: the selection of experts, the expert lists and the slot records of one dispatch record, the gather of
token rows and the combine of the outputs (R111 to R120).
-/
namespace Sys2Proof.Machine

/-- States of a slot record (R116). -/
inductive SlotState where
  | dispatched | rerouted | dropped | residual | nonfinite
  deriving DecidableEq, Repr

/-- A slot as it is placed (R114 to R116): token, original rank, and the last offer: expert, its rank for the token, position. -/
structure Slot where
  token  : Nat
  rank   : Nat
  state  : SlotState
  expert : Nat
  offer  : Nat
  place  : Nat
  deriving DecidableEq, Repr

/-- Counts of one expert (R116). -/
structure ExpertCount where
  count  : Nat := 0
  demand : Nat := 0
  beyond   : Nat := 0
  in_    : Nat := 0
  deriving DecidableEq, Repr

/-- Whether expert a ranks before expert b for a row of scores (R112): the larger score first, the lower index on a tie. -/
def scoreBefore (row : List Nat) (a b : Nat) : Bool :=
  let x := decodeF fp32 (row.getD a 0)
  let y := decodeF fp32 (row.getD b 0)
  y.lt x || (!x.lt y && a < b)

/-- Inserts an expert into a ranking. -/
def rankInsert (row : List Nat) (e : Nat) : List Nat → List Nat
  | [] => [e]
  | x :: t => if scoreBefore row e x then e :: x :: t else x :: rankInsert row e t

/-- The experts of a token, from the largest score to the smallest (R112). -/
def ranking (row : List Nat) : List Nat := (List.range row.length).foldl (fun acc e => rankInsert row e acc) []

/-- Everything one selection computes: the slots in order of placement, and the counts by expert. -/
structure Selection where
  slots  : List Slot
  counts : List ExpertCount
  deriving DecidableEq, Repr

/-- Changes the counts of one expert. -/
def Selection.mod (s : Selection) (e : Nat) (f : ExpertCount → ExpertCount) : Selection :=
  { s with counts := s.counts.zipIdx.map fun c => if c.2 = e then f c.1 else c.1 }

/-- The counts of one expert. -/
def Selection.of (s : Selection) (e : Nat) : ExpertCount := s.counts.getD e {}

/-- Places the first choices before the second ones, and so on (R114). -/
def firstPass (r : ShuttleRecord) (ranks : List (Option (List Nat))) : Selection :=
  (List.range r.topk).foldl (fun s k =>
    ranks.zipIdx.foldl (fun s x =>
      match x.1 with
      | none => { s with slots := s.slots ++ [⟨x.2, k, .nonfinite, 0xFFFF, 0, 0⟩] }
      | some l =>
        let e := l.getD k 0
        let c := s.of e
        let fits := c.demand < r.capacity
        let s := s.mod e fun c => { c with
          demand := c.demand + 1, count := c.count + b2n fits, beyond := c.beyond + b2n (!fits) }
        { s with slots := s.slots ++ [⟨x.2, k, if fits then .dispatched else .dropped, e, k, c.demand⟩] }) s)
    { slots := [], counts := List.replicate r.experts {} }

/-- One reroute round (R115): `next` holds the rank of the next expert to offer to each token, and `offers` the experts offered in this
round so far. An offer's position is the expert's count when the round began, plus the offers of the round before it. Assumption 18, DEDUCED. -/
def rerouteRound (r : ShuttleRecord) (ranks : List (Option (List Nat))) (s : Selection) (next : List Nat) :
    Selection × List Nat :=
  let (t, next, _) := s.slots.zipIdx.foldl (fun (acc : Selection × List Nat × List Nat) x =>
    let sl := x.1
    if sl.state ≠ .dropped then acc
    else
      let k := acc.2.1.getD sl.token 0
      match (ranks.getD sl.token none).bind fun l => l[k]? with
      | none => acc
      | some e =>
        let place := (s.of e).count + (acc.2.2.filter (· = e)).length
        let fits := place < r.capacity
        let s := acc.1.mod e fun c => { c with
          demand := c.demand + 1, count := c.count + b2n fits, beyond := c.beyond + b2n (!fits), in_ := c.in_ + b2n fits }
        let sl : Slot := { sl with state := if fits then .rerouted else .dropped, expert := e, offer := k, place := place }
        ({ s with slots := s.slots.set x.2 sl }, acc.2.1.set sl.token (k + 1), e :: acc.2.2)) (s, next, [])
  (t, next)

/-- The reroute rounds (R115): they end early when no slot remains overflowed. -/
def rerouteRounds (r : ShuttleRecord) (ranks : List (Option (List Nat))) : Nat → Selection → List Nat → Selection
  | 0, s, _ => s
  | n + 1, s, next =>
    if s.slots.all fun x => x.state ≠ .dropped then s
    else
      let (s, next) := rerouteRound r ranks s next
      rerouteRounds r ranks n s next

/-- The rankings of the tokens; none for a token with a non-finite score (R112). -/
def ranks (scores : List (List Nat)) : List (Option (List Nat)) :=
  scores.map fun row => if row.any (fNonfinite fp32) then none else some (ranking row)

/-- The selection of a dispatch (R112, R114, R115). -/
def select (r : ShuttleRecord) (scores : List (List Nat)) : Selection :=
  let ranks := ranks scores
  let s := firstPass r ranks
  match r.policy with
  | 1 => rerouteRounds r ranks r.depth s (scores.map fun _ => r.topk)
  | 2 => { s with slots := s.slots.map fun x => if x.state = .dropped then { x with state := .residual } else x }
  | _ => s

/-- The weight of a slot (R113). -/
def slotWeight (r : ShuttleRecord) (row : List Nat) (x : Slot) : Nat :=
  let score := row.getD x.expert 0
  if !r.renorm then score
  else
    let sel := (ranking row).take r.topk
    let sum := sel.foldl (fun acc e => match acc with
      | none => some (row.getD e 0)
      | some a => some (fAdd fp32 a (row.getD e 0))) (none : Option Nat)
    let dd := sum.getD 0
    if fIsZero fp32 dd then fDiv fp32 one32 (fOfInt fp32 r.topk) else fDiv fp32 score dd

/-- The state code of a slot record (R116). -/
def SlotState.code : SlotState → Nat
  | .dispatched => 0 | .rerouted => 1 | .dropped => 2 | .residual => 3 | .nonfinite => 4

/-- The structure that a dispatch produces (R116). -/
def structureBytes (r : ShuttleRecord) (scores : List (List Nat)) (s : Selection) : Bytes :=
  let (h, so, size) := r.layout
  let head := s.counts.flatMap fun c => toLE 4 c.count ++ toLE 4 c.demand ++ toLE 4 c.beyond ++ toLE 4 c.in_
  let lists := (List.range r.experts).flatMap fun e =>
    let mine := s.slots.filter fun x => (x.state = .dispatched || x.state = .rerouted) && x.expert = e
    (List.range r.capacity).flatMap fun i =>
      match mine.find? fun x => x.place = i with
      | some x => toLE 4 x.token ++ toLE 4 (slotWeight r (scores.getD x.token []) x)
      | none => zeros 8
  let recs := (List.range r.tokens).flatMap fun t => (List.range r.topk).flatMap fun k =>
    match s.slots.find? fun x => x.token = t && x.rank = k with
    | some x =>
      if x.state = .nonfinite then toLE 2 0xFFFF ++ toLE 1 4 ++ zeros 5
      else toLE 2 x.expert ++ toLE 1 x.state.code ++ toLE 1 x.offer ++ toLE 4 x.place
    | none => zeros 8
  fit size (fit so (fit h head ++ lists) ++ recs)

/-- The cluster that counts a dispatch: the first ENABLED one, since the result does not depend on the units that serve it
(R119, R120). Assumption 45, DESIGN CHOICE. -/
def Device.servingCluster (d : Device) : Option Nat := (List.range Config.clusters).find? fun c => (d.cluster c).state = .enabled

/-- One dispatch of a launch: from the score tensor's committed state (R119) to the structure in scratch, and to the LIST_SLOT
tensor's staging (R116). It waits while no unit serves the lot (R120). -/
def shuttleBody (i : Nat) (e : Entry) (d : Device) : Res Device := do
  let r ← need (e.shuttle i) .eParam d
  match d.servingCluster with
  | none => waitFor .shuttle d
  | some c =>
    let (_, t) ← d.find e (e.slotHandle r.score)
    let (raw, d) ← d.fetchExtents e.lot t.extents 0 (4 * r.tokens * r.experts) 0
    check (d.scratchOwned e) .eTagViolation d
    let scores := (List.range r.tokens).map fun t => (List.range r.experts).map fun x => rd raw (4 * (t * r.experts + x)) 4
    let s := select r scores
    let bytes := structureBytes r scores s
    let n (p : Slot → Bool) : Nat := (s.slots.filter p).length
    let d ← if r.list = 0xFF then pure d
      else d.putTensor e (tensorKeyOf e.lot (e.slotHandle r.list % 2 ^ 24)) 0 bytes
    let nf := n (fun x => x.state = .nonfinite && x.rank = 0)
    let ev (d : Device) (k v : Nat) : Device := d.countCluster (some c) k e.lot v
    let beyond := ((firstPass r (ranks scores)).slots.filter fun x => x.state = .dropped).length
    let d := ev (ev (ev (ev (ev d 0x10C (n fun x => x.state = .dispatched || x.state = .rerouted)) 0x10D beyond)
      0x10E (n fun x => x.state = .rerouted)) 0x10F (n fun x => x.state = .dropped)) 0x110 nf
    let d := d.addNwatch e.lot 6 nf
    let weights := (List.range r.tokens).flatMap fun t => (List.range r.topk).map fun k =>
      match s.slots.find? fun x => x.token = t && x.rank = k with
      | some x => slotWeight r (scores.getD t []) x
      | none => 0
    pure { d with mem := { d.mem with
      structures := (d.mem.structures.filter fun x => !(x.entry = e.id && x.record = i))
        ++ [{ entry := e.id, record := i, bytes := bytes, weights := weights }] } }

/-- The dispatch of a launch's record, once it has been made. -/
def Device.dispatched (d : Device) (e : Entry) (i : Nat) : Option ShuttleResult :=
  d.mem.structures.find? fun x => x.entry = e.id && x.record = i

/-! ### Gather and combine (R117, R118) -/

/-- The bytes of one row of DIM[0] elements in the element plane and in the scale plane: offset and length. -/
def Tensor.rowSpans (t : Tensor) (row : Nat) : (Nat × Nat) × (Nat × Nat) :=
  let w := t.dims.getD 0 0
  let n := w * t.fmt.bits / 8
  let b := if t.fmt.isMx then w / t.blockSize else 0
  let sc := ((planesOf t.fmt t.dims t.block16 t.sparsity).getD 2 (0, 0)).1
  ((row * n, n), (sc + row * b, b))

/-- Whether a tensor's rows can be gathered and combined: a dense floating-point tensor. -/
def Tensor.rowsOk (t : Tensor) : Bool := t.sparsity = 0 && (floatFmt t.fmt || t.fmt.isMx)

/-- The elements and the block scales of a row, as a launch sees them. -/
def Device.rowBytes (d : Device) (e : Entry) (key : Nat) (t : Tensor) (row : Nat) : Res ((Bytes × Bytes) × Device) := do
  check (row < t.count / t.dims.getD 0 1) .eParam d
  let (a, b) := t.rowSpans row
  let (es, d) ← d.fetchTensor e key a.1 a.2
  let (sc, d) ← d.fetchTensor e key b.1 b.2
  pure ((es, sc), d)

/-- The values of a row. -/
def Tensor.rowValues (t : Tensor) (r : Bytes × Bytes) : List Flt :=
  (List.range (t.dims.getD 0 0)).map fun i =>
    let raw := bitElem t.fmt.bits i r.1
    match t.fmt.mxElem with
    | some sp => mxDecode sp (rd r.2 (i / t.blockSize) 1) raw
    | none => decodeF ((t.fmt.spec).getD fp32) raw

/-- The rows of an expert's input: list position to token, `none` for a padding row (R117). -/
def listRow (r : ShuttleRecord) (bytes : Bytes) (expert i : Nat) : Option (Option Nat) :=
  let count := rd bytes (16 * expert) 4
  if i < count then some (some (rd bytes (r.layout.1 + 8 * (expert * r.capacity + i)) 4))
  else if i < ceilDiv count 128 * 128 then some none
  else none

/-- The gather of an expert's rows in list order, with +0 in the padding rows; an expert with COUNT 0 has none (R117). -/
def shuttleGather (r : ShuttleRecord) (x : ShuttleResult) (expert slot first rows core store scales : Nat) (e : Entry) (s : State) :
    Res State := do
  let d := s.dev
  check (expert < r.experts && slot < e.slots) .eParam d
  let (key, t) ← d.find e (e.slotHandle slot)
  check t.rowsOk .eParam d
  let (a, b) := t.rowSpans 0
  check (spanOk store (rows * a.2) && spanOk scales (rows * b.2)) .eParam d
  (List.range rows).foldlM (fun s i => do
    match listRow r x.bytes expert (first + i) with
    | none => pure s
    | some row =>
      let (bs, d) ← match row with
        | some tok => s.dev.rowBytes e key t tok
        | none => pure ((zeros a.2, zeros b.2), s.dev)
      pure (({ s with dev := d }.storeWrite core (store + i * a.2) bs.1).storeWrite core (scales + i * b.2) bs.2)) s

/-- One slot's part in a combined row (R118): the rows of the expert output or of the input, and the weight; none where it contributes
nothing. -/
def combineTerm (r : ShuttleRecord) (x : ShuttleResult) (tok i : Nat) : Option (Bool × Nat × Nat) :=
  let rec_ := (x.bytes.drop (r.layout.2.1 + 8 * (tok * r.topk + i))).take 8
  let w := x.weights.getD (tok * r.topk + i) 0
  match rd rec_ 2 1 with
  | 0 | 1 => some (true, rd rec_ 0 2 * r.capacity + rd rec_ 4 4, w)
  | 3 => some (false, tok, w)
  | _ => none

/-- The combine of one token's row in FP32, in slot order from +0, with the flags of its steps (R118); the canonical NaN in every element for a
token that was not dispatched (R112). -/
def combineRow (width : Nat) (nonfinite : Bool) (terms : List (Nat × List Flt)) : List Nat × Nat :=
  if nonfinite then (List.replicate width 0x7FC00000, 0)
  else
    let cols := (List.range width).map fun j => terms.foldl (fun (acc : Nat × Nat) p =>
      let ops := [decodeF fp32 p.1, p.2.getD j .zero, decodeF fp32 acc.1]
      let exact := (((decodeF fp32 p.1).mul (p.2.getD j .zero)).add (decodeF fp32 acc.1))
      (encodeF fp32 exact, acc.2 ||| resultFlags fp32 exact ops)) (0, 0)
    (cols.map fun c => c.1, cols.foldl (fun f c => f ||| c.2) 0)

/-- The combine of tokens (R118): rows of y in FP32, narrowed under R83 or R84. -/
def shuttleCombine (r : ShuttleRecord) (z : ShuttleResult) (core token tokens x out y : Nat) (e : Entry) (s : State) : Res State := do
  let d := s.dev
  check (token + tokens ≤ r.tokens && x < e.slots && out < e.slots && y < e.slots) .eParam d
  let (kx, tx) ← d.find e (e.slotHandle x)
  let (ko, to') ← d.find e (e.slotHandle out)
  let (ky, ty) ← d.find e (e.slotHandle y)
  let w := ty.dims.getD 0 0
  check (tx.rowsOk && to'.rowsOk && ty.rowsOk && tx.dims.getD 0 0 = w && to'.dims.getD 0 0 = w && r.tokens ≤ ty.count / w) .eParam d
  (List.range tokens).foldlM (fun s i => do
    let tok := token + i
    let nonfinite := rd z.bytes (r.layout.2.1 + 8 * (tok * r.topk) + 2) 1 = 4
    let (terms, d) ← ((List.range r.topk).filterMap fun k => combineTerm r z tok k).foldlM (fun acc m => do
      let (row, d) ← if m.1 then acc.2.rowBytes e ko to' m.2.1 else acc.2.rowBytes e kx tx m.2.1
      pure (acc.1 ++ [(m.2.2, if m.1 then to'.rowValues row else tx.rowValues row)], d)) (([] : List (Nat × List Flt)), s.dev)
    let (row, f) := combineRow w nonfinite terms
    let vals := row.map (decodeF fp32)
    let (es, sc, g, sat) := match ty.fmt.mxElem with
      | some _ => let p := mxPackValues ty.fmt ty.blockSize vals; (p.1, p.2.1, p.2.2, 0)
      | none =>
        let sp := (ty.fmt.spec).getD fp32
        (vals.flatMap fun v => toLE (elemBytes ty.fmt) (encodeF sp v), [], vals.foldl (fun f v => f ||| roundFlags sp v) 0,
          (vals.filter (saturatesF sp)).length)
    let (a, b) := ty.rowSpans tok
    let d ← d.putTensor e ky a.1 es
    let d ← if sc.isEmpty then pure d else d.putTensor e ky b.1 sc
    let nf := if nonfinite then 0 else (vals.filter Flt.nonfinite).length
    pure ({ s with dev := (d.noteSaturated e sat).addNwatch e.lot 7 nf }.raiseFlags e core (f ||| g))) s

/-- The work of a SHUTTLE_DISPATCH on a record: a gather and a combine act once the dispatch is made, on a core that runs the launch. -/
def shuttleWork (i : Nat) (work : ShuttleWork) (e : Entry) (s : State) : Res State := do
  let here (core : Nat) : Bool := match s.kernelOf core with | some k => k.id = e.id | none => false
  match work, e.shuttle i, s.dev.dispatched e i with
  | .select, _, _ => return { s with dev := ← shuttleBody i e s.dev }
  | .gather expert slot first rows core store scales, some r, some x =>
    if here core then shuttleGather r x expert slot first rows core store scales e s else pure s
  | .combine core token tokens x out y, some r, some z =>
    if here core then shuttleCombine r z core token tokens x out y e s else pure s
  | _, _, _ => pure s

/-- SHUTTLE_DISPATCH. -/
def execShuttleDispatch (stream : StreamId) (task : ShuttleTask) (s : State) : Out :=
  match s.dev.launchOf stream with
  | none => .next s
  | some e =>
    if !s.dev.running || e.decl.records.length ≤ task.record then .next s
    else
      match shuttleWork task.record task.work e s with
      | .ok s => .next { s with dev := s.dev.modEntry e.id fun e => { e with wait := .nothing } }
      | .error (.fail st d) => .next ({ s with dev := d }.failLaunch e.id st)
      | .error (.wait w d) => .next { s with dev := d.modEntry e.id fun e => { e with wait := w } }

end Sys2Proof.Machine
end

