-- ==== Sys2Proof/Machine/Transcend.lean ====
section
/-!
DEFINITION. The transcendental functions (R81, R104). The manual fixes one algorithm and its bound, 2 ulp of FP32, and not its
bits: each result is a free choice among the FP32 patterns within that bound of the exact value. The exact value is computed
here in fixed point with 2^-512 as its unit, far below the smallest FP32 subnormal 2^-149. Assumption 4, DESIGN CHOICE.
-/
namespace Sys2Proof.Machine

/-- A fixed-point number: an integer times 2^-512. -/
abbrev Fix := Int

/-- 1. -/
def Fix.one : Fix := 2 ^ 512

/-- The product. -/
def Fix.mul (a b : Fix) : Fix := a * b / 2 ^ 512

/-- The quotient. -/
def Fix.div (a b : Fix) : Fix := a * 2 ^ 512 / b

/-- A decimal fraction a/b. -/
def Fix.ratio (a b : Int) : Fix := a * 2 ^ 512 / b

/-- The square root of a number that is not negative. -/
def Fix.sqrt (a : Fix) : Fix := (isqrt (a.toNat * 2 ^ 512) : Int)

/-- A finite value. -/
def Flt.fix : Flt → Fix
  | .fin n m e => let v := signedMant n m; if e + 512 ≥ 0 then v * 2 ^ (e + 512).toNat else v / 2 ^ (-(e + 512)).toNat
  | _ => 0

/-- Σ over n terms of a series, each term made from the one before it: `next k term` is term k + 1. -/
def Fix.series (next : Nat → Fix → Fix) : Nat → Nat → Fix → Fix
  | 0, _, _ => 0
  | n + 1, k, term => term + Fix.series next n (k + 1) (next k term)

/-- Squares a number n times over. -/
def Fix.squares : Nat → Fix → Fix
  | 0, a => a
  | n + 1, a => Fix.squares n (Fix.mul a a)

/-- Bounds a number to ±b. -/
def Fix.clamp (b : Int) (a : Fix) : Fix := max (-(b * Fix.one)) (min (b * Fix.one) a)

/-- exp x, with x bounded to ±200: beyond, the result lies far outside the FP32 range. -/
def Fix.exp (x : Fix) : Fix :=
  let y := Fix.clamp 200 x / 2 ^ 16
  Fix.squares 16 (Fix.series (fun k t => Fix.mul t y / (k + 1 : Nat)) 60 0 Fix.one)

/-- 2·artanh r for |r| ≤ 1/3. -/
def Fix.artanh2 (r : Fix) : Fix :=
  let q := Fix.mul r r
  let p := (List.range 170).foldl (fun (a : Fix × Fix) k => (a.1 + a.2 / (2 * k + 1 : Nat), Fix.mul a.2 q)) ((0 : Fix), r)
  2 * p.1

/-- The natural logarithm of a positive value mant·2^exp. -/
def Fix.log (mant : Nat) (exp : Int) : Fix :=
  let l := Nat.log2 mant
  let t : Fix := (mant : Int) * 2 ^ 512 / 2 ^ l
  (exp + l) * Fix.artanh2 (Fix.ratio 1 3) + Fix.artanh2 (Fix.div (t - Fix.one) (t + Fix.one))

/-- arctan (1/n). -/
def Fix.arctanInv (n : Int) : Fix :=
  ((List.range 200).foldl (fun (a : Fix × Fix) k =>
    (a.1 + (if k % 2 = 0 then a.2 else -a.2) / (2 * k + 1 : Nat), a.2 / (n * n))) ((0 : Fix), Fix.one / n)).1

/-- π, by Machin's formula. -/
def Fix.pi : Fix := 16 * Fix.arctanInv 5 - 4 * Fix.arctanInv 239

/-- The logistic function σ. -/
def Fix.sigma (x : Fix) : Fix := Fix.div Fix.one (Fix.one + Fix.exp (-x))

/-- tanh. -/
def Fix.tanh (x : Fix) : Fix := let e := Fix.exp (2 * x); Fix.div (e - Fix.one) (e + Fix.one)

/-- The standard normal density φ. -/
def Fix.phi (x : Fix) : Fix := Fix.div (Fix.exp (-(Fix.mul x x / 2))) (Fix.sqrt (2 * Fix.pi))

/-- The standard normal distribution function Φ, which is 0 or 1 to within 2^-280 beyond ±20. -/
def Fix.normal (x : Fix) : Fix :=
  if x > 20 * Fix.one then Fix.one
  else if x < -(20 * Fix.one) then 0
  else
    let q := Fix.mul x x
    Fix.one / 2 + Fix.mul (Fix.phi x) (Fix.series (fun k t => Fix.mul t q / (2 * k + 3 : Nat)) 1000 0 x)

/-- erf. -/
def Fix.erf (x : Fix) : Fix := 2 * Fix.normal (Fix.mul x (Fix.sqrt (2 * Fix.one))) - Fix.one

/-- u of R104. -/
def Fix.geluArg (z : Fix) : Fix :=
  Fix.mul (Fix.sqrt (Fix.div (2 * Fix.one) Fix.pi)) (z + Fix.mul (Fix.ratio 44715 1000000) (Fix.mul z (Fix.mul z z)))

/-- Φ(z) + z·φ(z) (R104). -/
def Fix.geluErfSlope (z : Fix) : Fix := Fix.normal z + Fix.mul z (Fix.phi z)

/-- 0.5·(1 + tanh u) + 0.5·z·(1 − tanh² u)·√(2/π)·(1 + 0.134145·z²) (R104). -/
def Fix.geluTanhSlope (z : Fix) : Fix :=
  let t := Fix.tanh (Fix.geluArg z)
  let s := Fix.sqrt (Fix.div (2 * Fix.one) Fix.pi)
  (Fix.one + t) / 2
    + Fix.mul (Fix.mul z (Fix.one - Fix.mul t t)) (Fix.mul s (Fix.one + Fix.mul (Fix.ratio 134145 1000000) (Fix.mul z z))) / 2

/-- A function that has reached its limits `lo` and `hi`, to far below an FP32 ulp, beyond ±b. -/
def Fix.within (b : Int) (lo hi z : Fix) (f : Fix → Fix) : Fix :=
  if z > b * Fix.one then hi else if z < -(b * Fix.one) then lo else f z

/-! ### Results within 2 ulp -/

/-- The FP32 pattern of place k in the order of the numbers: 0 is +0, −1 is −0, and so on to the infinities. -/
def f32AtPlace (k : Int) : Nat := if k ≥ 0 then k.toNat else 0x80000000 + (-k - 1).toNat

/-- The value of an FP32 pattern as a fixed-point number; an infinity stands at 2^128. -/
def f32Fix (p : Nat) : Fix :=
  match decodeF fp32 p with
  | .inf n => if n then -(2 ^ 640) else 2 ^ 640
  | v => v.fix

/-- Two FP32 ulps at an exact value. -/
def twoUlps (v : Fix) : Fix := 2 * 2 ^ (max (Nat.log2 v.natAbs) 386 - 23)

/-- The FP32 patterns within 2 ulp of an exact value; what lies beyond the FP32 range is an infinity also (R81). -/
def f32Near (v : Fix) : List Nat :=
  let c := encodeF fp32 (ofSigned v (-512))
  let k : Int := if c ≥ 0x80000000 then -((c : Int) - 0x80000000) - 1 else c
  let ps := ([-3, -2, -1, 0, 1, 2, 3].map fun d => k + d).filter fun j => -0x7F800001 ≤ j && j ≤ 0x7F800000
  (ps.map f32AtPlace).filter fun p => p = c || (f32Fix p - v).natAbs ≤ (twoUlps v).natAbs

/-- A free choice among the results that R81 allows: `free` is the free value. -/
def f32Choose (v : Fix) (free : Nat) : Nat :=
  let ps := f32Near v
  ps.getD (free % ps.length) (encodeF fp32 (ofSigned v (-512)))

/-! ### The functions (R81, R104) -/

/-- Codes of the transcendental functions, as `Config.transcendental` takes them. -/
def Trans.code : Trans → Nat
  | .exp => 0 | .log => 1 | .tanh => 2 | .sigmoid => 3 | .erf => 4 | .gelu => 5 | .silu => 6 | .rsqrt => 7 | .geluTanh => 8

/-- The exact value of a transcendental function at a finite argument; `none` where the function has none: the logarithm and the
reciprocal square root at zero and below. -/
def Trans.exact (f : Trans) (v : Flt) : Option Fix :=
  let z := v.fix
  match f with
  | .exp => some (Fix.exp z)
  | .log => match v with | .fin false m e => if m = 0 then none else some (Fix.log m e) | _ => none
  | .tanh => some (Fix.tanh z)
  | .sigmoid => some (Fix.sigma z)
  | .erf => some (Fix.erf z)
  | .gelu => some (Fix.mul z (Fix.normal z))
  | .geluTanh => some (Fix.within 20 0 z z fun z => Fix.mul z (Fix.one + Fix.tanh (Fix.geluArg z)) / 2)
  | .silu => some (Fix.within 200 0 z z fun z => Fix.mul z (Fix.sigma z))
  | .rsqrt => match v with | .fin false m _ => if m = 0 then none else some (Fix.div Fix.one (Fix.sqrt z)) | _ => none

/-- The limit of a transcendental function at an infinity; `none` where it has none. -/
def Trans.limit (f : Trans) (neg : Bool) : Option Nat :=
  match f with
  | .exp => some (if neg then 0 else 0x7F800000)
  | .log => if neg then none else some 0x7F800000
  | .tanh | .erf => some (if neg then 0xBF800000 else one32)
  | .sigmoid => some (if neg then 0 else one32)
  | .gelu | .geluTanh | .silu => some (if neg then 0 else 0x7F800000)
  | .rsqrt => if neg then none else some 0

/-- A transcendental function of an FP32 pattern (R81): the canonical NaN for a NaN, the limit at an infinity, and otherwise a result
within 2 ulp of the exact value. Where the function has no value, R81 states no result, and it is free. -/
def transFp32 (f : Trans) (x : Nat) : Nat :=
  let free := Config.transcendental f.code x
  match decodeF fp32 x with
  | .nan => 0x7FC00000
  | .inf neg => (f.limit neg).getD (free % 2 ^ 32)
  | v => match f.exact v with
    | some y => f32Choose y free
    | none => free % 2 ^ 32

/-- Codes of the drain functions that are not elementary. -/
def DrainFn.code : DrainFn → Nat
  | .sigmoid => 0 | .tanh => 1 | .geluErf => 2 | .geluTanh => 3 | .silu => 4 | _ => 5

/-- f(z) in FP32 (R104): elementary functions by their formula, the others within 2 ulp (R103). -/
def DrainFn.eval (f : DrainFn) (z : Nat) : Nat :=
  let x := decodeF fp32 z
  let inf := 0x7F800000
  match x with
  | .nan => 0x7FC00000
  | .inf neg =>
    match f with
    | .identity => z
    | .leaky a => if neg then (if fIsZero fp32 a then 0 else 0xFF800000) else inf
    | .relu | .sqRelu | .geluErf | .geluTanh | .silu => if neg then 0 else inf
    | .sigmoid => if neg then 0 else one32
    | .tanh => if neg then 0xBF800000 else one32
  | .fin neg m _ =>
    let pos := !neg && m ≠ 0
    let near (k : Trans) : Nat := f32Choose ((k.exact x).getD 0) (Config.drainFunction f.code z)
    match f with
    | .identity => z
    | .relu => if pos then z else 0
    | .leaky a => if pos then z else fMul fp32 a z
    | .sqRelu => if pos then fMul fp32 z z else 0
    | .sigmoid => near .sigmoid
    | .tanh => near .tanh
    | .geluErf => near .gelu
    | .geluTanh => near .geluTanh
    | .silu => near .silu

/-- f′(z) in FP32 (R104), within 2 ulp where it is not elementary (R103). -/
def DrainFn.deriv (f : DrainFn) (z : Nat) : Nat :=
  let x := decodeF fp32 z
  match x with
  | .nan => 0x7FC00000
  | .inf neg =>
    match f with
    | .identity => one32
    | .leaky a => if neg then a else one32
    | .sqRelu => if neg then 0 else 0x7F800000
    | .sigmoid | .tanh => 0
    | _ => if neg then 0 else one32
  | .fin neg m _ =>
    let pos := !neg && m ≠ 0
    let near (y : Fix) : Nat := f32Choose y (Config.drainDerivative f.code z)
    let y := x.fix
    match f with
    | .identity => one32
    | .relu => if pos then one32 else 0
    | .leaky a => if pos then one32 else a
    | .sqRelu => if pos then fMul fp32 0x40000000 z else 0
    | .sigmoid => near (Fix.mul (Fix.sigma y) (Fix.sigma (-y)))
    | .tanh => near (Fix.one - Fix.mul (Fix.tanh y) (Fix.tanh y))
    | .geluErf => near (Fix.within 20 0 Fix.one y Fix.geluErfSlope)
    | .geluTanh => near (Fix.within 20 0 Fix.one y Fix.geluTanhSlope)
    | .silu => near (Fix.within 200 0 Fix.one y fun y =>
        Fix.mul (Fix.sigma y) (Fix.one + Fix.mul y (Fix.sigma (-y))))

/-- Whether a drain function is exactly zero at a finite argument (R104), for TINY (R135). -/
def DrainFn.zeroAt (f : DrainFn) (z : Nat) : Bool :=
  match f with
  | .sigmoid => false
  | .relu | .sqRelu => (decodeF fp32 z).isZero || (decodeF fp32 z).sign
  | .leaky a => fIsZero fp32 z || ((decodeF fp32 z).sign && fIsZero fp32 a)
  | _ => fIsZero fp32 z

end Sys2Proof.Machine
end

