-- ==== Sys2Proof/Machine/Matrix.lean ====
section
/-!
DEFINITION. MATRIX_TILE: one output tile of the matrix array, from the reed's operands through the accumulator to the drain,
with the heddle tap's capture (R73, R75 to R79, R95, R100, R103 to R109, R146 to R148).
-/
namespace Sys2Proof.Machine

/-- Formats of array operands (R76, R77). -/
def arrayFmt (f : Format) : Bool := [Format.fp64, .fp32, .fp16, .bf16, .e4m3, .e5m2, .mx8, .mx6, .mx4].contains f

/-- Formats that a drain writes (R79, R103). -/
def drainFmt (f : Format) : Bool := arrayFmt f

/-- Whether a tile has one of the forms of R95, R76, R103 and R104. -/
def Tile.wf (t : Tile) : Bool :=
  1 ≤ t.rows && t.rows ≤ 128 && 1 ≤ t.cols && t.cols ≤ 128 && 1 ≤ t.depth && t.depth < 2 ^ 32
    && arrayFmt t.a.fmt && arrayFmt t.b.fmt && drainFmt t.out.fmt
    && (t.a.fmt = t.b.fmt || (t.a.fmt.isMx && t.b.fmt.isMx))
    && [16, 32].contains t.a.block && [16, 32].contains t.b.block && [16, 32].contains t.outBlock
    && (!t.out.fmt.isMx || (t.cols % t.outBlock = 0 && t.out.stride % t.outBlock = 0))
    && (t.out.fmt ≠ .fp64 || t.a.fmt = .fp64)
    && t.drain.bias.all (fun x => x.fmt = .fp32 || x.fmt = .bf16)
    && t.drain.residual.all (fun x => x.fmt = .fp32 || x.fmt = .bf16)
    && t.drain.z.all (fun x => x.fmt = .fp32 || x.fmt = .bf16)
    && (!t.drain.backward || (t.drain.fn.isSome && t.drain.z.isSome))
    && (match t.drain.fn with | some (.leaky a) => f32unit a | _ => true)

/-- G of R76. A product of 32-element blocks with 16-element blocks takes 16, the group in which both scales apply (assumption 134, DEDUCED). -/
def groupSize (a b : OperandView) : Nat :=
  if a.fmt.isMx || b.fmt.isMx then (if a.block = 16 || b.block = 16 then 16 else 32)
  else if a.fmt = .fp32 then 1
  else 16

/-- The address of stored element i of a plane, and the bytes that hold it. -/
def planeAddr (base bits i : Nat) : Nat × Nat := (base + bits * i / 8, (bits * i % 8 + bits + 7) / 8)

/-- What the reed delivers for one position: a stored pattern, or a position that is not stored or inactive, which counts as +0
(R106 to R109); or an invalid metadata nibble. -/
inductive Fed where
  | value (bits : Nat)
  | absent
  | badMeta
  deriving DecidableEq, Repr

/-- The pattern of stored element i (R72). -/
def OperandView.stored (v : OperandView) (g : Engines) (core i : Nat) : Nat :=
  let (a, n) := planeAddr v.base v.fmt.bits i
  leNat (g.read core a n) / 2 ^ (v.fmt.bits * i % 8) % 2 ^ v.fmt.bits

/-- Whether element i of an operand lies in a block that the bitmap marks inactive (R108). -/
def OperandView.inactive (v : OperandView) (g : Engines) (core i : Nat) : Bool :=
  match v.bitmap with
  | none => false
  | some bm =>
    let row := i / v.rowLength
    let col := i % v.rowLength
    let rowBytes := ceilDiv (v.rowLength / 32) 64 * 8
    !(leNat (g.read core (bm + row / 32 * rowBytes + col / 32 / 8) 1)).testBit (col / 32 % 8)

/-- The metadata nibble of the group of element i (R105). -/
def OperandView.nibble (m : Nat) (g : Engines) (core i : Nat) : Nat :=
  leNat (g.read core (m + i / 4 / 2) 1) / 2 ^ (4 * (i / 4 % 2)) % 16

/-- The linear index of the element at (lane, k). -/
def OperandView.index (v : OperandView) (lane k : Nat) : Nat := lane * v.laneStride + k * v.kStride

/-- The element that the reed delivers at (lane, k) (R100, R105, R107, R108). -/
def OperandView.fed (v : OperandView) (g : Engines) (core lane k : Nat) : Fed :=
  let i := v.index lane k
  if v.inactive g core i then .absent
  else
    match v.meta24 with
    | none => .value (v.stored g core i)
    | some m =>
      let nib := OperandView.nibble m g core i
      if !nibbleOk nib then .badMeta
      else if i % 4 = nib % 4 then .value (v.stored g core (2 * (i / 4)))
      else if i % 4 = nib / 4 then .value (v.stored g core (2 * (i / 4) + 1))
      else .absent

/-- The pattern of a fed position: +0 where nothing is stored. -/
def Fed.bits : Fed → Nat
  | .value v => v
  | _ => 0

/-- The pattern of a position that is stored. -/
def Fed.kept : Fed → Option Nat
  | .value v => some v
  | _ => none

/-! ### The reed (R98, R100, R107, R109) -/

/-- K_r: the K steps that the 1,024 bytes of a row or column of a bank hold (R98). -/
def Format.kRange : Format → Nat
  | .mx4 => 2048
  | .bf16 | .fp16 => 512
  | .fp32 => 256
  | .fp64 => 128
  | _ => 1024

/-- The K-range of a half that holds both operands of a tile: for formats of different containers the smaller (assumption 135, DEDUCED). -/
def Tile.kRange (t : Tile) : Nat := min t.a.fmt.kRange t.b.fmt.kRange

/-- Fills a bank with K steps k0 to k0 + n − 1 (R98, R100): transposed or not, the elements land by lane. A 2:4 column operand delivered
untransposed keeps its compressed values and metadata; every other is expanded (R107). An inactive block holds +0 under the scale 1. -/
def OperandView.fill (v : OperandView) (g : Engines) (core lanes k0 n : Nat) (compressed : Bool) : ReedBank :=
  let fed := (List.range lanes).map fun l => (List.range n).map fun k => v.fed g core l (k0 + k)
  { fmt := v.fmt
    lanes := fed.map fun r => if compressed then r.filterMap Fed.kept else r.map Fed.bits
    meta24 := match compressed, v.meta24 with
      | true, some m => (List.range lanes).map fun l =>
          (List.range (ceilDiv n 4)).map fun q => OperandView.nibble m g core (v.index l (k0 + 4 * q))
      | _, _ => []
    scales := if v.fmt.isMx then
        (List.range lanes).map fun l => (List.range (ceilDiv n v.block)).map fun b =>
          let i := v.index l (k0 + b * v.block)
          if v.inactive g core i then 127 else leNat (g.read core (v.scales + i / v.block) 1)
      else [] }

/-- The pattern that a bank delivers at (lane, k), k counted from the start of its half. -/
def ReedBank.pattern (b : ReedBank) (lane k : Nat) : Nat :=
  let row := b.lanes.getD lane []
  match b.meta24[lane]? with
  | none => row.getD k 0
  | some nibs =>
    let nib := nibs.getD (k / 4) 0
    if k % 4 = nib % 4 then row.getD (2 * (k / 4)) 0
    else if k % 4 = nib / 4 then row.getD (2 * (k / 4) + 1) 0
    else 0

/-- The value that a bank delivers at (lane, k), with its block scale (R73). -/
def ReedBank.deliver (b : ReedBank) (block lane k : Nat) : Flt :=
  let raw := b.pattern lane k
  match b.fmt.mxElem with
  | some sp => mxDecode sp ((b.scales.getD lane []).getD (k / block) 127) raw
  | none => decodeF ((b.fmt.spec).getD fp32) raw

/-- Whether the B operand stays compressed in the reed (R107). -/
def Tile.compressed (t : Tile) : Bool := t.b.meta24.isSome && t.b.bitmap.isNone && t.b.kStride = 1

/-- The halves that feed a tile, in turn, with the K steps of each (R98, R99). -/
def Tile.halves (t : Tile) (g : Engines) (core : Nat) : List (ReedHalf × Nat) :=
  let kr := t.kRange
  (List.range (ceilDiv t.depth kr)).map fun p =>
    let n := min kr (t.depth - p * kr)
    ({ a := t.a.fill g core t.rows (p * kr) n false, b := t.b.fill g core t.cols (p * kr) n t.compressed }, n)

/-- The largest count of active K-blocks among the four column groups of a pass (R109). -/
def Tile.passCount (t : Tile) (g : Engines) (core p n : Nat) : Nat :=
  (((List.range 4).filter fun q => 32 * q < t.cols).map fun q =>
    ((List.range (ceilDiv n 32)).filter fun b => !t.b.inactive g core (t.b.index (32 * q) (p * t.kRange + 32 * b))).length).foldl max 0

/-- Whether a pass is skipped without a fill: block mode, and no active block in any group (R109). -/
def Tile.skips (t : Tile) (g : Engines) (core p n : Nat) : Bool := t.b.bitmap.isSome && t.passCount g core p n = 0

/-- The reed after a tile: each pass that is not skipped fills the half that the one before it did not (R99). A half always counts as
filled again, also where it could stay in place. Assumption 135, DEDUCED. -/
def Core.fillReed (c : Core) (halves : List ReedHalf) : Core :=
  halves.foldl (fun c h => let n := 1 - c.half; { c with reed := c.reed.set n h, half := n }) c

/-- Consecutive groups of n of a list, with fuel. -/
def chunks {α : Type} (n : Nat) : Nat → List α → List (List α)
  | 0, _ => []
  | fuel + 1, xs => match xs with
    | [] => []
    | xs => xs.take n :: chunks n fuel (xs.drop n)

/-- The accumulator after all products of one output element (R76): exact group sums, one rounding each. -/
def accumulate (g : Nat) (ps : List (Flt × Flt)) : Nat :=
  (chunks g ps.length ps).foldl (fun acc grp =>
    let sum := grp.foldl (fun s p => s.add (p.1.mul p.2)) Flt.zero
    encodeF acc48 ((decodeF acc48 acc).add sum)) 0

/-- The FP64 accumulator (R77): one fused multiply-add per product. -/
def accumulate64 (ps : List (Flt × Flt)) : Nat :=
  ps.foldl (fun acc p => encodeF fp64 ((p.1.mul p.2).add (decodeF fp64 acc))) 0

/-! ### The drain (R103, R104) -/

/-- The address of element (i, j) of a drain operand, and its bytes. -/
def DrainOperand.at' (x : DrainOperand) (i j : Nat) : Nat × Nat := planeAddr x.base x.fmt.bits (i * x.stride + j)

/-- The FP32 value of element (i, j) of a drain operand, widened exactly. -/
def DrainOperand.get (x : DrainOperand) (g : Engines) (core i j : Nat) : Nat :=
  let (a, n) := x.at' i j
  encodeF fp32 (decodeF ((x.fmt.spec).getD fp32) (leNat (g.read core a n)))

/-- The flags of f(z), or of f′(z), as the drain evaluates it (R135). -/
def DrainFn.flags (f : DrainFn) (forward : Bool) (z : Nat) : Nat :=
  let x := decodeF fp32 z
  let r := if forward then f.eval z else f.deriv z
  let y := decodeF fp32 r
  let tiny := fp32.low r && (!y.isZero || (forward && !f.zeroAt z && !x.nonfinite))
  operandFlags [x] ||| flagIf (y.isInf && !x.nonfinite) fOverflow ||| flagIf tiny fTiny ||| flagIf (y.isNan && !x.isNan) fInvalid

/-- Stages 1 to 5 of the drain for element (i, j), in FP32: the value, z, and the flags (R103, R135). -/
def Drain.run (dr : Drain) (g : Engines) (core i j : Nat) (acc : Flt) : Nat × Nat × Nat :=
  let v1 := encodeF fp32 acc
  let f1 := resultFlags fp32 acc [acc]
  let op (exact : Flt) (ops : List Flt) (p : Nat × Nat) : Nat × Nat := (encodeF fp32 exact, p.2 ||| resultFlags fp32 exact ops)
  let s2 := match dr.alpha with
    | none => (v1, f1)
    | some a =>
      let x := decodeF fp32 a
      let y := decodeF fp32 v1
      op (x.mul y) [x, y] (v1, f1)
  let s3 := match dr.bias with
    | none => s2
    | some b =>
      let x := decodeF fp32 s2.1
      let y := decodeF fp32 (b.get g core 0 j)
      op (x.add y) [x, y] s2
  let s4 := match dr.residual with
    | none => s3
    | some r =>
      let x := decodeF fp32 s3.1
      let y := decodeF fp32 (r.get g core i j)
      op (x.add y) [x, y] s3
  match dr.fn with
  | none => (s4.1, s4.1, s4.2)
  | some f =>
    if dr.backward then
      let z := match dr.z with | some z => z.get g core i j | none => 0
      let x := decodeF fp32 s4.1
      let y := decodeF fp32 (f.deriv z)
      let r := op (x.mul y) [x, y] s4
      (r.1, s4.1, r.2 ||| f.flags false z)
    else (f.eval s4.1, s4.1, s4.2 ||| f.flags true s4.1)

/-- Whether the drain has no stage from 2 to 5 enabled. -/
def Drain.plain (dr : Drain) : Bool :=
  dr.alpha.isNone && dr.bias.isNone && dr.residual.isNone && dr.fn.isNone && dr.z.isNone

/-- Whether every byte that a tile reads or writes lies in the local store (R130). -/
def Tile.inside (t : Tile) : Bool :=
  let view (v : OperandView) (lanes : Nat) : Bool :=
    let last := (lanes - 1) * v.laneStride + (t.depth - 1) * v.kStride
    let storedLast := if v.meta24.isSome then last / 4 * 2 + 1 else last
    let (a, n) := planeAddr v.base v.fmt.bits storedLast
    spanOk a n && (!v.fmt.isMx || spanOk (v.scales + last / v.block) 1)
      && v.meta24.all (fun m => spanOk (m + last / 8) 1)
      && v.bitmap.all (fun b => 0 < v.rowLength && spanOk (b + (last / v.rowLength / 32 + 1) * (ceilDiv (v.rowLength / 32) 64 * 8)) 0)
  let dop (x : DrainOperand) (rows : Nat) : Bool :=
    let (a, n) := x.at' (rows - 1) (t.cols - 1)
    spanOk a n
  view t.a t.rows && view t.b t.cols && dop t.out t.rows && t.drain.bias.all (fun x => dop x 1)
    && t.drain.residual.all (fun x => dop x t.rows) && t.drain.z.all (fun x => dop x t.rows)
    && (!t.out.fmt.isMx || spanOk (t.outScales + ((t.rows - 1) * t.out.stride + t.cols - 1) / t.outBlock) 1)

/-- Writes row i of a tile's output (R79, R83, R84, R103): its flags, its saturations and its non-finite results. -/
def Tile.writeRow (t : Tile) (core i : Nat) (vals : List Flt) (s : State) : State × Nat × Nat × Nat :=
  match t.out.fmt.mxElem with
  | some _ =>
    let (elems, scales, flags) := mxPackValues t.out.fmt t.outBlock vals
    let s := s.storeWrite core (t.out.at' i 0).1 elems
    let s := s.storeWrite core (t.outScales + i * t.out.stride / t.outBlock) scales
    (s, flags, 0, (vals.filter Flt.nonfinite).length)
  | none =>
    let sp := (t.out.fmt.spec).getD fp32
    let bits := vals.map (encodeF sp)
    let flags := vals.foldl (fun f v => f ||| roundFlags sp v) 0
    (s.storeWrite core (t.out.at' i 0).1 (bits.flatMap fun b => toLE (elemBytes t.out.fmt) b), flags,
      (vals.filter (saturatesF sp)).length, (bits.filter (fNonfinite sp)).length)

/-- The value of an operand as the reed delivers it at (lane, k) (R100, R147). -/
def OperandView.value (v : OperandView) (g : Engines) (core lane k : Nat) : Flt := (v.fill g core (lane + 1) k 1 false).deliver v.block lane 0

/-- The logical index of the stream row at a K step of a tap (R146): of a dense weight the row's; of an expert weight the token of the list
entry, and none for a padding row. -/
def Tap.logical (tap : Tap) (c : LaunchTap) (e : Entry) (d : Device) (k : Nat) : Option Nat :=
  if !c.expert then some (c.origin + tap.first + k)
  else
    match e.shuttle tap.record, d.dispatched e tap.record with
    | some r, some x => (listRow r x.bytes tap.expert (tap.first + k)).bind id
    | _, _ => none

/-- Captures the sampled rows of a tile for one context: kinds A and A_DIAG from the row operand, G and G_DIAG from the column operand, and the
other way round for a weight stored with DIM[0] along n_in (R145 to R148). -/
def Tile.captureRows (t : Tile) (core : Nat) (tap : Tap) (c : LaunchTap) (e : Entry) (s : State) : State :=
  let fromRow := (c.kind % 2 = 0) != e.decl.swapped
  let v := if fromRow then t.a else t.b
  let lanes := if fromRow then t.rows else t.cols
  let rows := (List.range t.depth).filterMap fun k =>
    match tap.logical c e s.dev k with
    | some i => if c.samples i then some (k, i) else none
    | none => none
  let new := rows.map fun r =>
    ({ entry := e.id, factor := c.key, row := r.2, origin := tap.origin
       values := (List.range lanes).map fun l => encodeF fp32 (v.value s.eng core l r.1) } : PanelRow)
  let d := s.dev.countCore core 0x006 e.lot rows.length
  { s with dev := { d with solver := { d.solver with panels := d.solver.panels ++ new } } }

/-- Captures the sampled rows of a tap into the panel, where the launch is tapped for the context (R146 to R148, R155). -/
def Tile.capture (t : Tile) (core : Nat) (tap : Tap) (e : Entry) (s : State) : State :=
  match e.taps.find? fun c => c.key = tensorKeyOf e.lot (tap.factor % 2 ^ 24) * 2 ^ 16 + tap.expert with
  | none => s
  | some c => t.captureRows core tap c e s

/-- MATRIX_TILE: the reed's halves in turn, the accumulator bank that the drain of the tile before does not hold, and the drain. -/
def matrixTileBody (core : Nat) (t : Tile) (e : Entry) (s : State) : Except Status State := do
  if !t.wf || !t.inside then throw .eParam
  if (t.a.fmt.isMx && t.a.kStride ≠ 1) || (t.b.fmt.isMx && t.b.kStride ≠ 1) then throw .eMxAxis
  if t.a.fmt = .fp64 && t.out.fmt = .fp64 && !t.drain.plain then throw .eParam
  if t.a.fmt = .fp64 && !t.taps.isEmpty then throw .eParam
  let as := (List.range t.rows).map fun i => (List.range t.depth).map fun k => t.a.fed s.eng core i k
  let bs := (List.range t.cols).map fun j => (List.range t.depth).map fun k => t.b.fed s.eng core j k
  if (as ++ bs).any fun r => r.contains .badMeta then throw .eSparseMeta
  let macs := (as.map fun a => (bs.map fun b =>
    ((a.zip b).filter fun p => p.1 ≠ .absent && p.2 ≠ .absent).length).sum).sum
  let halves := t.halves s.eng core
  let skips := halves.zipIdx.map fun h => t.skips s.eng core h.2 h.1.2
  let lane (i j : Nat) : Nat :=
    let ps := halves.flatMap fun h => (List.range h.2).map fun k => (h.1.a.deliver t.a.block i k, h.1.b.deliver t.b.block j k)
    if t.a.fmt = .fp64 then accumulate64 ps else accumulate (groupSize t.a t.b) ps
  let bank := (List.range t.rows).map fun i => (List.range t.cols).map fun j => lane i j
  let wide := t.a.fmt = .fp64
  let direct := t.drain.plain && (if wide then t.out.fmt = .fp64 else [Format.fp32, .bf16, .fp16].contains t.out.fmt)
  let rows := bank.zipIdx.map fun a => a.1.zipIdx.map fun b =>
    let x := decodeF (if wide then fp64 else acc48) b.1
    if direct then (x, 0, resultFlags ((t.out.fmt.spec).getD fp32) x [x])
    else
      let r := t.drain.run s.eng core a.2 b.2 x
      (decodeF fp32 r.1, r.2.1, r.2.2)
  let flags := rows.foldl (fun f r => r.foldl (fun f c => f ||| c.2.2) f) 0
  let zOut := if t.drain.backward then none else t.drain.z
  let s := t.taps.foldl (fun s tap => t.capture core tap e s) s
  let c := (s.eng.core core).fillReed ((halves.zip skips).filterMap fun h => if h.2 then none else some h.1.1)
  let now := if wide then 0 else 1 - c.accBank
  let accs := if wide then [bank, []] else c.accs.set now bank
  let s := { s with eng := s.eng.setCore core { c with accs := accs, accBank := now, wide := wide } }
  let (s, flags, sat, nf) := rows.zipIdx.foldl (fun (acc : State × Nat × Nat × Nat) r =>
    let s := match zOut with
      | some z => acc.1.storeWrite core (z.at' r.2 0).1 (r.1.flatMap fun c =>
          toLE (elemBytes z.fmt) (fConv fp32 ((z.fmt.spec).getD fp32) c.2.1))
      | none => acc.1
    let (s, f, sat, nf) := t.writeRow core r.2 (r.1.map fun c => c.1) s
    (s, acc.2.1 ||| f, acc.2.2.1 + sat, acc.2.2.2 + nf)) (s, flags, 0, 0)
  let s := s.raiseFlags e core flags
  let d := ((s.dev.noteSaturated e sat).addNwatch e.lot 7 nf).countCore core 0x001 e.lot macs
  pure { s with dev := (d.countCore core 0x002 e.lot 1).countCore core 0x005 e.lot (skips.filter id).length }

/-- MATRIX_TILE. A tile of no form of the rules fails its launch with E_PARAM (assumption 132, DEDUCED). -/
def execMatrixTile (core : CoreId) (tile : Tile) (s : State) : Out := .next (s.onCore core (matrixTileBody core tile))

end Sys2Proof.Machine
end

