-- ==== Sys2Proof/Machine/Update.lean ====
section
/-!
DEFINITION. The shard update: its arithmetic (R246 to R250), the sketches (R245, R248), the preconditioner in force (R247), the
norms (R163), and SHARD_UPDATE (R251, R252, R255, R257).
-/
namespace Sys2Proof.Machine

/-- FP64 1.0. -/
def one64 : Nat := 0x3FF0000000000000

/-- b^t in FP64 by the right-to-left binary method (R246). First argument: fuel for the bits of the exponent. -/
def powBinary : Nat → Nat → Nat → Nat → Nat
  | 0, _, _, r => r
  | f + 1, x, e, r =>
    if e = 0 then r
    else
      let r := if e % 2 = 1 then fMul fp64 r x else r
      let e := e / 2
      powBinary f (if e = 0 then x else fMul fp64 x x) e r

/-- 1 − b^t, rounded once to FP32 (R246). -/
def biasTerm (b t : Nat) : Nat := fConv fp64 fp32 (fSub fp64 one64 (powBinary 64 (fConv fp32 fp64 b) t one64))

/-- 1 − b. -/
def oneMinus (b : Nat) : Nat := fSub fp32 one32 b

/-- The hyperparameters of an update (R251). -/
structure Hyper where
  lr    : Nat
  b1    : Nat
  b2    : Nat
  eps   : Nat
  decay : Nat
  deriving DecidableEq, Repr

/-! ### Sketches (R245, R248) -/

/-- The bands of a LOWRANK sketch of rank k: first column and width. Assumption 60, DESIGN CHOICE. -/
def bandsOf (c k : Nat) : List (Nat × Nat) :=
  let w := ceilDiv c k
  (List.range k).map fun i => (i * w, min w (c - i * w))

/-- A number of FP32 values at an offset. -/
def f32s (b : Bytes) (off n : Nat) : List Nat := (List.range n).map fun i => rd b (off + 4 * i) 4

/-- A FACTORED sketch over R rows and a band of columns: its new accumulators. `sq`: the squares of p by row and column. -/
def bandUpdate (b2 rows width : Nat) (old : Bytes) (sq : Nat → Nat → Nat) : List Nat × List Nat :=
  let part (acc sum n : Nat) : Nat := fFma fp32 b2 acc (fDiv fp32 (fMul fp32 (oneMinus b2) sum) (fOfInt fp32 n))
  let rs := (f32s old 0 rows).zipIdx.map fun a => part a.1 (treeSum ((List.range width).map fun j => sq a.2 j)) width
  let cs := (f32s old (4 * rows) width).zipIdx.map fun a => part a.1 (treeSum ((List.range rows).map fun i => sq i a.2)) rows
  (rs, cs)

/-- The estimate of a FACTORED sketch (R248). -/
def bandEstimate (rs cs : List Nat) (i j : Nat) : Nat :=
  let mean := fDiv fp32 (treeSum rs) (fOfInt fp32 rs.length)
  if fIsZero fp32 mean then 0 else fDiv fp32 (fMul fp32 (rs.getD i 0) (cs.getD j 0)) mean

/-- The bands of a sketch in storage order: new accumulators, with the first column and width of each. -/
def bandStates (b2 rows : Nat) (sq : Nat → Nat → Nat) : List (Nat × Nat) → Bytes → List (Nat × Nat × List Nat × List Nat)
  | [], _ => []
  | (lo, w) :: t, old =>
    let s := bandUpdate b2 rows w old fun i j => sq i (lo + j)
    (lo, w, s.1, s.2) :: bandStates b2 rows sq t (old.drop (4 * (rows + w)))

/-- A FACTORED or LOWRANK sketch: its new bytes and the estimates in linear order. -/
def factoredStep (b2 rows cols k : Nat) (old : Bytes) (p : List Nat) : Bytes × List Nat :=
  let sq (i j : Nat) : Nat := let v := p.getD (i * cols + j) 0; fMul fp32 v v
  let bs := bandStates b2 rows sq (bandsOf cols k) old
  let est (i j : Nat) : Nat :=
    match bs.find? fun b => b.1 ≤ j && j < b.1 + b.2.1 with
    | some b => bandEstimate b.2.2.1 b.2.2.2 i (j - b.1)
    | none => 0
  (bs.flatMap fun b => (b.2.2.1 ++ b.2.2.2).flatMap (toLE 4), (List.range (rows * cols)).map fun x => est (x / cols) (x % cols))

/-- A Q4 sketch: its new bytes and the new values of v in linear order. -/
def q4Step (b2 n : Nat) (old : Bytes) (p : List Nat) : Bytes × List Nat :=
  let codes := pad64 (ceilDiv n 2)
  let fifteen := fOfInt fp32 15
  let vs := p.zipIdx.map fun x =>
    let sigma := rd old (codes + 4 * (x.2 / 64)) 4
    let root := fDiv fp32 (fMul fp32 sigma (fOfInt fp32 (bitElem 4 x.2 old))) fifteen
    fFma fp32 b2 (fMul fp32 root root) (fMul fp32 (oneMinus b2) (fMul fp32 x.1 x.1))
  let roots := vs.map (fSqrt fp32)
  let scales := (List.range (ceilDiv n 64)).map fun b => ((roots.drop (64 * b)).take 64).foldl f32max 0
  let qs := roots.zipIdx.map fun x =>
    let s := scales.getD (x.2 / 64) 0
    if fIsZero fp32 s then 0
    else min 15 ((decodeF fp32 (fDiv fp32 (fMul fp32 x.1 fifteen) s)).toInt false).toNat
  (fit codes (packBits 4 qs) ++ fit (pad64 (4 * ceilDiv n 64)) (scales.flatMap (toLE 4)), vs)

/-- The sketch of one shard matrix: its new bytes and the estimates (R248). -/
def Tensor.sketchStep (t : Tensor) (b2 rows cols : Nat) (old : Bytes) (p : List Nat) : Bytes × List Nat :=
  match t.sketch % 16 with
  | 0 => factoredStep b2 rows cols 1 old p
  | 1 => q4Step b2 (rows * cols) old p
  | _ => factoredStep b2 rows cols (t.sketch / 16) old p

/-! ### The preconditioner in force (R247) -/

/-- Entry (i, j) of block b of an installed root, widened to FP32. -/
def Root.elem (x : Root) (b i j : Nat) : Nat :=
  let k := (b * x.blockN + i) * x.blockN + j
  if x.fmt = .bf16 then rd x.data (2 * k) 2 * 2 ^ 16 else rd x.data (4 * k) 4

/-- An FP32 array product over pairs of elements (R76). -/
def dot32 (ps : List (Nat × Nat)) : Nat :=
  encodeF fp32 (decodeF acc48 (accumulate 1 (ps.map fun p => (decodeF fp32 p.1, decodeF fp32 p.2))))

/-- R_A·g for a matrix of `rows` by `cols` whose first row is row `r0` of the weight. Assumption 61, DESIGN CHOICE. -/
def rootLeft (x : Root) (rows cols r0 : Nat) (g : List Nat) : List Nat :=
  (List.range (rows * cols)).map fun y =>
    let r := r0 + y / cols
    let c := y % cols
    let b := r / x.blockN
    dot32 ((List.range x.blockN).filterMap fun k =>
      let row := b * x.blockN + k
      if r0 ≤ row && row < r0 + rows then some (x.elem b (r % x.blockN) k, g.getD ((row - r0) * cols + c) 0) else none)

/-- T·R_G for a matrix of `rows` by `cols` whose first column is column `c0` of the weight. -/
def rootRight (x : Root) (rows cols c0 : Nat) (g : List Nat) : List Nat :=
  (List.range (rows * cols)).map fun y =>
    let r := y / cols
    let c := c0 + y % cols
    let b := c / x.blockN
    dot32 ((List.range x.blockN).filterMap fun k =>
      let col := b * x.blockN + k
      if c0 ≤ col && col < c0 + cols then some (g.getD (r * cols + (col - c0)) 0, x.elem b k (c % x.blockN)) else none)

/-- The first row and column, in the weight, of a shard's matrices. -/
def Tensor.shardOrigin (t : Tensor) (p shard : Nat) : Nat × Nat :=
  let j := shard % p
  let chunk := t.shardExtent / p
  (if t.shardDim = some 1 then j * chunk else 0, if t.shardDim = some 0 then j * chunk else 0)

/-- The roots in force for one shard: input side and output side. -/
def Device.rootsFor (d : Device) (key : Nat) (t : Tensor) (p shard : Nat) : Option Root × Option Root :=
  let u := if t.expert then shard / p else 0
  let rs := ((Tab.look {} d.solver.preconds key).active).filter fun r => r.expert = u
  (rs.find? fun r => r.side = 0, rs.find? fun r => r.side = 1)

/-- Whether a shard's boundaries along SHARD_DIM fall on block boundaries of the root on that side (R247). -/
def Tensor.rootAligned (t : Tensor) (p shard : Nat) (roots : Option Root × Option Root) : Bool :=
  let (r0, c0) := t.shardOrigin p shard
  let (c, r, _) := t.shardMatrix p
  let ok (x : Option Root) (lo n whole : Nat) : Bool :=
    match x with
    | some x => lo % x.blockN = 0 && (n = whole || (lo + n) % x.blockN = 0 || lo + n = whole)
    | none => true
  ok roots.1 r0 r (t.dims.getD 1 1) && ok roots.2 c0 c (t.dims.getD 0 1)

/-- p of R246 for one shard matrix. -/
def precondition (roots : Option Root × Option Root) (rows cols r0 c0 : Nat) (g : List Nat) : List Nat :=
  let t := match roots.1 with | some x => rootLeft x rows cols r0 g | none => g
  match roots.2 with | some x => rootRight x rows cols c0 t | none => t

/-! ### One shard (R246, R249, R250) -/

/-- master_add for an FP32 master (R249). -/
def addF32 (rnd : Option Nat) (w u : Nat) : Nat := encodeR fp32 rnd ((decodeF fp32 w).add (decodeF fp32 u))

/-- master_add for a BF16 master with compensation (R249): the new master and compensation. -/
def addBf16 (rnd : Option Nat) (w c u : Nat) : Nat × Nat :=
  let y := fAdd fp32 u (c * 2 ^ 16)
  let t := encodeR bf16 rnd ((decodeF bf16 w).add (decodeF fp32 y))
  (t, fConv fp32 bf16 (fAdd fp32 (fSub fp32 (w * 2 ^ 16) (t * 2 ^ 16)) y))

/-- What an update computes of one shard. -/
structure Updated where
  master : Bytes
  comp   : Bytes
  moment : Bytes
  sketch : Bytes
  bad    : Bool
  norms  : Nat × Nat × Nat
  deriving DecidableEq, Repr

/-- The sum of squares of a shard, in the tree of R140. -/
def sumsq (xs : List Nat) : Nat := treeSum (xs.map fun x => fMul fp32 x x)

/-- Matrices of a shard, one after the other: m1, the update term u, the estimate and p for every element, and the new sketch. -/
def Tensor.passes (t : Tensor) (h : Hyper) (c1 c2 rows cols r0 c0 : Nat) (roots : Option Root × Option Root)
    (g m w : List Nat) (sketch : Bytes) : Nat → List (Nat × Nat × Nat × Nat) × Bytes
  | 0 => ([], [])
  | n + 1 =>
    let size := rows * cols
    let p := precondition roots rows cols r0 c0 (g.take size)
    let (sk, est) := t.sketchStep h.b2 rows cols sketch p
    let here := (List.range size).map fun x =>
      let px := p.getD x 0
      let m1 := fFma fp32 h.b1 (m.getD x 0) (fMul fp32 (oneMinus h.b1) px)
      let vh := est.getD x 0
      let step := fDiv fp32 (fDiv fp32 m1 c1) (fAdd fp32 (fSqrt fp32 (fDiv fp32 vh c2)) h.eps)
      (m1, fMul fp32 (fNeg fp32 h.lr) (fAdd fp32 step (fMul fp32 h.decay (w.getD x 0))), vh, px)
    let rest := t.passes h c1 c2 rows cols r0 c0 roots (g.drop size) (m.drop size) (w.drop size) (sketch.drop sk.length) n
    (here ++ rest.1, sk ++ rest.2)

/-- Replaces `n` bytes of a byte string. -/
def patch (b : Bytes) (off n v : Nat) : Bytes := b.take off ++ toLE n v ++ b.drop (off + n)

/-- The update of one shard from its retained gradient (R246 to R250). The new master of a shard that is skipped is its master, which
its W_NORM takes (R163, R250; assumption 35, DEDUCED). -/
def Tensor.update (t : Tensor) (h : Hyper) (noBias : Bool) (p shard step : Nat) (roots : Option Root × Option Root)
    (s : Shard) (grad : Retained) (master : Bytes) : Updated :=
  let (cols, rows, mats) := t.shardMatrix p
  let n := t.shardCount p
  let (r0, c0) := t.shardOrigin p shard
  let runs := t.runs p shard
  let ix := List.range n
  let g := f32s grad.data 0 n
  let m := ix.map fun i => rd s.moment (2 * i) 2 * 2 ^ 16
  let slots := ix.map fun i => t.elemSlot p shard master i
  let w := slots.zipIdx.map fun x => t.masterValue master s.comp x.1 x.2
  let c1 := if noBias then one32 else biasTerm h.b1 (s.updates + 1)
  let c2 := if noBias then one32 else biasTerm h.b2 (s.updates + 1)
  let (xs, sketch) := t.passes h c1 c2 rows cols r0 c0 roots g m w s.sketch mats
  let rnd (i : Nat) : Option Nat := if t.rounding.testBit 0 then some (srBits t.key step 1 (linearOf runs i)) else none
  let put (acc : Bytes × Bytes × List Nat) (x : (Option Nat × Nat) × Nat) : Bytes × Bytes × List Nat :=
    let (mas, comp, vals) := acc
    match x.1.1 with
    | none => acc
    | some o =>
      if t.master = 1 then
        let r := addBf16 (rnd x.2) (rd mas o 2) (rd comp (2 * x.2) 2) x.1.2
        (patch mas o 2 r.1, patch comp (2 * x.2) 2 r.2, vals ++ [r.1 * 2 ^ 16])
      else
        let r := addF32 (rnd x.2) (rd mas o 4) x.1.2
        (patch mas o 4 r, comp, vals ++ [r])
  let (mas, comp, vals) := ((slots.zip (xs.map fun x => x.2.1)).zipIdx).foldl put (master, s.comp, [])
  let nf (l : List Nat) : Bool := l.any (fNonfinite fp32)
  let bad := grad.nonfinite || nf (xs.map fun x => x.2.2.2) || nf (xs.map fun x => x.2.2.1) || nf (xs.map fun x => x.2.1) || nf vals
  let kept := slots.filterMap fun o => o.map fun o => if t.master = 1 then rd master o 2 * 2 ^ 16 else rd master o 4
  { master := mas, comp := comp, moment := xs.flatMap fun x => toLE 2 (fConv fp32 bf16 x.1), sketch := sketch, bad := bad
    norms := (sumsq g, sumsq (xs.map fun x => x.2.1), sumsq (if bad then kept else vals)) }

/-- The share of the 32-bit words of a shard's master that an update changed, in units of 1/65,536 (R332). -/
def changedShare (old new : Bytes) : Nat :=
  let n := ceilDiv old.length 4
  let k := ((List.range n).filter fun i => rd old (4 * i) 4 ≠ rd new (4 * i) 4).length
  if n = 0 then 0 else k * 65536 / n

/-! ### SHARD_UPDATE -/

/-- The parameters of a SHARD_UPDATE (R251). -/
def hyperOf (e : Entry) : Option Hyper :=
  let h : Hyper := { lr := e.param 32 4, b1 := e.param 36 4, b2 := e.param 40 4, eps := e.param 44 4, decay := e.param 48 4 }
  if f32finite h.lr && f32unit h.b1 && f32unit h.b2 && f32finite h.eps && f32lt 0 h.eps && f32nonneg h.decay then some h else none

/-- One shard of a SHARD_UPDATE: its new state is staged in fresh extents (R250 to R253, R255), and the elements that it writes are noted for a
watch (R432). The old master and compensation stay, as the held previous version (R264). -/
def Device.updateShard (d : Device) (e : Entry) (h : Hyper) (key : Nat) (t : Tensor) (step shard : Nat) : Res Device := do
  let s := d.shardOf key shard
  let cur ← need (d.entry e.id) .eHandle d
  if s.step = step || cur.shards.any (fun x => x.tensor = key && x.index = shard) then pure d
  else
    match s.retained with
    | none => waitFor .gradient d
    | some g =>
      if g.step ≠ step then waitFor .gradient d
      else
        let p := d.partsOf key t
        let options := e.param 52 1
        let roots := if options.testBit 0 then d.rootsFor key t p shard else (none, none)
        check (t.rootAligned p shard roots) .eParam d
        let d ← d.readCopy (g.extents ++ s.extents)
        let (master, d) ← d.fetchMaster e.lot key shard e.op.traffic
        let u := t.update h (options.testBit 1) p shard step roots s g master
        check (!(u.bad && options.testBit 2)) .eNonfinite d
        let v := nextVersion s.version
        let flags := recordFlags u.bad false s.version v
        let held : HeldVersion :=
          { version := s.version, flags := s.flags, step := s.step, updates := s.updates, digest := s.digest, time := s.time
            master := master, comp := s.comp
            extents := d.masterExtents key shard ++ (if t.master = 1 then s.extents else []) }
        let base : Shard := { s with version := v, flags := flags, step := step, retained := none, held := some held
                                     norms := u.norms }
        let new : Shard :=
          if u.bad then { base with digest := shardDigest t master s.comp }
          else { base with
            updates := s.updates + 1, comp := u.comp, moment := u.moment, sketch := u.sketch
            digest := shardDigest t u.master u.comp
            changed := let l := s.changed ++ [changedShare master u.master]; l.drop (l.length - 16) }
        let d ← if u.bad then pure d else d.putMaster e key shard u.master
        let (xs, d) ← if u.bad then pure (s.extents, d) else d.takeCopy e new.stateBytes
        let new := { new with extents := xs }
        let st : StagedShard := { tensor := key, index := shard, shard := new, acked := !d.needsAck key t shard }
        let elems := (t.masterSpans p shard).filter fun x => x.1 < ((planesOf t.fmt t.dims t.block16 t.sparsity).getD 0 (0, 0)).2
        let ws := if u.bad then [] else elems.map fun x => (key, x.1, x.2)
        pure (d.modEntry e.id fun e => { e with shards := e.shards ++ [st], written := e.written ++ ws })

/-- SHARD_UPDATE (R251). It waits for another stream's uncommitted write of its shards before its checks (R62, R257). -/
def shardUpdateBody (e : Entry) (d : Device) : Res (Nat × Nat × Device) := do
  let h ← need (hyperOf e) .eParam d
  let (key, t) ← d.find e (e.param 16 4)
  let step := e.param 24 8
  let owned := d.ownedShards key t
  let all := e.param 20 4 = 0xFFFFFFFF
  check (t.param && t.job = (d.stream e.stream).job && (all || owned.contains (e.param 20 4))) .eParam d
  let mine := if all then owned else [e.param 20 4]
  let d ← d.claim e (d.masterRanges key t mine)
  check (mine.all fun i => (d.shardOf key i).version ≠ 0) .eShardUnwritten d
  check (mine.all fun i => let s := d.shardOf key i; s.step ≤ step && step ≤ s.step + 1) .eStepOrder d
  if d.awaitsRethread key t step then waitFor .gather d
  else
    let d ← mine.foldlM (fun d i => d.updateShard e h key t step i) d
    let done := match d.entry e.id with | some x => x.shards | none => []
    if all then pure (done.length, (match done with | [x] => x.shard.digest | _ => 0), d)
    else
      let s := match done with | x :: _ => x.shard | [] => d.shardOf key (e.param 20 4)
      pure (s.version, s.digest, d)

/-- SHARD_UPDATE. -/
def execShardUpdate (stream : StreamId) (s : State) : Out := s.onDev fun d => d.runOp stream .shardUpdate shardUpdateBody

end Sys2Proof.Machine
end

