-- ==== Sys2Proof/Machine/Gathers.lean ====
section
/-!
DEFINITION. Gathers and pins: the narrowing of working copies (R85 to R88, R258), the waits and outcomes of a gather (R259, R340),
pin buffers (R260, R261).
-/
namespace Sys2Proof.Machine

/-- One version of a shard as a gather sees it. -/
structure Version where
  version : Nat
  step    : Nat
  master  : Bytes
  comp    : Bytes
  deriving DecidableEq, Repr

/-- The stored elements of a version, in shard order: index and FP32 value fp32(w + c) (R243, R258). -/
def Tensor.values (t : Tensor) (p shard : Nat) (v : Version) : List (Nat × Nat) :=
  (List.range (t.shardCount p)).filterMap fun i =>
    (t.elemSlot p shard v.master i).map fun o => (i, t.masterValue v.master v.comp (some o) i)

/-- The planes that follow the values of a master: the metadata and bitmap planes, which a working copy keeps (R258). -/
def Tensor.tailPlanes (t : Tensor) (p : Nat) (master : Bytes) : Bytes :=
  let n := t.shardCount p
  master.drop ((if t.sparsity = 1 then n / 2 else n) * t.masterBytes)

/-- The largest master magnitude of a shard (R86), taken of fp32(w + c), the value that is narrowed (assumption 136, DEDUCED). -/
def amaxOf (vs : List (Nat × Nat)) : Nat := (vs.map fun v => encodeF fp32 (decodeF fp32 v.2).abs).foldl f32max 0

/-- The scale exponent of an unscaled working copy from the largest history entry H (R86): 8 − E, clamped; 0 for H = 0. For an H
that no power of two bounds E is free (assumption 20, DESIGN CHOICE). -/
def scaleExponent (h : Nat) : Int :=
  match decodeF fp32 h with
  | .fin _ 0 _ => 0
  | .fin _ m e => max (-127) (min 127 (8 - (e + clog2 m)))
  | _ => max (-127) (min 127 (Config.scaleExponent h))

/-- The random bits of an element under stochastic narrowing (R89, R90). -/
def Tensor.narrowBits (t : Tensor) (p shard : Nat) (v : Version) (i : Nat) : Option Nat :=
  if t.rounding.testBit 1 then some (srBits t.key v.step 2 (linearOf (t.runs p shard) i)) else none

/-- Narrows a version to MX8: element plane, scale plane, and the tail planes (R83, R258). -/
def Tensor.narrowMx (t : Tensor) (p shard : Nat) (v : Version) : Bytes :=
  let vs := t.values p shard v
  let rnd := t.narrowBits p shard v
  let blocks := (List.range (t.shardCount p / 32)).map fun b =>
    let mine := vs.filter fun x => x.1 / 32 = b
    mxEncode e4m3 (mine.map fun x => decodeF fp32 x.2) (mine.map fun x => rnd x.1)
  let es := (blocks.flatMap fun b => b.1).map (BitVec.ofNat 8)
  fit (pad64 es.length) es ++ (blocks.map fun b => BitVec.ofNat 8 b.2) ++ t.tailPlanes p v.master

/-- Narrows a version to unscaled FP8 E4M3 with a scale exponent (R84, R86). -/
def Tensor.narrowFp8 (t : Tensor) (p shard : Nat) (x : Int) (v : Version) : Bytes :=
  let vs := t.values p shard v
  let rnd := t.narrowBits p shard v
  (vs.map fun e => BitVec.ofNat 8 (encodeR e4m3 (rnd e.1) ((decodeF fp32 e.2).scale x))) ++ t.tailPlanes p v.master

/-- The working copy of a version at its first gather, multiplied by 2 to the clamped scale exponent (assumption 136, DEDUCED): scale exponent,
bits, the new history, and whether the extra pass of R88 was made. -/
def Tensor.narrow (t : Tensor) (p shard : Nat) (amax : List Nat) (v : Version) : Int × Bytes × List Nat × Bool :=
  if t.working = 7 then (0, t.narrowMx p shard v, amax, false)
  else
    let now := amaxOf (t.values p shard v)
    if amax.isEmpty then
      let x := scaleExponent now
      (x, t.narrowFp8 p shard x v, [now], true)
    else
      let x := scaleExponent (amax.foldl f32max 0)
      let l := amax ++ [now]
      (x, t.narrowFp8 p shard x v, l.drop (l.length - 16), false)

/-- The working copy widened to BF16 on arrival, with its tail planes (R85). -/
def Tensor.widen (t : Tensor) (p : Nat) (x : Int) (bits : Bytes) : Bytes :=
  let n := t.shardCount p
  let k := if t.sparsity = 1 then n / 2 else n
  let per := if t.sparsity = 1 then 16 else 32
  if t.working = 7 then
    ((List.range k).flatMap fun i => toLE 2 (encodeF bf16 (mxDecode e4m3 (rd bits (pad64 k + i / per) 1) (rd bits i 1))))
      ++ bits.drop (pad64 k + n / 32)
  else ((List.range k).flatMap fun i => toLE 2 (encodeF bf16 ((decodeF e4m3 (rd bits i 1)).scale (-x)))) ++ bits.drop k

/-- Whether rounding an exact value to a format saturates (R84), to nearest or, given random bits, stochastically (R90). -/
def saturatesR (f : FSpec) (rnd : Option Nat) : Flt → Bool
  | .fin _ m e => f.saturates && (roundMag f rnd m e).beyond
  | _ => false

/-- The elements of an unscaled working copy that saturate, and those that are not finite (R84, R90). -/
def Tensor.narrowCounts (t : Tensor) (p shard : Nat) (x : Int) (v : Version) : Nat × Nat :=
  if t.working = 7 then (0, 0)
  else
    let vs := (t.values p shard v).map fun w => (w.1, (decodeF fp32 w.2).scale x)
    let rnd := t.narrowBits p shard v
    ((vs.filter fun w => saturatesR e4m3 (rnd w.1) w.2).length, (vs.filter fun w => w.2.nonfinite).length)

/-- Serves one version of a shard: the bits kept from its first gather or from a pin, or fresh ones (R86, R87). Saturated and non-finite elements
go to the lot's counts, and the saturated ones to the share of the launch that gathers, where it runs here (R84, R432). -/
def Device.serve (d : Device) (tag : Nat) (launch : Option Nat) (key : Nat) (t : Tensor) (shard : Nat) (v : Version) : (Int × Bytes) × Device :=
  let s := d.shardOf key shard
  let kept := (s.gathered.find? fun g => g.1 = v.version).map fun g => g.2
  let pinned := (s.pins.find? fun b => b.version = v.version).map fun b => (b.scale, b.bits)
  match kept <|> pinned with
  | some r => (r, d)
  | none =>
    let (x, bits, amax, jit) := t.narrow (d.partsOf key t) shard s.amax v
    let (sat, nf) := t.narrowCounts (d.partsOf key t) shard x v
    let d := d.setShard key shard { s with amax := amax, gathered := ((v.version, x, bits) :: s.gathered).take 2 }
    let d := ((d.addNwatch tag 0 (b2n jit)).addNwatch tag 8 sat).addNwatch tag 7 nf
    ((x, bits), match launch with
      | some id => d.modEntry id fun e => { e with narrowed := e.narrowed ++ [(key, sat)] }
      | none => d)

/-- Takes the device memory of a pin buffer: for a launch of this device as staging does, for another user once it fits (R260, R61). -/
def Device.takePin (d : Device) (tag : Nat) (launch : Option Entry) (n : Nat) : Res (List Nat × Device) :=
  match launch with
  | some e => d.takeCopy e n
  | none =>
    match (if d.heldExtents tag + extentsOf n ≤ d.quotaExtents tag then d.placeCopy tag n else none) with
    | some r => .ok r
    | none => waitFor .quota d

/-- A forward gather pins the version that it was served: the first one keeps the bits, and each adds a reference for its user and step (R260). A
replayed launch holds its reference already. -/
def Device.pin (d : Device) (g : GatherRequest) (launch : Option Entry) (key version : Nat) (served : Int × Bytes) : Res Device := do
  let s := d.shardOf key g.shard
  let u := (g.user, g.step)
  let again := launch.any fun e => e.replayed
  match s.pins.find? fun b => b.version = version with
  | some _ =>
    pure (d.setShard key g.shard { s with pins := s.pins.map fun b =>
      if b.version = version && !(again && b.users.contains u) then { b with users := b.users ++ [u] } else b })
  | none =>
    let (xs, d) ← d.takePin g.lot launch served.2.length
    let s := d.shardOf key g.shard
    let b : PinBuffer := { version := version, bits := served.2, scale := served.1, users := [u], extents := xs }
    pure (d.setShard key g.shard { s with pins := s.pins ++ [b] })

/-- Whether a version that a request names lies within the window of the current one (R254). -/
def versionNear (named current : Nat) : Bool := named = current || serialLater0 32 named current

/-- The outcome of one gather at an owner: the working copy that it serves (R259 to R261, R340). -/
def gatherBody (launch : Option Entry) (g : GatherRequest) (key : Nat) (t : Tensor) (d : Device) : Res (WorkingCopy × Device) := do
  let s := d.shardOf key g.shard
  let copy (version : Nat) (c : Int × Bytes) : WorkingCopy :=
    { handle := g.handle, shard := g.shard, version := version, scale := c.1, bits := c.2 }
  let id := launch.map fun e => e.id
  check (!s.split) .eDigestSplit d
  check (s.version ≠ 0) .eShardUnwritten d
  if g.phase = 0xFF || t.job ≠ g.job || t.job = 0 then
    let (master, d) ← d.fetchMaster g.lot key g.shard 1
    let (c, d) := d.serve g.lot id key t g.shard { version := s.version, step := s.step, master := master, comp := s.comp }
    pure (copy s.version c, d)
  else if g.phase = 1 && g.regather then
    check (versionNear g.version s.version) .eStaleShard d
    let b ← need (s.pins.find? fun b => b.version = g.version) .eStaleShard d
    let d ← d.readCopy b.extents
    pure (copy b.version (b.scale, b.bits), d)
  else if d.awaitsRethread key t g.step then waitFor .gather d
  else if s.step + 1 < g.step then waitFor .gather d
  else
    check (s.step ≤ g.step) .eStaleShard d
    let (v, d) ← if s.step = g.step then (do
        let h ← need s.held .eStaleShard d
        let d ← d.readCopy h.extents
        pure (({ version := h.version, step := h.step, master := h.master, comp := h.comp } : Version), d))
      else (do
        let (master, d) ← d.fetchMaster g.lot key g.shard 1
        pure (({ version := s.version, step := s.step, master := master, comp := s.comp } : Version), d))
    let (c, d) := d.serve g.lot id key t g.shard v
    let d ← if g.phase = 0 && g.regather then d.pin g launch key v.version c else pure d
    pure (copy v.version c, d)

/-! ### The user's side (R258 to R260) -/

/-- The version that a user's forward gather of a step pinned; 0 where none did. -/
def Device.pinnedVersion (d : Device) (key shard step : Nat) : Nat :=
  match d.regathers.find? fun r => r.1 = key && r.2.1 = shard && r.2.2.1 = step with
  | some r => r.2.2.2
  | none => 0

/-- What a launch of this device asks of the owner of a shard, for a tensor slot. -/
def Device.askOf (d : Device) (e : Entry) (lot : Lot) (key : Nat) (t : Tensor) (slot shard : Nat) : GatherRequest :=
  { lot := lot, user := d.rank (d.job t.job), job := (d.stream e.stream).job, step := e.step, phase := e.phaseByte, handle := e.slotHandle slot
    shard := shard, regather := (e.decl.slot slot).regather, version := d.pinnedVersion key shard e.step }

/-- A working copy arrives for a launch: its bits widened to BF16 go to the local store of a core that runs it (R85, R258). A forward gather
that pins notes the version for the backward one (R260). -/
def State.arrive (s : State) (e : Entry) (g : GatherRequest) (key : Nat) (t : Tensor) (core a : Nat) (c : WorkingCopy) : State :=
  let d := s.dev.modEntry e.id fun e => { e with wait := .nothing }
  let d : Device := if g.phase = 0 && g.regather then
      { d with regathers := (d.regathers.filter fun r => !(r.1 = key && r.2.1 = g.shard && r.2.2.1 = g.step)) ++ [(key, g.shard, g.step, c.version)] }
    else d
  let out := t.widen (d.partsOf key t) c.scale c.bits
  let here := match s.kernelOf core with | some k => k.id = e.id | none => false
  let s := { s with dev := d }
  if here && spanOk a out.length then s.storeWrite core a out else s

/-- The status of a launch whose gather an owner refuses. -/
def GatherRefusal.status : GatherRefusal → Status
  | .unwritten => .eShardUnwritten
  | .stale => .eStaleShard
  | .split => .eDigestSplit
  | .memory => .eMemUncorrectable

/-- How an owner names the failure of a gather to its user. -/
def Status.refusal : Status → GatherRefusal
  | .eShardUnwritten => .unwritten
  | .eDigestSplit => .split
  | .eMemUncorrectable => .memory
  | _ => .stale

/-- Whether a launch gathers from a tensor slot: the slot holds a PARAMETER tensor. -/
def Device.gathersFrom (d : Device) (e : Entry) (slot : Nat) : Option (Nat × Tensor) :=
  match (if slot < e.slots then d.find e (e.slotHandle slot) else failWith .eHandle d) with
  | .ok x => if x.2.param then some x else none
  | .error _ => none

/-- Whether this device serves gathers of a shard: it owns it, or it has held it until the release notice of a RETHREAD (R328). -/
def Device.servesShard (d : Device) (key : Nat) (t : Tensor) (shard : Nat) : Bool :=
  (d.ownedShards key t).contains shard || (d.job t.job).releasing.any fun x => x.1 = key && x.2.contains shard

/-- A launch gathers a shard that this device owns. -/
def State.gatherOwn (s : State) (e : Entry) (g : GatherRequest) (key : Nat) (t : Tensor) (core a : Nat) : State :=
  if !(s.dev.ownedShards key t).contains g.shard then s
  else
    match gatherBody (some e) g key t s.dev with
    | .error (.fail st d) => { s with dev := d }.failLaunch e.id st
    | .error (.wait w d) => { s with dev := d.modEntry e.id fun e => { e with wait := w } }
    | .ok (c, d) => { s with dev := d }.arrive e g key t core a c

/-- A launch takes what another owner answers to its gather of a shard (R259, R285). A copy that does not answer it changes nothing. -/
def State.gatherRemote (s : State) (e : Entry) (g : GatherRequest) (key : Nat) (t : Tensor) (core a : Nat) (answer : GatherAnswer) : State :=
  if (s.dev.ownedShards key t).contains g.shard then s
  else
    match answer with
    | .waiting => { s with dev := s.dev.modEntry e.id fun e => { e with wait := .gather } }
    | .lost => s.failLaunch e.id .eLinkLost
    | .refused r => s.failLaunch e.id r.status
    | .copy c =>
      if c.handle ≠ g.handle || c.shard ≠ g.shard || (g.phase = 1 && g.regather && c.version ≠ g.version) then s
      else s.arrive e g key t core a c

/-- This device, an owner, serves another user of the box: the copy, or the reason why there is none, goes to it on VC2 or on a routed path
(R258, R259, R281, R292). A gather that must wait, or for which no port has a credit, is asked for again. -/
def Device.gatherServe (d : Device) (g : GatherRequest) : Device :=
  match d.lookup g.lot g.handle with
  | none => d
  | some (key, t) =>
    let j := d.job t.job
    if !t.param || g.user = d.rank j || !d.servesShard key t g.shard then d
    else
      match d.routeTo (j.posOf g.user) 2 with
      | none => d
      | some (p, vc) =>
        let dest := if vc = 2 then 0 else j.posOf g.user
        if !(d.port p).canSend vc then d
        else
          match gatherBody none g key t d with
          | .error (.wait _ d) => d
          | .error (.fail st d) => d.sendOn p vc (.working (.refused st.refusal)) g.lot dest
          | .ok (c, d) => d.sendOn p vc (.working (.copy c)) g.lot dest (some c.bits.length)

/-- Changes the references of the pins of every shard of a tensor; a buffer that nothing refers to any more is freed (R260). Assumption 59,
DEDUCED. -/
def Shard.modPins (s : Shard) (f : List (Nat × Nat) → List (Nat × Nat)) : Shard :=
  { s with pins := (s.pins.map fun b => { b with users := f b.users }).filter fun b => !b.users.isEmpty }

/-- Ends the references that some users held (R260, R343). -/
def Shard.unpin (s : Shard) (gone : Nat × Nat → Bool) : Shard := s.modPins fun us => us.filter fun u => !gone u

/-- A user's backward launch of a step has ended: one reference of it to each shard of a tensor is released (R260, R343). -/
def Device.releasePins (d : Device) (key user step : Nat) : Device :=
  { d with shards := d.shards.map fun (x : Nat × Shard) =>
      if x.1 / 2 ^ 32 = key then (x.1, x.2.modPins fun us => us.erase (user, step)) else x }

/-- SHARD_GATHER (R258 to R261): one end of a gather, or the release of another user's references. `dest`: the core whose local store takes what
the launch gathers, and the address there. Assumption 58, DESIGN CHOICE. -/
def execShardGather (stream : StreamId) (slot shard : Nat) (gather : Gather) (dest : CoreId × Nat) (s : State) : Out :=
  if !s.dev.running then .next s
  else
    match gather with
    | .serve g => .next { s with dev := s.dev.gatherServe g }
    | .release lot user step handle =>
      .next { s with dev := (s.dev.releasePins (tensorKeyOf lot (handle % 2 ^ 24)) user step).sweepOrphans }
    | .own | .remote _ =>
      match s.dev.launchOf stream with
      | none => .next s
      | some e =>
        match s.dev.gathersFrom e slot with
        | none => .next s
        | some (key, t) =>
          let g := s.dev.askOf e (Fin.ofNat 64 e.lot) key t slot shard
          match gather with
          | .remote answer => .next (s.gatherRemote e g key t dest.1 dest.2 answer)
          | _ => .next (s.gatherOwn e g key t dest.1 dest.2)

/-- A backward launch of this device has committed or failed: its references at that step are released (R260, R343). -/
def Device.unpinLaunch (d : Device) (e : Entry) : Device :=
  if e.phaseByte ≠ 1 then d
  else
    let keys := (((List.range e.slots).filter fun i => (e.decl.slot i).regather).map fun i =>
      tensorKeyOf e.lot (e.slotHandle i % 2 ^ 24)).eraseDups
    keys.foldl (fun d key =>
      match d.tensor key with
      | some t => d.releasePins key (d.rank (d.job t.job)) e.step
      | none => d) d

end Sys2Proof.Machine
end

