-- ==== Sys2Proof/Machine/Records.lean ====
section
/-!
DEFINITION. Records of the difference stream: their layout (R269), the coding of planes (R270), the planes of a shard, and the
reading of images made of them (R273, R339).
-/
namespace Sys2Proof.Machine

/-- Words of 32 bits of a plane, padded with zero bytes (R269). -/
def words32 (b : Bytes) : List Nat := (List.range (ceilDiv b.length 4)).map fun i => rd b (4 * i) 4

/-- Groups a list of words into runs of zeros and of others, each at most 2^15 long: whether zeros, and the words. -/
def wordRuns : List Nat → List (Bool × List Nat)
  | [] => []
  | w :: t =>
    match wordRuns t with
    | (z, ws) :: rest => if z = (w = 0) && ws.length < 32768 then (z, w :: ws) :: rest else (w = 0, [w]) :: (z, ws) :: rest
    | [] => [(w = 0, [w])]

/-- The payload of a plane against a base (R270). Assumption 21, DEDUCED. -/
def encodePlane (base new : Bytes) : Bytes :=
  let xs := (words32 new).zipIdx.map fun w => w.1 ^^^ rd base (4 * w.2) 4
  (wordRuns xs).flatMap fun r =>
    if r.1 then toLE 2 (r.2.length - 1) else toLE 2 (32768 + (r.2.length - 1)) ++ r.2.flatMap (toLE 4)

/-- Decodes a payload until `n` words have been produced. First argument: fuel. -/
def decodeWords : Nat → Nat → Bytes → List Nat
  | 0, _, _ => []
  | f + 1, n, b =>
    if n = 0 || b.length < 2 then []
    else
      let t := rd b 0 2
      let k := min n (t % 32768 + 1)
      if t < 32768 then List.replicate k 0 ++ decodeWords f (n - k) (b.drop 2)
      else ((List.range k).map fun i => rd b (2 + 4 * i) 4) ++ decodeWords f (n - k) (b.drop (2 + 4 * k))

/-- The header fields of a record (R269). -/
structure RecHeader where
  kind    : Nat
  plane   : Nat := 0
  last    : Bool := false
  length  : Nat := 64
  tag     : Nat := 0
  step    : Nat := 0
  handle  : Nat := 0
  shard   : Nat := 0
  version : Nat := 0
  base    : Nat := 0
  raw     : Nat := 0
  digest  : Nat := 0
  seq     : Nat := 0
  deriving DecidableEq, Repr

/-- A record: header, payload, and zero bytes to a multiple of 64. -/
def RecHeader.record (h : RecHeader) (payload : Bytes) : Bytes :=
  let n := 64 + pad64 payload.length
  toLE 2 h.kind ++ toLE 1 h.plane ++ toLE 1 (b2n h.last) ++ toLE 4 n ++ toLE 8 h.tag ++ toLE 8 h.step ++ toLE 4 h.handle
    ++ toLE 4 h.shard ++ toLE 4 h.version ++ toLE 4 h.base ++ toLE 8 h.raw ++ toLE 8 h.digest ++ toLE 8 h.seq
    ++ fit (n - 64) payload

/-- Reads a header. -/
def recHeader (b : Bytes) : RecHeader :=
  { kind := rd b 0 2, plane := rd b 2 1, last := (rd b 3 1).testBit 0, length := rd b 4 4, tag := rd b 8 8, step := rd b 16 8
    handle := rd b 24 4, shard := rd b 28 4, version := rd b 32 4, base := rd b 36 4, raw := rd b 40 8, digest := rd b 48 8
    seq := rd b 56 8 }

/-- The planes of a shard in plane order: number and bytes (R268). -/
def Shard.planes (s : Shard) (t : Tensor) (master : Bytes) : List (Nat × Bytes) :=
  [(0, master)] ++ (if t.master = 1 then [(1, s.comp)] else []) ++ [(2, s.moment), (3, s.sketch), (4, s.record)]

/-- The records of the selected planes of one shard version. `bases`: the base version and planes of a DELTA, for those planes
that `full` does not claim. -/
def shardRecords (tag handle shard sel : Nat) (s : Shard) (planes : List (Nat × Bytes)) (full : Nat → Bool)
    (base : Nat) (bases : List (Nat × Bytes)) : List DiffRecord :=
  let ps := planes.filter fun p => sel.testBit p.1
  ps.zipIdx.map fun p =>
    let n := p.1.1
    let bytes := p.1.2
    let whole := full n
    let old := if whole then [] else ((bases.find? fun b => b.1 = n).map fun b => b.2).getD []
    let h : RecHeader :=
      { kind := if whole then 2 else 1, plane := n, last := p.2 + 1 = ps.length, tag := tag, step := s.step, handle := handle
        shard := shard, version := s.version, base := if whole then 0 else base, raw := 4 * ceilDiv bytes.length 4
        digest := crc64 bytes }
    { kind := h.kind, step := s.step, bytes := h.record (encodePlane old bytes) }

/-- A STEP_END record (R269). -/
def stepEnd (tag step : Nat) : DiffRecord :=
  { kind := 5, step := step, bytes := ({ kind := 5, tag := tag, step := step : RecHeader }).record [] }

/-- A record with its number in the stream. Assumption 50, DESIGN CHOICE. -/
def DiffRecord.number (r : DiffRecord) (n : Nat) : DiffRecord :=
  match r.seq with
  | some _ => r
  | none => { r with bytes := wrAt r.bytes 56 (toLE 8 n), seq := some n }

/-- Splits an image into its records. First argument: fuel. -/
def splitRecords : Nat → Bytes → List (RecHeader × Bytes)
  | 0, _ => []
  | f + 1, b =>
    if b.length < 64 then []
    else
      let h := recHeader b
      if h.length < 64 then []
      else (h, (b.take h.length).drop 64) :: splitRecords f (b.drop h.length)

/-- The records of an image. -/
def recordsOf (image : Bytes) : List (RecHeader × Bytes) := splitRecords (image.length / 64) image

/-- The plane of a FULL record. -/
def fullPlane (r : RecHeader × Bytes) : Bytes := (decodeWords (r.1.raw / 4 + 1) (r.1.raw / 4) r.2).flatMap (toLE 4)

/-- A FULL record's plane of a given length, if its digest matches (R265, R274, R339). -/
def checkedPlane (n : Nat) (r : RecHeader × Bytes) : Option Bytes :=
  let b := (fullPlane r).take n
  if r.1.kind = 2 && r.1.raw = 4 * ceilDiv n 4 && crc64 b = r.1.digest then some b else none

end Sys2Proof.Machine
end

