-- ==== Sys2Proof/Machine/DiffStream.lean ====
section
/-!
DEFINITION. The difference stream of a job: DIFF_STREAM_CTL, the queueing of records, overflow, and the writing of records to the
sink (R268 to R271, R295), with the durability of a securing pass (R336).
-/
namespace Sys2Proof.Machine

/-- Bytes of the records in a backlog. -/
def DiffStream.backlogBytes (s : DiffStream) : Nat := (s.backlog.map fun r => r.bytes.length).sum

/-- Appends records; a backlog above its limit is discarded, and one GAP record takes its place (R271). The flag tells of it. -/
def DiffStream.push (s : DiffStream) (recs : List DiffRecord) : DiffStream × Bool :=
  let all := s.backlog ++ recs
  if (all.map fun r => r.bytes.length).sum ≤ s.settings.backlog * 2 ^ 20 then ({ s with backlog := all }, false)
  else
    let first := match all with | r :: _ => r.step | [] => 0
    let last := match all.getLast? with | some r => r.step | none => 0
    let h : RecHeader := { kind := 4, tag := s.settings.tag, step := first, raw := last }
    ({ s with backlog := [{ kind := 4, step := first, bytes := h.record [] }], full := true, fullDone := [] }, true)

/-- Appends records to the stream of a job; an overflow raises an event and ends an open securing pass (R271, R336). -/
def Device.pushRecords (d : Device) (job : Nat) (recs : List DiffRecord) : Device :=
  let j := d.job job
  match j.diff with
  | none => d
  | some s =>
    let (s, gap) := s.push recs
    let d := d.setJob job { j with diff := some s, passOpen := if gap then none else j.passOpen }
    if gap then d.stateEvent j.lot 0 0 3 else d

/-- Queues the records of a committed shard version (R255, R268): FULL ones where the stream still owes them. `old`: the version
and planes that it replaced. -/
def Device.exportShard (d : Device) (key : Nat) (t : Tensor) (shard : Nat) (old : Nat) (oldPlanes : List (Nat × Bytes)) : Device :=
  match (d.job t.job).diff with
  | none => d
  | some s =>
    if t.job = 0 then d
    else
      let now := d.shardOf key shard
      let planes := now.planes t (d.masterOf key shard)
      let k := shardKey key shard
      let full (n : Nat) : Bool := old = 0 || (s.full && !s.fullDone.contains (k, n))
      let recs := shardRecords s.settings.tag (t.handle key) shard s.settings.planes now planes full old oldPlanes
      let done := (planes.filter fun p => s.settings.planes.testBit p.1).map fun p => (k, p.1)
      let d := d.setJob t.job { d.job t.job with diff := some { s with fullDone := s.fullDone ++ done.filter fun x => !s.fullDone.contains x } }
      d.pushRecords t.job recs

/-! ### The step-record write (R253 to R255) -/

/-- The version of a shard and its planes, before a commit replaces them. -/
def Device.oldPlanes (d : Device) (key shard : Nat) : Nat × List (Nat × Bytes) :=
  let old := d.shardOf key shard
  match d.tensor key with
  | some t => (old.version, old.planes t (d.masterOf key shard))
  | none => (old.version, [])

/-- A shard after the commit of a staged state. What does not belong to the version stays as it is: pins, frozen copies, the gathers served
meanwhile, and the amax history (R87, R257); an update releases its gradient and keeps the version that it replaces (R255, R264); a restore or a
rollback leaves neither a gradient, nor a held version, nor a history (R88, R264). -/
def Shard.flip (cur new : Shard) (kind : NoticeKind) (time : Nat) : Shard :=
  let kept : Shard := { new with time := time, pins := cur.pins, frozen := cur.frozen }
  match kind with
  | .update => { kept with
      amax := cur.amax, gathered := cur.gathered
      retained := match cur.retained with | some r => if r.step = new.step then none else some r | none => none }
  | .init => { kept with amax := cur.amax, gathered := cur.gathered, retained := cur.retained, held := cur.held }
  | .rewind => { kept with amax := [], gathered := [], retained := none, held := none }

/-- The step-record write of one staged shard: TIME is that of the commit, a wrapped version is reported, and the records for the difference
stream are queued (R253 to R255). -/
def Device.flipShard (d : Device) (kind : NoticeKind) (s : StagedShard) (old : Nat × List (Nat × Bytes)) : Device :=
  match d.tensor s.tensor with
  | none => d
  | some t =>
    let new := (d.shardOf s.tensor s.index).flip s.shard kind d.time
    let d := (d.setShard s.tensor s.index new).wrapEvent (tensorLot s.tensor) (t.handle s.tensor) s.index new
    d.exportShard s.tensor t s.index old.1 old.2

/-- The step-record writes of a command's staged shards. -/
def Device.flipShards (d : Device) (kind : NoticeKind) (shards : List StagedShard) (old : List (Nat × List (Nat × Bytes))) : Device :=
  (shards.zip old).foldl (fun d x => d.flipShard kind x.1 x.2) d

/-! ### DIFF_STREAM_CTL (R268) -/

/-- The settings of a packet. -/
def diffSettings (p : Bytes) : DiffSettings :=
  { port := if rd p 16 1 = 2 then some (rd p 17 1) else none, planes := rd p 18 1, backlog := rd p 20 4, ring := rd p 24 8
    ringBytes := rd p 32 8, tag := rd p 40 8 }

/-- DIFF_STREAM_CTL. -/
def diffCtlBody (e : Entry) (d : Device) : Res (Nat × Nat × Device) := do
  let p := e.packet
  let action := rd p 16 1
  let s := diffSettings p
  check (action ≤ 2) .eParam d
  if action = 0 then
    check (rd p 17 1 = 0) .eParam d
    pure (0, 0, d)
  else
    check (64 ≤ s.backlog && s.backlog ≤ 65536) .eParam d
    match s.port with
    | some w =>
      check (92 ≤ w && w ≤ 95 && s.ring = 0) .eParam d
      check ((d.lot e.lot).auxPorts.testBit (w - 92)) .ePermission d
      pure (0, 0, d)
    | none =>
      check (rd p 17 1 = 0 && s.ringBytes % 4096 = 0 && 2 ^ 20 ≤ s.ringBytes) .eParam d
      check (s.ring % 64 = 0) .eAlign d
      pure (0, 0, d)

/-- The commit of a DIFF_STREAM_CTL: a start, or a change that waits for the next STEP_END. -/
def commitDiffCtl (e : Entry) (d : Device) : Device :=
  let job := (d.stream e.stream).job
  let j := d.job job
  let j := { j with lot := e.lot }
  let s := diffSettings e.packet
  if rd e.packet 16 1 = 0 then
    d.setJob job { j with diff := j.diff.map fun x => { x with change := some none } }
  else
    match j.diff with
    | some x => d.setJob job { j with diff := some { x with change := some (some s) } }
    | none => d.setJob job { j with diff := some { settings := s } }

/-- DIFF_STREAM_CTL. -/
def execDiffStreamCtl (stream : StreamId) (s : State) : Out := s.onDev fun d => d.runOp stream .diffStreamCtl diffCtlBody

/-- A change that waited for a STEP_END takes effect (R268): what goes on, and the stream that has ended and whose records still go to the old
sink. A new sink starts with FULL records at its beginning and numbers its records from 0 (assumption 22, DESIGN CHOICE). -/
def DiffStream.settle (s : DiffStream) : Option DiffStream × Option DiffStream :=
  match s.change with
  | none => (some s, none)
  | some none => (none, some { s with change := none })
  | some (some n) =>
    let moved := n.ring ≠ s.settings.ring || n.port ≠ s.settings.port || n.ringBytes ≠ s.settings.ringBytes
    if moved then (some { settings := n }, some { s with change := none })
    else (some { s with settings := n, change := none }, none)

/-! ### Writing records -/

/-- Drops from the front of the written records those that are stored, given the bytes that are not (R271). -/
def keepTail (n : Nat) : List DiffRecord → List DiffRecord
  | [] => []
  | r :: t => if ((r :: t).map fun x => x.bytes.length).sum ≤ n then r :: t else keepTail n t

/-- The records that the sink has stored leave the list of written ones (R336): those that CONSUMER has passed, or those whose
numbers the peer of a weft port has stored. -/
def DiffStream.acknowledge (s : DiffStream) (consumer : Nat) : DiffStream :=
  match s.settings.port with
  | some _ => { s with consumer := consumer, sent := s.sent.filter fun r => match r.seq with | some q => consumer ≤ q | none => true }
  | none =>
    let cap := s.settings.ringBytes - 64
    let c := if cap = 0 then 0 else consumer % cap
    { s with consumer := c, sent := keepTail (if cap = 0 then 0 else (s.producer + cap - c) % cap) s.sent }

/-- A pass whose STEP_END is stored is durable on this device (R336). -/
def Device.settlePass (d : Device) (job : Nat) : Device :=
  let j := d.job job
  match j.passOpen with
  | none => d
  | some sigma =>
    let waiting := (j.diff.toList ++ j.draining).any fun s => (s.sent ++ s.backlog).any fun r => r.kind = 5 && r.step = sigma
    if waiting then d else d.setJob job { j with passOpen := none, durable := sigma }

/-- The next record, with a PAD before it where it would cross the ring's end (R271): the records to write, if they fit. -/
def DiffStream.nextWrite (s : DiffStream) : Option (List DiffRecord × DiffStream) :=
  match s.backlog with
  | [] => none
  | r :: rest =>
    let cap := s.settings.ringBytes - 64
    let used := (s.producer + cap - s.consumer) % cap
    let n := r.bytes.length
    if s.producer + n ≤ cap then
      if used + n < cap then
        let r := r.number s.next
        some ([r], { s with backlog := rest, next := s.next + 1, producer := (s.producer + n) % cap, sent := s.sent ++ [r] })
      else none
    else
      let gap := cap - s.producer
      if used + gap + n < cap then
        let h : RecHeader := { kind := 3, tag := s.settings.tag }
        let pad : DiffRecord :=
          { kind := 3, step := r.step, bytes := fit gap (wrAt (h.record []) 4 (toLE 4 gap)) }
        let pad := pad.number s.next
        let r := r.number (s.next + 1)
        some ([pad, r], { s with backlog := rest, next := s.next + 2, producer := n, sent := s.sent ++ [pad, r] })
      else none

/-- Writes records to a host ring, each before PRODUCER passes it (R271). -/
def Device.writeRing (d : Device) (attach : Nat) (s : DiffSettings) (at_ : Nat) : List DiffRecord → Device
  | [] => d
  | r :: t =>
    let cap := s.ringBytes - 64
    let d := d.writeHost attach (s.ring + 64 + at_) r.bytes
    let p := (at_ + r.bytes.length) % cap
    (d.writeHost attach s.ring (toLE 8 p)).writeRing attach s p t

/-- The difference streams of a job that still have a sink: the one in force, then those that have ended, oldest first (R268). -/
def Job.sink (j : Job) (i : Nat) : Option DiffStream := if i = 0 then j.diff else j.draining[i - 1]?

/-- Replaces a difference stream of a job; one that has ended goes once every record of it is stored. -/
def Job.setSink (j : Job) (i : Nat) (s : DiffStream) : Job :=
  if i = 0 then { j with diff := some s }
  else { j with draining := if s.backlog.isEmpty && s.sent.isEmpty then j.draining.eraseIdx (i - 1) else j.draining.set (i - 1) s }

/-- DIFF_RECORD_WRITE: the device learns what the sink has stored, and writes the next record if the sink has room (R271, R295). -/
def execDiffRecordWrite (job : Nat) (progress : SinkProgress) (s : State) : Out :=
  s.onDev fun d =>
    let j := d.job job
    match j.sink progress.sink with
    | none => d
    | some s =>
      if !d.running then d
      else
        let s := s.acknowledge progress.consumer
        let put (d : Device) (s : DiffStream) : Device := d.setJob job ((d.job job).setSink progress.sink s)
        let d := match s.settings.port with
          | none =>
            match (if d.hostReachable j.lot then s.nextWrite else none) with
            | some (rs, s') => put (d.writeRing ((d.hosting j.lot).getD 0) s.settings s.producer rs) s'
            | none => put d s
          | some w =>
            match (if (d.port w).canSend 7 then s.backlog else []) with
            | r :: rest =>
              let r := r.number s.next
              let fresh := s.next ≤ r.seq.getD 0
              let s' := { s with backlog := rest, sent := s.sent ++ [r], next := if fresh then s.next + 1 else s.next }
              put (d.sendOn w 7 (.diff r.bytes) j.lot) s'
            | [] => put d s
        d.settlePass job

/-- The messages lost with a port: its records go back to the front of the backlog, with their numbers (R295). -/
def DiffStream.resend (s : DiffStream) (port : Nat) : DiffStream :=
  if s.settings.port = some port then { s with backlog := s.sent ++ s.backlog, sent := [] } else s

end Sys2Proof.Machine
end

