-- ==== Sys2Proof/Machine/Dma.lean ====
section
/-!
DEFINITION. The DMA engines: DMA_COPY, DMA_RESHUFFLE, one descriptor at a time, operator channels, and the channel registers'
requests (R228 to R242).
-/
namespace Sys2Proof.Machine

/-- Whether a channel is an operator channel (R228). -/
def operatorChannel (x : Nat) : Bool := x < 512 && x % 16 ≥ 12

/-! ### Channel states (R241, R406) -/

/-- A request to enable a channel. `by_`: the command that asks, or none for a register write. The result says whether the
command waits in the pending slot, and which command it replaced. -/
def DmaChannel.requestEnable (c : DmaChannel) (by_ : Option Nat) : DmaChannel :=
  match c.state with
  | .disabled => { c with state := .enabling, enabler := by_ }
  | .disabling => { c with pendingBy := some by_ }
  | _ => c

/-- A request to disable a channel. -/
def DmaChannel.requestDisable (c : DmaChannel) : DmaChannel :=
  match c.state with
  | .enabled | .enabling => { c with state := .disabling, enabler := none }
  | _ => c

/-- What a tick of TIME does to a channel: 16 and 64 FABRIC cycles end within it (R241). -/
def DmaChannel.tick (c : DmaChannel) : DmaChannel :=
  match c.state with
  | .enabling => { c with state := .enabled, enabler := none }
  | .disabling =>
    if c.slot.isSome then c
    else match c.pendingBy with
      | some b => { c with state := .enabling, pendingBy := none, enabler := b }
      | none => { c with state := .disabled }
  | _ => c

/-- Whether a function may write a channel's request bits: a lot its own channels, the management function all (R241, R242). -/
def Device.ownsChannel (d : Device) (f : Fn) (x : Nat) : Bool :=
  match d.channelLot x with
  | some l => d.sees f l
  | none => d.barOpen f && d.isMgmt f

/-- Ends a superseded command's wait in a pending slot (R241, R406). -/
def Device.supersede (d : Device) (by_ : Option (Option Nat)) : Device :=
  match by_ with
  | some (some id) =>
    match d.entry id with
    | some e => if e.phase = .dispatched then d.failEntry id .eSuperseded else d
    | none => d
  | _ => d

/-- The command whose enable a disable abandons (R241). -/
def DmaChannel.abandoned (c : DmaChannel) : Option (Option Nat) :=
  match c.state with
  | .enabling => some c.enabler
  | _ => none

/-- DMA_EN_REQ: a register request to enable (R241). -/
def execDmaEnReq (fn : Fn) (channel : ChannelId) (s : State) : Out :=
  s.onAccess fn fun d =>
    if d.ownsChannel fn channel then
      let c := d.channel channel
      let d := if c.state = .disabling then d.supersede c.pendingBy else d
      d.setChannel channel ((d.channel channel).requestEnable none)
    else d

/-- DMA_DIS_REQ: a register request to disable (R241). -/
def execDmaDisReq (fn : Fn) (channel : ChannelId) (s : State) : Out :=
  s.onAccess fn fun d =>
    if d.ownsChannel fn channel then
      let d := d.supersede (d.channel channel).abandoned
      d.setChannel channel (d.channel channel).requestDisable
    else d

/-- DMA_HALTED_CLEAR: software writes 1 to HALTED (R234). -/
def execDmaHaltedClear (fn : Fn) (channel : ChannelId) (s : State) : Out :=
  s.onAccess fn fun d =>
    if d.ownsChannel fn channel then d.setChannel channel { d.channel channel with halted := false } else d

/-! ### Commands (R230, R234, R241) -/

/-! ### Descriptors (R231 to R238) -/

/-- A descriptor (R231). -/
structure Descriptor where
  src    : Nat
  dst    : Nat
  length : Nat
  mode   : Nat
  param  : Nat
  flags  : Nat
  elem   : Nat
  stride : Nat
  deriving DecidableEq, Repr

/-- Reads a descriptor of 32 bytes. -/
def descriptorOf (b : Bytes) : Descriptor :=
  { src := rd b 0 8, dst := rd b 8 8, length := rd b 16 4, mode := rd b 20 1, param := rd b 21 1, flags := rd b 22 1
    elem := rd b 23 1, stride := rd b 24 4 }

/-- Planes of a descriptor's operand: addresses and bytes (R238). -/
def Descriptor.planes (x : Descriptor) (base : Nat) (split : Bool) : List (Nat × Nat) :=
  if split && x.param ≠ 0 then
    let n := x.length / x.param
    let sp := if x.stride = 0 then n else x.stride * 64
    (List.range x.param).map fun p => (base + p * sp, n)
  else [(base, x.length)]

/-- Source planes. -/
def Descriptor.srcPlanes (x : Descriptor) : List (Nat × Nat) := x.planes x.src (x.mode = 1 || x.mode = 4)
/-- Destination planes. -/
def Descriptor.dstPlanes (x : Descriptor) : List (Nat × Nat) := x.planes x.dst (x.mode = 2 || x.mode = 3)

/-- The fields that a descriptor may not have: reserved ones, and those its mode gives no use (R231). -/
def Descriptor.fieldsOk (x : Descriptor) (b : Bytes) : Bool :=
  x.flags < 4 && rd b 28 4 = 0
    && (match x.mode with
        | 1 | 2 => 2 ≤ x.param && x.param ≤ 16 && x.elem ≤ 6
        | 3 | 4 => (x.param = 4 || x.param = 6) && x.elem = 0
        | _ => x.param = 0 && x.elem = 0)

/-- Whether every address and length of a data descriptor is a multiple of 64 (R234). -/
def Descriptor.aligned (x : Descriptor) : Bool :=
  x.src % 64 = 0 && x.dst % 64 = 0 && x.length % 64 = 0
    && (x.srcPlanes ++ x.dstPlanes).all fun p => p.1 % 64 = 0

/-- The lengths and the planes that the modes allow (R238). -/
def Descriptor.shapeOk (x : Descriptor) : Bool :=
  match x.mode with
  | 0 => true
  | 1 | 2 | 3 | 4 => x.length % (64 * x.param) = 0 && (x.stride = 0 || x.length / x.param ≤ x.stride * 64)
  | _ => false

/-- Whether a data descriptor has the form that its command, its channel and its mode allow (R230, R231, R234, R236, R238). -/
def Descriptor.runs (x : Descriptor) (op : Opcode) (channel : Nat) : Bool :=
  (x.mode = 0 || (op = .dmaReshuffle && x.mode ≤ 4)) && x.aligned && x.shapeOk && (channel ≥ 512 || x.flags = 0)

/-- The device-memory ranges that a descriptor reads, then those that it writes. -/
def Descriptor.ranges (x : Descriptor) : List (Nat × Nat) × List (Nat × Nat) :=
  (if x.flags.testBit 0 then [] else x.srcPlanes, if x.flags.testBit 1 then [] else x.dstPlanes)

/-! ### The chain (R208, R230, R232, R233) -/

/-- The channel of a DMA command. -/
def Entry.channel (e : Entry) : Nat := e.param 16 2

/-- Whether the descriptor is inline. -/
def Entry.inline (e : Entry) : Bool := (e.param 18 1).testBit 0

/-- Where the chain goes on after a descriptor: a JUMP goes on at SRC, a data descriptor is followed by the next one; none after one that will fail,
or that is the last (R232). -/
def Entry.chainNext (e : Entry) (item : ChainItem) (jumps left : Nat) : Option (Nat × Nat × Nat) :=
  let v := descriptorOf item.bytes
  if item.stop.isSome || !v.fieldsOk item.bytes then none
  else if v.mode = 15 then
    if jumps < 64 && v.src % 64 = 0 && (e.channel ≥ 512 || v.flags = 0) then some (v.src, jumps + 1, left) else none
  else if v.runs e.op e.channel && 1 < left then some (item.addr + 32, jumps, left - 1)
  else none

/-- What the addresses of a data descriptor meet (R208, R236): its sources, then its destinations. -/
def Device.judgeRanges (d : Device) (lot : Nat) (v : Descriptor) : Option (Status × Nat) :=
  (v.ranges.1 ++ v.ranges.2).findSome? fun r => d.judge lot r.1 r.2

/-- A descriptor with its addresses judged. -/
def Device.chainItem (d : Device) (e : Entry) (addr : Nat) (b : Bytes) : ChainItem :=
  let v := descriptorOf b
  { addr := addr, bytes := b, stop := if v.mode ≠ 15 && v.fieldsOk b && v.runs e.op e.channel then d.judgeRanges e.lot v else none }

/-- Reads a chain from an address on, as INDIGO traffic (R229, R233). Fuel: COUNT data descriptors and 64 JUMPs. -/
def Device.readChain (d : Device) (e : Entry) : Nat → Nat → Nat → Nat → List ChainItem × Device
  | 0, _, _, _ => ([], d)
  | fuel + 1, addr, jumps, left =>
    match d.judge e.lot addr 32 with
    | some f => ([{ addr := addr, bytes := zeros 32, stop := some f }], d)
    | none =>
      let (bad, b, d) := (d.touchRange e.lot addr 32 1 false).load addr 32
      let item : ChainItem := if bad then { addr := addr, bytes := b, stop := some (.eMemUncorrectable, addr) } else d.chainItem e addr b
      match e.chainNext item jumps left with
      | none => ([item], d)
      | some (a, j, l) =>
        let (rest, d) := d.readChain e fuel a j l
        (item :: rest, d)

/-- The descriptors of a DMA command: the inline one, or those from CHAIN on; after an inline JUMP, those from its SRC on (R230, R232). -/
def Device.chainOf (d : Device) (e : Entry) : List ChainItem × Device :=
  let fuel := e.param 20 4 + 65
  if e.inline then
    let item := d.chainItem e 0 (e.packet.drop 32)
    match e.chainNext item 0 1 with
    | some (a, j, l) =>
      let (rest, d) := d.readChain e fuel a j l
      (item :: rest, d)
    | none => ([item], d)
  else if e.param 24 8 % 64 ≠ 0 then ([], d)
  else d.readChain e fuel (e.param 24 8) 0 (e.param 20 4)

/-- The tensors that a range of device memory lies in, extent by extent: key, offset and length. -/
def Device.tensorRanges (d : Device) (lot a n : Nat) : List (Nat × Nat × Nat) :=
  (addrExtents a n).filterMap fun x =>
    (d.tensorAt lot x).map fun t =>
      let lo := max a (x * Config.extentBytes)
      let hi := min (a + n) ((x + 1) * Config.extentBytes)
      (t.1, t.2.extents.idxOf x * Config.extentBytes + lo % Config.extentBytes, hi - lo)

/-- The data descriptors of a chain that will run. -/
def Entry.chainData (e : Entry) (items : List ChainItem) : List Descriptor :=
  items.filterMap fun i =>
    let v := descriptorOf i.bytes
    if v.mode ≠ 15 && i.stop.isNone && v.fieldsOk i.bytes && v.runs e.op e.channel then some v else none

/-- A DMA command at its dispatch: its chain is read, the addresses that it names are judged (R208), it claims what it will write (R62), and refers to
the tensors and extents that it reaches (R50, R204). -/
def Device.dmaDispatch (d : Device) (e : Entry) : Res Device := do
  let (items, d) := d.chainOf e
  let vs := e.chainData items
  let ranges (ps : List (Nat × Nat)) : List (Nat × Nat × Nat) := ps.flatMap fun p => d.tensorRanges e.lot p.1 p.2
  let d ← d.claim e (vs.flatMap fun v => ranges v.ranges.2)
  let all := vs.flatMap fun v => v.ranges.1 ++ v.ranges.2
  pure (d.modEntry e.id fun x => { x with
    chain := items, ran := true
    tensors := ((ranges all).map fun r => r.1).eraseDups, extents := (all.flatMap fun p => addrExtents p.1 p.2).eraseDups })

/-- Whether another DMA command was dispatched to the channel earlier and has not left it (R241). -/
def Device.channelQueue (d : Device) (x : Nat) (e : Entry) : Bool :=
  d.journal.any fun y => (y.op = .dmaCopy || y.op = .dmaReshuffle) && y.channel = x && y.phase = .dispatched && d.channelLot x = some y.lot
    && y.order < e.order && (d.channel x).slot ≠ some y.id

/-- A DMA command takes its channel's slot, or waits for it; a halted channel fails it with RESULT0 [31] (R230, R234, R241). -/
def dmaBody (e : Entry) (d : Device) : Res (Nat × Nat × Device) := do
  let x := e.channel
  if (d.channel x).slot = some e.id then waitFor .channel d
  else
    check (x < Config.channels && !operatorChannel x && d.channelLot x = some e.lot) .ePermission d
    check (1 ≤ e.param 20 4 && e.param 20 4 ≤ 65535) .eParam d
    check (!e.inline || (e.param 20 4 = 1 && e.param 24 8 = 0)) .eParam d
    let d ← if e.ran then pure d else d.dmaDispatch e
    let c := d.channel x
    if c.state ≠ .enabled || c.slot.isSome || d.channelQueue x e then waitFor .channel d
    else if c.halted then failWith .eAlign (d.modEntry e.id fun e => { e with sticky := 2 ^ 31 })
    else waitFor .channel (d.setChannel x { c with slot := some e.id, done := 0, index := 0, moved := 0 })

/-- Runs a DMA command's start. -/
def Device.dmaStart (d : Device) (stream : Nat) (op : Opcode) : Device :=
  match d.ready stream op with
  | some e => (d.runOp stream op dmaBody).markFailure e.id
  | none => d

/-- DMA_COPY (R230). -/
def execDmaCopy (stream : StreamId) (s : State) : Out := s.onDev fun d => d.dmaStart stream .dmaCopy

/-- DMA_RESHUFFLE (R230). -/
def execDmaReshuffle (stream : StreamId) (s : State) : Out := s.onDev fun d => d.dmaStart stream .dmaReshuffle

/-! ### One descriptor (R231 to R239) -/

/-- The bits of one plane of a bit-plane mode: bit b of each element (R238). -/
def bitPlane (w b : Nat) (src : Bytes) (n : Nat) : Bytes := packBits 1 ((List.range n).map fun i => b2n ((bitElem w i src).testBit b))

/-- What a descriptor writes, plane by plane, from its source planes (R238). -/
def Descriptor.move (x : Descriptor) (srcs : List Bytes) : List Bytes :=
  let el := 2 ^ x.elem
  match x.mode with
  | 1 =>
    let n := x.length / x.param / el
    [(List.range n).flatMap fun e => srcs.flatMap fun p => (p.drop (e * el)).take el]
  | 2 =>
    let n := x.length / x.param / el
    let whole := srcs.getD 0 []
    (List.range x.param).map fun p => (List.range n).flatMap fun e => (whole.drop ((e * x.param + p) * el)).take el
  | 3 =>
    let n := 8 * x.length / x.param
    (List.range x.param).map fun b => bitPlane x.param b (srcs.getD 0 []) n
  | 4 =>
    let n := 8 * x.length / x.param
    [packBits x.param ((List.range n).map fun i =>
      ((List.range x.param).map fun b => bitElem 1 i (srcs.getD b []) * 2 ^ b).sum)]
  | _ => srcs

/-- Halts a channel for a misaligned descriptor: its registers, and the selvage record (R234). -/
def Device.haltChannel (d : Device) (x lot index addr : Nat) : Device :=
  let d := d.setChannel x { d.channel x with halted := true, haltIndex := index, haltAddr := addr }
  d.raiseSelvage (srcChannel x) 0x22 lot (toLE 2 x ++ toLE 2 index ++ zeros 4 ++ toLE 8 addr)

/-- Reads the source planes of a descriptor, from host or device memory (R214, R236, R349); their addresses have been judged. -/
def Device.readPlaneList (d : Device) (e : Entry) (host : List HostReturn) (fromHost : Bool) (ps : List (Nat × Nat)) :
    Res (List Bytes × Device) :=
  ps.foldlM (fun (acc : List Bytes × Device) p => do
    let (out, d) := acc
    if fromHost then
      if !d.hostReachable e.lot then failWith .ePermission d
      else match hostRead host p.1 p.2 with
        | .ok b => pure (out ++ [b], d)
        | .error st => failWith st d
    else if (d.tensorRanges e.lot p.1 p.2).any fun r => d.lostFor e r.1 then failWith .eStaleShard d
    else
      match (d.touchRange e.lot p.1 p.2 1 false).load p.1 p.2 with
      | (true, _, d) => failWith .eMemUncorrectable d
      | (false, b, d) => pure (out ++ [b], d)) ([], d)

/-- Writes one destination plane: host memory as it runs (R63), pinned tensors in place (R61, R235). -/
def Device.writePlane (d : Device) (e : Entry) (toHost : Bool) (a : Nat) (b : Bytes) : Res Device :=
  if toHost then
    if !d.hostReachable e.lot then failWith .ePermission d
    else pure (d.writeHost ((d.hosting e.lot).getD 0) a b)
  else
    let rs := d.tensorRanges e.lot a b.length
    let d := d.modEntry e.id fun e => { e with written := e.written ++ rs }
    pure (((d.writeMem a b).touchRange e.lot a b.length 1 true).writeReaches (addrExtents a b.length))

/-- The payload of an end-of-count event (R239). -/
def endPayload (e : Entry) (moved : Nat) : Bytes := toLE 4 e.stream ++ toLE 4 e.seq ++ toLE 8 moved

/-- The end of a command's last data descriptor: the end-of-count event, the slot's release, and the staged results (R239,
R240). -/
def Device.endCount (d : Device) (x : Nat) (e : Entry) : Device :=
  let c := d.channel x
  let d := d.raiseLot (srcChannel x) 2 e.lot (endPayload e c.moved)
  (d.setChannel x { c with slot := none }).stageOk e.id c.done c.moved

/-- One descriptor of the command in a channel's slot (R231 to R239). -/
def descriptorBody (x : Nat) (host : List HostReturn) (e : Entry) (d : Device) : Res Device := do
  let c := d.channel x
  match e.chain[c.index]? with
  | none => failWith .eAlign (d.haltChannel x e.lot c.index (e.param 24 8))
  | some item =>
    let v := descriptorOf item.bytes
    let halt : Res Device := failWith .eAlign (d.haltChannel x e.lot c.index item.addr)
    if v.mode = 15 && item.stop.isNone then
      check (v.fieldsOk item.bytes && (x ≥ 512 || v.flags = 0)) .eParam d
      check (c.index - c.done < 64) .eParam d
      if v.src % 64 ≠ 0 then halt else pure (d.setChannel x { c with index := c.index + 1 })
    else
      check (item.stop.isSome || (v.fieldsOk item.bytes && (v.mode = 0 || (e.op = .dmaReshuffle && v.mode ≤ 4)))) .eParam d
      if item.stop.isNone && !v.aligned then halt
      else
        check (item.stop.isSome || v.runs e.op x) .eParam d
        match item.stop with
        | some f => d.failAddr (srcLot e.lot) e.lot f
        | none =>
          let (srcs, d) ← d.readPlaneList e host (v.flags.testBit 0) v.srcPlanes
          let d ← (v.dstPlanes.zip (v.move srcs)).foldlM (fun d p => d.writePlane e (v.flags.testBit 1) p.1.1 p.2) d
          let c := { d.channel x with index := c.index + 1, done := c.done + 1, moved := c.moved + v.length }
          let d := d.setChannel x c
          let d := if x < 512 then d.countCluster (some (x / 16)) 0x108 e.lot (ceilDiv v.length 256) else d
          pure (if c.done = e.param 20 4 then d.endCount x e else d)

/-- A descriptor of a granted channel. -/
def Device.descriptor (d : Device) (x : Nat) (host : List HostReturn) : Device :=
  match (d.channel x).slot.bind d.entry with
  | none => d
  | some e =>
    match descriptorBody x host e d with
    | .ok d => d
    | .error (.fail st d) =>
      let c := d.channel x
      ((d.modEntry e.id fun e => { e with sticky := c.done }).failEntry e.id st).markFailure e.id c.moved
    | .error (.wait w d) => d.modEntry e.id fun e => { e with wait := w }

/-! ### Operator channels (R117, R228, R239) -/

/-- A transfer between a core's local store and a tensor slot of the launch that it runs. The end-of-count event goes to the
control cores of the cluster (R239). -/
def operatorBody (x : Nat) (m : OperatorMove) (e : Entry) (s : State) : Except Stop State := do
  let slot := e.decl.slot m.slot
  let d := s.dev
  let (key, t) ← d.find e (e.slotHandle m.slot)
  check (m.slot < e.slots && (if m.toTensor then slot.writes else slot.reads) && m.offset + m.length ≤ t.size) .eParam d
  check (spanOk m.store m.length) .eParam d
  let fire (d : Device) : Device :=
    let d := d.modEntry e.id fun e => { e with wait := .nothing }
    (List.range 8).foldl (fun d k => d.fireInternal (4 + 8 * (x / 16) + k) (srcChannel x) (endPayload e m.length)) d
  let beats (d : Device) : Device := d.countCluster (some (x / 16)) 0x108 e.lot (ceilDiv m.length 256)
  if m.toTensor then
    let d ← d.putTensor e key m.offset (s.eng.read m.core m.store m.length)
    pure { s with dev := fire (beats d) }
  else
    let (b, d) ← d.fetchTensor e key m.offset m.length
    pure ({ s with dev := fire (beats d) }.storeWrite m.core m.store b)

/-- An operator move on a core; where its launch runs no kernel there, nothing happens (assumption 11, DESIGN CHOICE). Assumption 17, DEDUCED. -/
def State.operatorMove (s : State) (x : Nat) (m : OperatorMove) : State :=
  match s.kernelOf m.core with
  | none => s
  | some e =>
    if e.stream ≠ m.stream || !s.dev.running then s
    else
      match operatorBody x m e s with
      | .ok s => s
      | .error (.fail st d) => { s with dev := d }.failKernel e.id m.core st
      | .error (.wait w d) => { s with dev := d.modEntry e.id fun e => { e with wait := w } }

/-- DMA_DESCRIPTOR: on a granted channel, one descriptor of its command; on an operator channel, one move of a kernel of the
channel's cluster. The errors strike memory before it (R212). -/
def execDmaDescriptor (channel : ChannelId) (reads : MemoryReads) (move : Option OperatorMove) (s : State) : Out :=
  if !s.dev.running then .next s
  else
    let s := { s with dev := s.dev.strike reads.errors }
    match move with
    | none => .next { s with dev := s.dev.descriptor channel reads.returns }
    | some m => .next (if operatorChannel channel && m.core.val / 8 = channel.val / 16 then s.operatorMove channel m else s)

/-- The commit of a DMA command: its bytes count in DMA_CH_BYTES, which saturates (R242). -/
def commitDma (e : Entry) (d : Device) : Device :=
  let c := d.channel e.channel
  d.setChannel e.channel { c with bytes := satAdd (2 ^ 64 - 1) c.bytes e.result1 }

end Sys2Proof.Machine
end

