-- ==== Sys2Proof/Machine/Links.lean ====
section
/-!
DEFINITION. Weft ports: training and identity (R286 to R289), link epochs (R284), flits, retry and credits (R278 to R283), the
loss of a link (R285, R293), and the enable and disable requests of a port (R289, R406).
-/
namespace Sys2Proof.Machine

/-! ### States of a port -/

/-- LASER. -/
def causeLaser : Nat := 1
/-- NO_SIGNAL. -/
def causeNoSignal : Nat := 2
/-- ADAPT. -/
def causeAdapt : Nat := 3
/-- RETRY_LIMIT. -/
def causeRetryLimit : Nat := 4
/-- DISABLED. -/
def causeDisabled : Nat := 5
/-- IDENTITY_TIMEOUT. -/
def causeIdentity : Nat := 6
/-- FEC_LOCK. -/
def causeFecLock : Nat := 7

/-- Credits at the start of an epoch (R281). -/
def fullCredits : List Nat := [16, 160, 96, 64, 64, 32, 48, 32]

/-- Whether a port is a network port of R290. -/
def networkPort (p : Nat) : Bool := p < 92

/-- Changes a port. -/
def Device.modPort (d : Device) (p : Nat) (f : Port → Port) : Device := d.setPort p (f (d.port p))

/-- The LINK event of a port (R287, R384), to the management queue and the selvage log. -/
def Device.linkEvent (d : Device) (p : Nat) : Device :=
  let v := d.port p
  d.raiseMgmt (srcPort p) 7 (toLE 1 p ++ toLE 1 v.lstate ++ toLE 1 v.cause ++ toLE 1 v.epoch)

/-- A port whose training has reached a state of R287 is ENABLING no more; the command that enabled it completes (R289). -/
def Device.finishEnable (d : Device) (p : Nat) : Device :=
  let v := d.port p
  if v.state ≠ .enabling then d
  else
    let d := d.setPort p { v with state := .enabled, enabler := none }
    match v.enabler with
    | some id => d.stageOk id 0 0
    | none => d

/-- A change of epoch (R284): buffers are emptied, credits return to the allotment and SEQ restarts at 0. -/
def Port.newEpoch (v : Port) (epoch : Nat) : Port :=
  { v with
    epoch := epoch, retry := [], waiting := [], buffers := [], credits := fullCredits, owed := [0, 0, 0, 0, 0, 0, 0, 0], sendSeq := 0, recvSeq := 0
    askedSeq := none, asks := 0, heard := false, ackDue := false, paths := [], replaySeq := 0, replayCount := 0 }

/-- The later of two proposals of an epoch (R284). -/
def laterEpoch (mine theirs : Nat) : Nat :=
  if (theirs + 256 - mine) % 256 = 128 then max mine theirs else if serialLater 8 mine theirs then theirs else mine

/-- The training of a port starts at a step (R287). -/
def Port.train (v : Port) (step : Nat) : Port := { v with lstate := 1, step := step, adaptFails := 0 }

/-- A port goes DOWN with a cause and waits to retry: 1 ms, 10 ms, 100 ms, then every 1 s (R287). -/
def Port.goDown (v : Port) (cause time : Nat) : Port :=
  { v with
    lstate := 0, step := 0, cause := cause, downCount := v.downCount + 1
    waitUntil := time + (if v.downCount = 0 then 100000 else if v.downCount = 1 then 1000000
      else if v.downCount = 2 then 10000000 else 100000000) }

/-! ### The loss of a link (R285, R293, R295, R325) -/

/-- A message that was lost with its port: the collective engine sends it again, at most three times, on another copy or a routed
path; any other command, or one whose resends are used up, fails with E_LINK_LOST. -/
def Device.loseMessage (d : Device) (m : Message) : Device :=
  match d.entry m.entry with
  | none => d.endMessages m.entry
  | some e =>
    let drop (d : Device) : Device := (d.failEntry e.id .eLinkLost).endMessages e.id
    if (e.op = .collective || e.op = .rethread) && m.resends < 3 then
      match d.routeTo m.target 1 with
      | some (p, _) =>
        { d with links := { d.links with messages := d.links.messages.map fun x =>
            if x.id = m.id then { x with port := p, resends := x.resends + 1 } else x } }
      | none => drop d
    else drop d

/-- Everything that was under way on a port is lost (R285); records of a difference stream return to its backlog (R295). -/
def Device.loseTraffic (d : Device) (p : Nat) : Device :=
  let v := d.port p
  let d := d.setPort p { v with retry := [], waiting := [], buffers := [], paths := [] }
  let d : Device := { d with jobs := d.jobs.map fun (x : Nat × Job) => (x.1, { x.2 with
    diff := x.2.diff.map fun s => s.resend p, draining := x.2.draining.map fun s => s.resend p }) }
  (d.links.messages.filter fun m => m.port = p).foldl Device.loseMessage d

/-- A port stops being ACTIVE, in the way that `f` says (R285, R287, R293): the event is raised, a notice is flooded if it was the last
copy to its neighbour, and its traffic is lost. -/
def Device.leaveActive (d : Device) (p : Nat) (f : Port → Port) : Device :=
  let was := (d.port p).lstate = 4
  let d := d.modPort p f
  if !was then d
  else
    let d := d.linkEvent p
    let d := match d.links.portTo p with
      | some n =>
        if d.reaches n then d
        else ({ d with links := { d.links with
                cuts := let k := cutKey d.links.coord n; if d.links.cuts.contains k then d.links.cuts else d.links.cuts ++ [k] } }).flood
              d.links.coord n true
      | none => d
    d.loseTraffic p

/-- A port becomes ACTIVE (R284, R287, R293, R296). -/
def Device.becomeActive (d : Device) (p epoch : Nat) : Device :=
  let first := match d.links.portTo p with | some n => !d.reaches n | none => false
  let d := d.modPort p fun v => { v.newEpoch epoch with lstate := 4, step := 0, downCount := 0 }
  let d := d.passReset 0 fun i => i / 8 = p
  let d := (d.linkEvent p).finishEnable p
  match d.links.portTo p with
  | some n =>
    let k := cutKey d.links.coord n
    if first && d.links.cuts.contains k then
      { d with links := { d.links with cuts := d.links.cuts.filter (· ≠ k) } }.flood d.links.coord n false
    else d
  | none => d

/-! ### Training (R287) -/

/-- Whether a port trains or runs: its lasers are on. -/
def Port.lit (v : Port) : Bool := v.state = .enabling || v.state = .enabled

/-- LASER_BIAS_DONE: step 1 ends. -/
def execLaserBiasDone (port : PortId) (ok : Bool) (s : State) : Out :=
  s.onClocked fun d =>
    let v := d.port port
    if !v.lit || v.step ≠ 1 then d
    else if ok then d.setPort port { v with step := 2 }
    else (d.setPort port (v.goDown causeLaser d.time)).finishEnable port

/-- LANE_ADAPT_DONE: step 2 ends, or fails for want of light or for the third time. -/
def execLaneAdaptDone (port : PortId) (outcome : AdaptOutcome) (s : State) : Out :=
  s.onClocked fun d =>
    let v := d.port port
    if !v.lit || v.step ≠ 2 then d
    else
      match outcome with
      | .adapted => d.setPort port { v with step := 3 }
      | .noLight => (d.setPort port (v.goDown causeNoSignal d.time)).finishEnable port
      | .failed =>
        if v.adaptFails + 1 < 3 then d.setPort port { v with adaptFails := v.adaptFails + 1 }
        else (d.setPort port (v.goDown causeAdapt d.time)).finishEnable port

/-- The identity record that this device sends on a port (R286). -/
def Device.identityRecord (d : Device) (p : Nat) : Bytes :=
  let l := d.links
  let spare := l.role = 1
  let (a, b, c) := coordABC l.coord
  let (dim, off, copy) := match l.slotOf p with
    | some s => s
    | none => (if networkPort p then 0 else 3, 0, 0)
  fit 64 (toLE 8 Config.deviceId ++ toLE 8 l.systemId ++ toLE 1 l.role
    ++ (if spare then zeros 4 ++ [0xFF, 0xFF, 0xFF] else toLE 1 l.dims ++ l.log2.flatMap (toLE 1) ++ toLE 1 a ++ toLE 1 b ++ toLE 1 c)
    ++ toLE 2 l.adoptGen ++ toLE 1 p ++ toLE 1 ((d.port p).epoch + 1) ++ toLE 1 dim ++ toLE 1 off ++ toLE 1 copy)

/-- FEC_LOCK: step 3 locks and the port enters IDENTITY, or the lock is lost. -/
def execFecLock (port : PortId) (locked : Bool) (s : State) : Out :=
  s.onClocked fun d =>
    let v := d.port port
    if !v.lit || v.step ≠ 3 then d
    else if locked then
      (d.setPort port { v with step := 4, lstate := 2, waitUntil := d.time + 100000000 }).sendRaw port (.identity (d.identityRecord port))
    else d.setPort port { v.train 2 with cause := causeFecLock }

/-- IDENTITY_RESEND: every 10 ms in IDENTITY, and every 1 s when MISWIRED or FENCED (R287, R288). A HELD port sends it as well, since
its peer must learn of an adoption on either side. -/
def execIdentityResend (port : PortId) (s : State) : Out :=
  s.onClocked fun d =>
    let v := d.port port
    if v.lit && [2, 3, 5, 6].contains v.lstate then d.sendRaw port (.identity (d.identityRecord port)) else d

/-- IDENTITY_TIMEOUT: no record within 1 s. -/
def execIdentityTimeout (port : PortId) (s : State) : Out :=
  s.onClocked fun d =>
    let v := d.port port
    if v.lit && v.lstate = 2 && v.waitUntil ≤ d.time then d.setPort port { v.train 2 with cause := causeIdentity } else d

/-- PORT_DOWN_RETRY: a port that is DOWN tries again from step 1. -/
def execPortDownRetry (port : PortId) (s : State) : Out :=
  s.onClocked fun d =>
    let v := d.port port
    if v.lit && v.lstate = 0 && v.waitUntil ≤ d.time && d.power.failing.isNone then d.setPort port (v.train 1) else d

/-! ### Identity (R288) -/

/-- What a peer's record makes of a port: 4 ACTIVE, or 3 HELD, 5 MISWIRED, 6 FENCED. On an auxiliary port check 3 is of SYSTEM_ID,
since the peer has no shape and its COORD is ignored (assumption 30, DEDUCED). A spare holds its network ports. -/
def Device.judgeIdentity (d : Device) (p : Nat) (b : Bytes) : Nat :=
  let l := d.links
  let v := d.port p
  let role := rd b 16 1
  let fenced := v.hasPeer && rd b 0 8 ≠ v.peerId && !serialLater 16 v.peerGen (rd b 24 2)
  if !networkPort p then
    if role ≠ 2 && role ≠ 3 then 5 else if rd b 8 8 ≠ l.systemId then 5 else if fenced then 6 else 4
  else if l.role = 1 || role = 1 then 3
  else if rd b 8 8 ≠ l.systemId || rd b 17 1 ≠ l.dims || [rd b 18 1, rd b 19 1, rd b 20 1] ≠ l.log2 then 5
  else
    match l.slotOf p with
    | none => 5
    | some (k, o, j) =>
      let (x, y, z) := coordABC (l.neighbour (k, o, j))
      if [rd b 21 1, rd b 22 1, rd b 23 1] ≠ [x, y, z]
          || [rd b 28 1, rd b 29 1, rd b 30 1] ≠ [k, 2 ^ l.log2.getD k 0 - o, j] then 5
      else if fenced then 6 else 4

/-- IDENTITY_RECEIVE. -/
def Device.identityReceive (d : Device) (p : Nat) (b : Bytes) : Device :=
  let v := d.port p
  if !v.lit || !([2, 3, 5, 6].contains v.lstate) then d
  else
    match d.judgeIdentity p b with
    | 4 =>
      let d := d.setPort p { v with hasPeer := true, peerId := rd b 0 8, peerGen := rd b 24 2 }
      d.becomeActive p (laterEpoch ((v.epoch + 1) % 256) (rd b 27 1))
    | n => (d.setPort p { v with lstate := n }).finishEnable p

/-- IDENTITY_RECEIVE. -/
def execIdentityReceive (port : PortId) (record : Bytes) (s : State) : Out :=
  s.onClocked fun d => d.identityReceive port (fit 64 record)

/-! ### Enable, disable and retrain (R241, R289, R406) -/

/-- An enable request for a port: training starts, or it is held while the port is DISABLING. `by_`: the command that asks. -/
def Port.requestEnable (v : Port) (by_ : Option Nat) : Port :=
  match v.state with
  | .disabled => { v.train 1 with state := .enabling, enabler := by_, downCount := 0 }
  | .disabling => { v with pendingBy := some by_ }
  | _ => v

/-- A port that has become DISABLED: its lasers are off. -/
def Port.disabled (v : Port) : Port :=
  { v with state := .disabled, lstate := 0, step := 0, cause := causeDisabled, enabler := none, pendingBy := none }

/-- A port becomes DISABLED, and the enable in its pending slot acts. -/
def Device.disablePort (d : Device) (p : Nat) : Device :=
  let held := (d.port p).pendingBy
  let d := d.leaveActive p Port.disabled
  match held with
  | some b => d.modPort p fun v => v.requestEnable b
  | none => d

/-- A disable request for a port (R289): from ENABLED it finishes its traffic first; while ENABLING it acts at once, and the command of
the abandoned enable is superseded. -/
def Device.portDisable (d : Device) (p : Nat) : Device :=
  let v := d.port p
  match v.state with
  | .enabled => d.setPort p { v with state := .disabling, disableAt := d.time + 100000 }
  | .enabling => (d.supersede (some v.enabler)).disablePort p
  | _ => d

/-- An enable request for a port. -/
def Device.portEnable (d : Device) (p : Nat) (by_ : Option Nat) : Device :=
  let d := if (d.port p).state = .disabling then d.supersede (d.port p).pendingBy else d
  d.modPort p fun v => v.requestEnable by_

/-- PORT_DISABLE_TIMEOUT: the retry buffer of a disabling port is empty, or 1 ms has passed. Assumption 117, DESIGN CHOICE. -/
def Device.portDisableDue (d : Device) (p : Nat) : Device :=
  let v := d.port p
  let quiet := v.retry.isEmpty && v.waiting.isEmpty && !d.links.messages.any fun m => m.port = p
  if v.state = .disabling && (quiet || v.disableAt ≤ d.time) then d.disablePort p else d

/-- PORT_DISABLE_TIMEOUT. -/
def execPortDisableTimeout (port : PortId) (s : State) : Out := s.onClocked fun d => d.portDisableDue port

/-- Whether a function may write the LINK block (R298). -/
def Device.mgmtWrites (d : Device) (f : Fn) : Bool := d.barOpen f && d.isMgmt f

/-- The BAR0 offset of LINK_PORT_CTL of a port (R298). -/
def portCtlOffset (p : Nat) : Nat := 0x81004 + 0x40 * p

/-- LINK_EN_REQ. -/
def execLinkEnReq (fn : Fn) (port : PortId) (s : State) : Out :=
  s.onAccess fn fun d => if d.mgmtWrites fn then d.portEnable port none else d.probe fn (portCtlOffset port)

/-- LINK_DIS_REQ. -/
def execLinkDisReq (fn : Fn) (port : PortId) (s : State) : Out :=
  s.onAccess fn fun d => if d.mgmtWrites fn then d.portDisable port else d.probe fn (portCtlOffset port)

/-- An ENABLED port restarts training at step 1, under R285 (R287, R298). -/
def Device.retrainPort (d : Device) (p : Nat) : Device :=
  if (d.port p).state = .enabled then d.leaveActive p fun v => v.train 1 else d

/-- RETRAIN. -/
def execRetrain (fn : Fn) (port : PortId) (s : State) : Out :=
  s.onAccess fn fun d => if d.mgmtWrites fn then d.retrainPort port else d.probe fn (portCtlOffset port)

/-- PORT_LINK_LOSS: an ACTIVE port loses its link and restarts at step 2 (R285, R287). CAUSE records NO_SIGNAL, as at the peer of a
disabled port (R289). Assumption 54, DESIGN CHOICE. -/
def execPortLinkLoss (port : PortId) (s : State) : Out :=
  s.onClocked fun d =>
    let v := d.port port
    if v.lstate = 4 then d.leaveActive port fun v => { v.train 2 with cause := causeNoSignal } else d

/-! ### Flits (R278 to R285, R292) -/

/-- The fields of a flit (R278). -/
structure FlitFields where
  vc     : Nat
  pos    : Nat
  kind   : Nat
  epoch  : Nat
  seq    : Nat
  ack    : Option Nat
  credVc : Nat
  credN  : Nat
  tag    : Nat
  len    : Nat
  dest   : Nat
  deriving DecidableEq, Repr

/-- Reads the header of a flit. -/
def flitFields (b : Bytes) : FlitFields :=
  let ctl := rd b 0 1
  let ack := rd b 4 2
  let cr := rd b 6 1
  let rt := rd b 8 4
  { vc := field ctl 7 5, pos := field ctl 4 3, kind := field ctl 2 0, epoch := rd b 1 1, seq := rd b 2 2 % 4096
    ack := if ack.testBit 15 then some (ack % 4096) else none, credVc := field cr 7 5, credN := field cr 4 0, tag := rd b 7 1 % 64
    len := field rt 31 28, dest := field rt 13 0 }

/-- Whether a flit passes its CRC check: the CRC, and the fields that R279 counts with it. -/
def flitGood (b : Bytes) (fecBad : Bool) : Bool :=
  let f := flitFields b
  !fecBad && crc32 (b.take 252) = rd b 252 4 && f.kind ≤ 3 && !(f.kind = 0 && rd b 6 1 ≠ 0)

/-- An acknowledgement leaves in the retry buffer what it does not cover (R280). -/
def Port.acked (v : Port) (seq : Nat) : Port :=
  let left := v.retry.filter fun f => !(f.seq = seq || serialLater 12 f.seq seq)
  { v with retry := left, replayCount := if left.length < v.retry.length then 0 else v.replayCount }

/-- Asks the peer for the next expected SEQ: for each flit that fails its CRC check, and once for the flits after it (R280; asking again is
assumption 117, DESIGN CHOICE). After 16 REPLAYs of one SEQ without progress the port leaves ACTIVE. -/
def Device.askReplay (d : Device) (p : Nat) (again : Bool) : Device :=
  let v := d.port p
  let same := v.askedSeq = some v.recvSeq
  if same && !again then d
  else if same && 16 ≤ v.asks then d.leaveActive p fun v => { v.train 2 with cause := causeRetryLimit }
  else
    let d := d.setPort p { v with
      askedSeq := some v.recvSeq, asks := if same then v.asks + 1 else 1, replays := satAdd 0xFFF v.replays 1 }
    d.sendOn p 0 (.replay v.recvSeq)

/-- Returns one credit of a VC to the peer later (R282). -/
def Port.owe (v : Port) (vc : Nat) : Port := { v with owed := v.owed.set vc (v.owed.getD vc 0 + 1) }

/-- Whether a VC may carry flits on a port (R294). -/
def vcAllowed (p vc : Nat) : Bool := networkPort p || [0, 6, 7].contains vc

/-- Whether a flit is for another device (R292). -/
def Device.passing (d : Device) (f : FlitFields) : Bool :=
  f.kind = 1 && (f.vc = 4 || f.vc = 5) && f.dest ≠ d.links.coord

/-- The copy that a flit of a routed message takes: the first flit of a message chooses it, and the others follow (R292). -/
def Device.copyOf (d : Device) (p : Nat) (f : FlitFields) : Option Nat :=
  let order := if f.vc = 4 then [0, 1, 2] else [2, 1, 0]
  if f.pos = 1 || f.pos = 3 then
    (hops order d.links.coord f.dest).head?.bind fun n => if d.isCut d.links.coord n then none else d.copyFor n f.vc
  else (((d.port p).paths.find? fun x => x.1 = f.vc).map fun x => x.2).bind fun q => if (d.port q).lstate = 4 then some q else none

/-- Notes the copy that a message in transit has taken, until its last flit (R292). -/
def Port.follow (v : Port) (f : FlitFields) (q : Nat) : Port :=
  let rest := v.paths.filter fun x => x.1 ≠ f.vc
  { v with paths := if f.pos = 1 || f.pos = 0 then rest ++ [(f.vc, q)] else rest }

/-- A flit for another device is passed on, on its VC and in its order (R292); one that meets a cut pair is discarded, and its source
is told (R293). `none`: it waits in its buffer for a credit. -/
def Device.forward (d : Device) (p : Nat) (f : FlitFields) (b : Bytes) : Option Device :=
  match d.copyOf p f with
  | some q => if (d.port q).canSend f.vc then some ((d.modPort p fun v => (v.owe f.vc).follow f q).sendOn q f.vc (.routed b)) else none
  | none => some ((d.modPort p fun v => v.owe f.vc).sendOn p 0 (.nack false))

/-- Whether the dye tag of a flit names no lot here, or one whose job is not the one that the flit's message is for (R283); `job`: that job, 0 where
the message is for none. -/
def Device.foreignFlit (d : Device) (tag job : Nat) : Bool := !(d.lot tag).valid || (job ≠ 0 && (d.job job).lot ≠ tag)

/-- A flit in sequence (R279, R282, R283): credits returned, and the flit taken. -/
def Device.takeFlit (d : Device) (p : Nat) (f : FlitFields) (b : Bytes) (job : Nat) : Device :=
  let d := d.modPort p fun v =>
    let c := v.credits.getD f.credVc 0
    { v with recvSeq := (v.recvSeq + 1) % 4096, askedSeq := none, asks := 0, heard := true, ackDue := true
             credits := v.credits.set f.credVc (min (fullCredits.getD f.credVc 0) (c + f.credN)) }
  let hold (d : Device) : Device := d.modPort p fun v => { v with buffers := v.buffers ++ [{ vc := f.vc, seq := f.seq, data := b }] }
  if f.kind = 2 then d
  else if f.kind = 1 then
    if !vcAllowed p f.vc then d.modPort p fun v => v.owe f.vc
    else if d.passing f then (d.forward p f b).getD (hold d)
    else if d.foreignFlit f.tag job then
      let d := d.modPort p fun v => { v.owe f.vc with tagDrop := satAdd 0xF v.tagDrop 1 }
      (d.raiseMgmt (srcPort p) 6 (zeros 8 ++ toLE 1 f.tag ++ toLE 1 (if (d.lot f.tag).valid then f.tag else 0x43))).sendOn p 0 (.nack true)
    else hold d
  else hold d

/-- FLIT_RECEIVE: the counts of its codewords (R277), and the checks of a flit in order: its CRC, its epoch, its SEQ (R279, R280, R284). A MISWIRED
or FENCED port takes no DATA or CREDIT flits, and a HELD one no DATA flits (R288). What the flit's credits and ACK allow goes out. -/
def Device.flitReceive (d : Device) (p : Nat) (b : Bytes) (fecBad : Bool) (corrected job : Nat) : Device :=
  let v := d.port p
  if v.lstate ≠ 4 then d
  else
    let d := d.setPort p { v with
      fecCorr := satAdd 0xFFFFFFFF v.fecCorr corrected, fecUncorr := satAdd 0xFF v.fecUncorr (b2n fecBad) }
    let f := flitFields b
    if !flitGood b fecBad then d.askReplay p true
    else if f.epoch ≠ v.epoch then d.modPort p fun v => { v with stale := satAdd 0xFF v.stale 1 }
    else
      let d := match f.ack with
        | some a => d.modPort p fun v => v.acked a
        | none => d
      if f.kind = 0 then d.pump p
      else if f.seq ≠ (d.port p).recvSeq then d.askReplay p false
      else (d.takeFlit p f b job).pump p

/-- FLIT_RECEIVE. -/
def execFlitReceive (port : PortId) (flit : ArrivedFlit) (fecBad : Bool) (corrected : Nat) (s : State) : Out :=
  s.onClocked fun d => d.flitReceive port (fit 256 flit.bytes) fecBad corrected flit.job

/-- REPLAY_RECEIVE: what the retry buffer holds from the SEQ named goes out again in order; after 16 REPLAYs of one SEQ without
progress the port leaves ACTIVE (R280). -/
def Device.replayReceive (d : Device) (p seq : Nat) : Device :=
  let v := d.port p
  if v.lstate ≠ 4 then d
  else
    let n := if v.replaySeq = seq then v.replayCount + 1 else 1
    if 16 ≤ n then d.leaveActive p fun v => { v.train 2 with cause := causeRetryLimit, replayCount := 0 }
    else
      let d := d.setPort p { v with replaySeq := seq, replayCount := n }
      let again := v.retry.filter fun f => f.seq = seq || serialLater 12 seq f.seq
      { d with links := { d.links with wire := d.links.wire ++ again.map fun f => (p, f.data) } }

/-- REPLAY_RECEIVE. -/
def execReplayReceive (port : PortId) (seq : Fin 4096) (s : State) : Out := s.onClocked fun d => d.replayReceive port seq

/-- What a tick of TIME does to a port: received flits move out of its buffers, the credits owed go to the peer, up to 31 of a VC in
one flit, the flits that wait go out as far as they may, and an ACK that none of them carries goes in an IDLE flit (R279, R280, R282). Assumption
117, DESIGN CHOICE. -/
def Device.tickPort (d : Device) (p : Nat) : Device :=
  let v := d.port p
  if v.lstate ≠ 4 then d
  else
    let d := v.buffers.foldl (fun (d : Device) h =>
      let f := flitFields h.data
      let keep (d : Device) : Device := d.modPort p fun v => { v with buffers := v.buffers ++ [h] }
      if d.passing f then (d.forward p f h.data).getD (keep d) else d.modPort p fun v => v.owe h.vc) (d.setPort p { v with buffers := [] })
    let v := d.port p
    let d := d.setPort p { v with owed := v.owed.map fun n => n - min n 31 }
    let d := (v.owed.zipIdx.foldl (fun d x => if x.1 = 0 then d else d.sendOn p 0 (.credits x.2 (min x.1 31))) d).pump p
    let v := d.port p
    if !v.ackDue then d
    else
      let idle : OutFlit := { vc := 0, kind := 0 }
      let d := d.setPort p { v with ackDue := false }
      { d with links := { d.links with wire := d.links.wire ++ [(p, idle.encode v.epoch 0 v.ack)] } }

/-! ### Notices (R293) -/

/-- CUT_PAIR_NOTICE: the table is updated; news are passed on. -/
def execCutPairNotice (a b : Nat) (cut : Bool) (s : State) : Out :=
  s.onClocked fun d =>
    let k := cutKey (a % 2 ^ 14) (b % 2 ^ 14)
    if cut = d.links.cuts.contains k then d
    else
      ({ d with links := { d.links with cuts := if cut then d.links.cuts ++ [k] else d.links.cuts.filter (· ≠ k) } }).flood k.1 k.2 cut

/-- MESSAGE_NACK: a routed message met a cut pair and fails at its source (R293), or its target discarded it under R283.
Assumption 64, DESIGN CHOICE. -/
def execMessageNack (nack : Nack) (s : State) : Out :=
  s.onClocked fun d =>
    match d.links.messages.find? fun m => m.id = nack.message with
    | some m => (d.failEntry m.entry (if nack.foreign then .eTagViolation else .eLinkLost)).endMessages m.entry
    | none => d

end Sys2Proof.Machine
end

