-- ==== Sys2Proof/Machine/Watch.lean ====
section
/-!
DEFINITION. The numerics watch: WATCH_CONFIG, the counting of written elements, ratios and events (R431 to R435).
-/
namespace Sys2Proof.Machine

/-! ### Counting (R432) -/

/-- Whether a stored element pattern is ±0. -/
def Format.zeroBits (f : Format) (v : Nat) : Bool :=
  match f.mxElem <|> f.spec with
  | some s => fIsZero s v
  | none => v = 0

/-- Whether a stored element pattern is an infinity or a NaN. -/
def Format.nonfiniteBits (f : Format) (v : Nat) : Bool :=
  match f.mxElem, f.spec with
  | some s, _ => fNonfinite s v
  | none, some s => fNonfinite s v
  | none, none => false

/-- The watch counts of the elements in a range of bytes of a tensor, from the tensor's committed content (R432). -/
def Device.rangeCounts (d : Device) (t : Tensor) (off len : Nat) : WatchCounts :=
  let planes := planesOf t.fmt t.dims t.block16 t.sparsity
  let plane := planes.getD 0 (0, 0)
  let scales := (planes.getD 2 (0, 0)).1
  let w := t.fmt.bits
  let hi := min (off + len) plane.2
  let first := ceilDiv (8 * off) w
  let last := 8 * hi / w
  let one (k : Nat) : Bool × Bool :=
    let i := first + k
    let v := leNat (d.readExtents t.extents (w * i / 8) (w / 8 + 1)) / 2 ^ (w * i % 8) % 2 ^ w
    let logical := if t.sparsity = 1 then 2 * i else i
    let nanBlock := t.fmt.isMx && d.readExtents t.extents (scales + logical / t.blockSize) 1 = [0xFF]
    (!nanBlock && t.fmt.zeroBits v, nanBlock || t.fmt.nonfiniteBits v)
  let es := (List.range (last - first)).map one
  let n := es.length
  let holes := if t.sparsity = 1 then n else 0
  { written := n + holes, zeros := (es.filter fun e => e.1).length + holes, nonfinite := (es.filter fun e => e.2).length }

/-- The sum of two counts. -/
def WatchCounts.plus (a b : WatchCounts) : WatchCounts :=
  { written := a.written + b.written, zeros := a.zeros + b.zeros, saturated := a.saturated + b.saturated
    nonfinite := a.nonfinite + b.nonfinite }

/-! ### Events (R434) -/

/-- A WATCH event of a watch: at most one per cause and window. -/
def Device.fireWatch (d : Device) (key : Nat) (t : Tensor) (cause step : Nat) : Device :=
  match Tab.find d.observe.watches key with
  | none => d
  | some w =>
    if w.raised.contains cause then d
    else
      let d := { d with observe := { d.observe with watches := Tab.insert { w with raised := w.raised ++ [cause] } d.observe.watches key } }
      d.raiseLot srcWatch 0x0D (tensorLot key)
        (toLE 4 (t.handle key) ++ toLE 1 cause ++ zeros 3 ++ toLE 8 (if w.step then step else 0))

/-- Adds counts to a watch, and raises what they give cause for. Assumption 23, DESIGN CHOICE. -/
def Device.addWatch (d : Device) (key : Nat) (t : Tensor) (step : Nat) (c : WatchCounts) : Device :=
  match Tab.find d.observe.watches key with
  | none => d
  | some w =>
    let late := w.step && step ≤ w.window
    let w := if late then { w with before := w.before.plus c } else { w with now := w.now.plus c }
    let n := if late then w.before else w.now
    let d := { d with observe := { d.observe with watches := Tab.insert w d.observe.watches key } }
    let beyond (count limit : Nat) : Bool := limit ≠ 0xFFFF && count * 65536 > limit * n.written
    let fire (d : Device) (c : Bool) (cause : Nat) : Device := if c && !late then d.fireWatch key t cause step else d
    fire (fire (fire d (beyond n.zeros w.zeroMax) 0) (beyond n.saturated w.satMax) 1) (beyond n.nonfinite w.nfMax) 2

/-- The counts of a committed command, for every watched tensor that it wrote or whose working copy it narrowed (R84, R432). Its saturations
are those of its unscaled FP8 tensors (assumption 24, DESIGN CHOICE). -/
def Device.countWritten (d : Device) (e : Entry) : Device :=
  let d := e.narrowed.foldl (fun d n =>
    match d.tensor n.1 with
    | some t => if n.2 = 0 then d else d.addWatch n.1 t e.step { saturated := n.2 }
    | none => d) d
  let keys := (e.written.map fun w => w.1).eraseDups
  keys.foldl (fun d key =>
    match d.tensor key, Tab.find d.observe.watches key with
    | some t, some _ =>
      let c := (e.written.filter fun w => w.1 = key).foldl (fun (c : WatchCounts) w => c.plus (d.rangeCounts t w.2.1 w.2.2)) {}
      let c := if t.fmt = .e4m3 || t.fmt = .e5m2 then { c with saturated := e.saturated } else c
      d.addWatch key t e.step c
    | _, _ => d) d

/-- The ratio of a PARAMETER tensor when the norms of a step are complete (R433, R434). A NaN ratio is a non-finite cause
(assumption 25, DEDUCED). -/
def Device.watchRatio (d : Device) (key : Nat) (t : Tensor) (step uNorm wNorm : Nat) : Device :=
  match Tab.find d.observe.watches key with
  | none => d
  | some w =>
    let nf := fNonfinite fp32 uNorm || fNonfinite fp32 wNorm
    let ratio := if nf then fp32.canonNan
      else if fIsZero fp32 wNorm then (if fIsZero fp32 uNorm then 0 else 0x7F800000)
      else fDiv fp32 uNorm wNorm
    let d := { d with observe := { d.observe with
      watches := Tab.insert { w with ratio := ratio, uNorm := uNorm, wNorm := wNorm, nfNorm := nf } d.observe.watches key } }
    let low := w.ratioMin ≠ 0
    let high := w.ratioMax ≠ 0x7F800000
    if nf then (if low || high then d.fireWatch key t 2 step else d)
    else if low && f32lt ratio w.ratioMin then d.fireWatch key t 3 step
    else if high && f32lt w.ratioMax ratio then d.fireWatch key t 4 step
    else d

/-- At the STEP_COMMIT of a step the STEP watches of the job latch their window (R432). -/
def Device.latchWatches (d : Device) (job step : Nat) : Device :=
  { d with observe := { d.observe with
      watches := d.observe.watches.map fun (x : Nat × Watch) =>
        if x.2.step && x.2.job = job then (x.1, { x.2 with before := x.2.now, now := {}, window := step, raised := [] }) else x } }

/-! ### WATCH_CONFIG (R431, R435) -/

/-- Watches that a lot holds. -/
def Device.watchesOf (d : Device) (tag : Nat) : Nat := (d.observe.watches.filter fun w => tensorLot w.1 = tag).length

/-- Tensors that staged commands of a lot, other than one, will watch (R431). -/
def Device.newWatches (d : Device) (id tag : Nat) : List Nat :=
  let es := d.journal.filter fun e => e.id ≠ id && e.lot = tag && e.op = .watchConfig && e.phase = .staged && e.param 20 1 = 1
  ((es.map fun e => tensorKeyOf tag (e.param 16 4 % 2 ^ 24)).eraseDups).filter fun k => (Tab.find d.observe.watches k).isNone

/-- The record of a query (R435). -/
def Watch.record (w : Watch) (handle : Nat) : Bytes :=
  let c := if w.step then w.before else w.now
  toLE 4 handle ++ toLE 4 (b2n w.step + 2 * b2n w.nfNorm) ++ toLE 8 (if w.step then w.window else 0) ++ toLE 8 c.written
    ++ toLE 8 c.zeros ++ toLE 8 c.saturated ++ toLE 8 c.nonfinite ++ toLE 4 w.ratio ++ toLE 4 w.uNorm ++ toLE 4 w.wNorm ++ zeros 4

/-- WATCH_CONFIG. A query of a tensor without a watch fails with E_PARAM (assumption 26, DESIGN CHOICE). -/
def watchConfigBody (e : Entry) (d : Device) : Res (Nat × Nat × Device) := do
  let (key, t) ← d.find e (e.param 16 4)
  let action := e.param 20 1
  let lo := e.param 28 4
  let hi := e.param 32 4
  let old := Tab.find d.observe.watches key
  check (action ≤ 2 && e.param 21 1 ≤ 1) .eParam d
  if action = 1 then
    check (old.isSome || d.watchesOf e.lot + ((d.newWatches e.id e.lot).filter (· ≠ key)).length < 256) .eQuota d
    check (e.param 21 1 = 1 || (d.stream e.stream).job ≠ 0) .eParam d
    check (t.param || (lo = 0 && hi = 0x7F800000)) .eParam d
    check (!(decodeF fp32 lo).isNan && !(decodeF fp32 hi).isNan && !f32lt hi lo) .eParam d
    pure (0, 0, d)
  else if action = 2 then
    let (rk, r) ← d.find e (e.param 36 4)
    let w ← need old .eParam d
    check (r.fmt = .uint8 && 64 ≤ r.count) .eParam d
    let d ← d.claim e [(rk, 0, 64)]
    let d ← d.putTensor e rk 0 (w.record (t.handle key))
    pure (0, 0, d)
  else pure (0, 0, d)

/-- The commit of a WATCH_CONFIG: a set replaces the thresholds and zeroes the counts. -/
def commitWatch (e : Entry) (d : Device) : Device :=
  let key := tensorKeyOf e.lot (e.param 16 4 % 2 ^ 24)
  let put (t : Table Watch) : Device := { d with observe := { d.observe with watches := t } }
  match e.param 20 1 with
  | 0 => put (Tab.erase d.observe.watches key)
  | 1 =>
    let job := (d.stream e.stream).job
    let w : Watch :=
      { step := e.param 21 1 = 0, job := job, zeroMax := e.param 22 2, satMax := e.param 24 2, nfMax := e.param 26 2
        ratioMin := e.param 28 4, ratioMax := e.param 32 4, window := (d.job job).counter }
    put (Tab.insert w d.observe.watches key)
  | _ => d

/-- WATCH_CONFIG. -/
def execWatchConfig (stream : StreamId) (s : State) : Out := s.onDev fun d => d.runOp stream .watchConfig watchConfigBody

end Sys2Proof.Machine
end

