-- ==== Sys2Proof/Machine/Steps.lean ====
section
/-!
DEFINITION. The close of a job step: STEP_COMMIT (R263, R264, R267), the norms (R163 to R165), the securing interval and passes
(R332, R336, R337), digest splits (R340), DIGEST_CHECK (R266).
-/
namespace Sys2Proof.Machine

/-! ### DIGEST_CHECK (R266) -/

/-- The tensors of a DIGEST_CHECK: one by key, or all of the job's. -/
def digestKeys (e : Entry) (d : Device) : List Nat :=
  if e.param 16 4 = 0 then (d.paramsOf e.lot (d.stream e.stream).job).map fun t => t.1
  else [tensorKeyOf e.lot (e.param 16 4 % 2 ^ 24)]

/-- DIGEST_CHECK. A query returns the last step at which a named tensor was compared, and the shards repaired, which it clears.
Assumption 121, DESIGN CHOICE. -/
def digestCheckBody (e : Entry) (d : Device) : Res (Nat × Nat × Device) := do
  let j := d.job (d.stream e.stream).job
  let action := e.param 24 1
  check (action ≤ 2) .eParam d
  check (action ≠ 0 || e.param 20 4 ≤ 65535) .eParam d
  if e.param 16 4 ≠ 0 then
    let (_, t) ← d.find e (e.param 16 4)
    check (t.param && t.job = (d.stream e.stream).job) .eParam d
  let keys := digestKeys e d
  let mended := (keys.map fun k => Tab.look 0 j.repaired k).sum
  let last := (keys.map fun k => Tab.look 0 j.compared k).foldl max 0
  pure (if action = 2 then (mended % 2 ^ 32, last, d) else (0, 0, d))

/-- The commit of a DIGEST_CHECK: the period of the named tensors, or a comparison forced at the next STEP_COMMIT. -/
def commitDigest (e : Entry) (d : Device) : Device :=
  let job := (d.stream e.stream).job
  let j := d.job job
  let keys := digestKeys e d
  match e.param 24 1 with
  | 0 =>
    if e.param 16 4 = 0 then d.setJob job { j with digestPeriod := e.param 20 4, digestOf := [] }
    else d.setJob job { j with digestOf := keys.foldl (fun l k => Tab.insert (e.param 20 4) l k) j.digestOf }
  | 1 => d.setJob job { j with digestForce := keys.foldl (fun l k => if l.contains k then l else l ++ [k]) j.digestForce }
  | _ => d.setJob job { j with repaired := keys.foldl Tab.erase j.repaired }

/-- DIGEST_CHECK. -/
def execDigestCheck (stream : StreamId) (s : State) : Out := s.onDev fun d => d.runOp stream .digestCheck digestCheckBody

/-- Whether a comparison of a tensor is due at a step. -/
def Job.digestDue (j : Job) (key step : Nat) : Bool :=
  let k := (Tab.find j.digestOf key).getD j.digestPeriod
  j.digestForce.contains key || (k ≠ 0 && step % k = 0)

/-! ### Digest comparison (R267, R340) -/

/-- The digest that more than half of the replicas hold. -/
def majority (ds : List Nat) : Option Nat := ds.find? fun x => 2 * (ds.filter (· = x)).length > ds.length

/-- Writes a committed master in place of what stands. -/
def Device.putMasterNow (d : Device) (key shard : Nat) (bytes : Bytes) : Device :=
  match d.tensor key with
  | none => d
  | some t =>
    ((t.masterSpans (d.partsOf key t) shard).foldl (fun (acc : Device × Bytes) (s : Nat × Nat) =>
      (acc.1.writeExtents t.extents s.1 (acc.2.take s.2), acc.2.drop s.2)) (d, bytes)).1

/-- A shard rebuilt from an image as a new version with INIT, at a given step (R339, R340). -/
def Shard.rebuilt (s : Shard) (t : Tensor) (i : ShardImage) (step : Nat) : Shard :=
  let v := nextVersion s.version
  { s with
    version := v, flags := recordFlags false true s.version v, step := step, updates := i.updates
    digest := shardDigest t i.master i.comp, comp := i.comp, moment := i.moment, sketch := i.sketch, split := false }

/-- What a digest split does to one shard: a MIRROR shard returns to its frozen copy of the secured step, another is marked SPLIT (R340). A
MIRROR shard that no secured pass has frozen is marked SPLIT as well (assumption 27, DEDUCED). -/
def Device.splitShard (d : Device) (key : Nat) (t : Tensor) (shard : Nat) : Device :=
  let s := d.shardOf key shard
  match (if d.isMirror key t then s.frozen.find? fun i => some i.step = (d.job t.job).secured else none) with
  | some i =>
    let old := d.oldPlanes key shard
    (d.putMasterNow key shard i.master).flipShard .rewind { tensor := key, index := shard, shard := s.rebuilt t i s.step } old
  | none => d.setShard key shard { s with split := true }

/-- One comparison: nothing, a repair staged from the majority, or a split. -/
def Device.compareShard (d : Device) (e : Entry) (key : Nat) (shard : Nat) (rs : List ReplicaDigest) :
    Res (Device × Bool) := do
  let s := d.shardOf key shard
  let ds := s.digest :: rs.map fun r => r.digest
  match majority ds with
  | none => pure (d, true)
  | some m =>
    if s.digest = m then pure (d, false)
    else
      match rs.find? fun r => r.digest = m with
      | none => pure (d, false)
      | some r =>
        let t ← need (d.tensor key) .eHandle d
        let d ← d.claim e (d.masterRanges key t [shard])
        let d ← d.putMaster e key shard r.image.master
        let i := r.image
        let n : Shard := { s with
          version := i.version, flags := i.flags, step := i.step, updates := i.updates, digest := m, time := i.time, comp := i.comp
          moment := i.moment, sketch := i.sketch, gathered := [] }
        let (xs, d) ← d.takeCopy e n.stateBytes
        let n := { n with extents := xs }
        pure (d.modEntry e.id fun e => { e with shards := e.shards ++ [{ tensor := key, index := shard, shard := n, acked := true }] }, false)

/-! ### STEP_COMMIT -/

/-- Owned shards of a job's PARAMETER tensors. -/
def Device.jobShards (d : Device) (lot job : Nat) : List (Nat × Tensor × Nat) :=
  (d.paramsOf lot job).flatMap fun t => (d.ownedShards t.1 t.2).map fun i => (t.1, t.2, i)

/-- STEP_COMMIT: it waits for its shards and for the box, and compares the digests that are due (R263, R264, R267). -/
def stepCommitBody (input : StepInput) (e : Entry) (d : Device) : Res (Nat × Nat × Device) := do
  let job := (d.stream e.stream).job
  let j := d.job job
  let s := e.param 16 8
  check (s = j.counter + 1) .eStepOrder d
  let mine := d.jobShards e.lot job
  if mine.any fun x => (d.shardOf x.1 x.2.2).step < s then waitFor .gradient d
  else if input.counters.length + 1 < j.size then waitFor .peers d
  else
    let cur ← need (d.entry e.id) .eHandle d
    let due := if cur.ran then [] else mine.filterMap fun x =>
      if j.digestDue x.1 s then
        (input.replicas.find? fun r => r.1 = x.2.1.handle x.1 && r.2.1 = x.2.2).map fun r => (x, r.2.2)
      else none
    let (d, splits) ← due.foldlM (fun (acc : Device × List (Nat × Tensor × Nat)) x => do
      let (d, sp) ← acc.1.compareShard e x.1.1 x.1.2.2 x.2
      pure (d, if sp then acc.2 ++ [x.1] else acc.2)) (d, [])
    if !splits.isEmpty then
      failWith .eDigestSplit (splits.foldl (fun d x => d.splitShard x.1 x.2.1 x.2.2) d)
    else
      let skipped := (mine.filter fun x => (d.shardOf x.1 x.2.2).flags.testBit 0).length
      pure (mine.length, skipped, d.modEntry e.id fun e => { e with stepInput := input, ran := true })

/-- STEP_COMMIT. -/
def execStepCommit (stream : StreamId) (input : StepInput) (s : State) : Out :=
  s.onDev fun d => d.runOp stream .stepCommit (stepCommitBody input)

/-- The repairs of a STEP_COMMIT, installed in one write each with the step record of the majority, with their events (R267). -/
def Device.commitRepairs (d : Device) (e : Entry) (old : List (Nat × List (Nat × Bytes))) : Device :=
  let job := (d.stream e.stream).job
  let d := (e.shards.zip old).foldl (fun d y =>
    let x := y.1
    match d.tensor x.tensor with
    | none => d
    | some t =>
      let cur := d.shardOf x.tensor x.index
      let new := { x.shard with pins := cur.pins, frozen := cur.frozen, held := cur.held, retained := cur.retained, amax := cur.amax }
      ((d.setShard x.tensor x.index new).exportShard x.tensor t x.index y.2.1 y.2.2).stateEvent (tensorLot x.tensor) (t.handle x.tensor) x.index 2) d
  let n := e.shards.foldl (fun t x => Tab.put 0 (Tab.look 0 t x.tensor + 1) t x.tensor) (d.job job).repaired
  d.setJob job { d.job job with repaired := n }

/-! ### Norms (R163 to R165) -/

/-- The norms of a tensor at a step: G, U and W, and how many shards they combine. -/
def Device.tensorNorms (d : Device) (input : StepInput) (key : Nat) (t : Tensor) : Nat × Nat × Nat × Nat :=
  let p := d.partsOf key t
  let total := if t.expert then p * t.dims.getD 2 1 else p
  let owned := d.ownedShards key t
  let part (i : Nat) : Option (Nat × Nat × Nat) :=
    if owned.contains i then some (d.shardOf key i).norms
    else (input.norms.find? fun n => n.1 = t.handle key && n.2.1 = i).map fun n => n.2.2
  let ps := (List.range total).filterMap part
  let norm (f : Nat × Nat × Nat → Nat) : Nat := fSqrt fp32 (treeSum (ps.map f))
  (norm fun x => x.1, norm fun x => x.2.1, norm fun x => x.2.2, ps.length)

/-- A record of a NORMS ring (R164). -/
def normsRecord (handle step g u w n : Nat) : Bytes :=
  let bad := fNonfinite fp32 g || fNonfinite fp32 u || fNonfinite fp32 w
  toLE 4 handle ++ toLE 4 (b2n bad) ++ toLE 8 step ++ toLE 4 w ++ toLE 4 g ++ toLE 4 u ++ toLE 4 n

/-- Writes one record into the NORMS ring of a context. -/
def Device.writeNorms (d : Device) (ctx : Nat) (rec : Bytes) : Device :=
  match Tab.find d.solver.contexts ctx, d.tensor (ctx / 2 ^ 16) with
  | some c, some t =>
    let size := t.count
    if size = 0 then d
    else
      let d := d.writeCommitted t c.ringPos rec (ctx / 2 ^ 40) 3
      { d with solver := { d.solver with contexts := Tab.insert { c with ringPos := (c.ringPos + 32) % size } d.solver.contexts ctx } }
  | _, _ => d

/-- The norms of a closed step: the records of every NORMS context of the job, and the ratios of the watches. -/
def Device.stepNorms (d : Device) (input : StepInput) (lot job step : Nat) : Device :=
  let rings := (d.solver.contexts.filter fun c => c.1 / 2 ^ 40 = lot && c.2.kind = 4 && c.2.enable &&
    match d.tensor (c.1 / 2 ^ 16) with | some t => t.job = job | none => false).map fun c => c.1
  (d.paramsOf lot job).foldl (fun d t =>
    let (g, u, w, n) := d.tensorNorms input t.1 t.2
    let d := rings.foldl (fun d c => d.writeNorms c (normsRecord (t.2.handle t.1) step g u w n)) d
    d.watchRatio t.1 t.2 step u w) d

/-! ### The securing interval (R332, R337) -/

/-- τ of R337, in FP64. -/
def securingInterval (mDev tbar cost n q f : Nat) : Nat :=
  let fl (v : Nat) : Nat := fOfInt fp64 v
  let c := fDiv fp64 (fl cost) (fl tbar)
  let prior := fDiv fp64 (fDiv fp64 (fMul fp64 (fl mDev) (fl 360000000000)) (fl tbar)) (fl n)
  let m := fDiv fp64 (fAdd fp64 prior (fl q)) (fl (1 + f))
  let r := fSqrt fp64 (fMul fp64 (fMul fp64 (fl 2) c) m)
  (toIntRange true 1 10000 (decodeF fp64 r)).1.toNat |> max 1

/-- The changed share of a tensor that this device has measured (R332): the largest mean over its shards. -/
def Device.ownShare (d : Device) (key : Nat) (t : Tensor) : Nat :=
  (d.ownedShards key t).foldl (fun m i =>
    let l := (d.shardOf key i).changed
    max m (if l.isEmpty then 0 else l.sum / l.length)) 0

/-- The method that an automatic tensor should have (R331, R332), given the one it has. -/
def autoMethod (t : Tensor) (share now : Nat) : Nat :=
  if t.masterSize ≤ 64 * 2 ^ 20 then 1
  else if share ≥ 16384 then 1
  else if now = 1 && share * 5 ≥ 65536 then 1
  else 2

/-- The method in force for a tensor, 1 MIRROR or 2 SECURE. -/
def Device.methodOf (d : Device) (key : Nat) (t : Tensor) : Nat := if d.isMirror key t then 1 else 2

/-- t̄ of R337 as this device measures it, in whole ticks (assumption 149, DESIGN CHOICE). -/
def Job.meanStep (j : Job) : Nat := if j.durations.isEmpty then 0 else j.durations.sum / j.durations.length

/-- C_t of R337 as this device measures it: what the steps that overlapped the last durable pass took beyond t̄, not below 0. -/
def Job.passCost (j : Job) (tbar : Nat) : Nat := j.costSteps.sum - j.costSteps.length * tbar

/-- A STEP_COMMIT ends the measurement of a step: it overlapped a pass that was open when it began (R336, R337). -/
def Job.measure (j : Job) (time : Nat) : Job :=
  match j.stepAt with
  | none => { j with stepAt := some time }
  | some t0 =>
    let took := time - t0
    let steps := j.passSteps ++ [took]
    let j := { j with stepAt := some time }
    if !j.passRan then { j with durations := ((took :: j.durations).take 1000) }
    else if j.passOpen.isSome then { j with passSteps := steps }
    else { j with passSteps := [], costSteps := if j.durable = j.lastPass then steps else j.costSteps }

/-- The recomputation of τ, with the agreement on changed shares (R332, R337). -/
def Device.recompute (d : Device) (input : StepInput) (lot job step : Nat) : Device :=
  let j := d.job job
  if step % 1000 ≠ 0 && !j.failureNew then d
  else
    let tbar := max j.meanStep input.tbar
    let cost := if j.durable = 0 then tbar else max (j.passCost tbar) input.cost
    let tau := securingInterval j.devMtbf tbar cost j.size step j.failures
    let auto := (d.paramsOf lot job).foldl (fun l t =>
      let share := max (d.ownShare t.1 t.2) ((Tab.find input.shares (t.2.handle t.1)).getD 0)
      Tab.insert (autoMethod t.2 share (d.methodOf t.1 t.2)) l t.1) []
    d.setJob job { j with tau := tau, cost := cost, auto := auto, failureNew := false }

/-! ### Securing passes (R336) -/

/-- Whether a step is a securing point (R336 to R339). -/
def Job.securingPoint (j : Job) (step : Nat) : Bool := j.secureNext || (j.tau ≠ 0 && j.lastPass + j.tau ≤ step)

/-- The method that a tensor is to have from a securing point on (R331, R332, R350). -/
def Job.wanted (j : Job) (key : Nat) (t : Tensor) : Nat :=
  if j.recovery = 1 then 2
  else match Tab.find j.methods key with
    | some m => m
    | none => (Tab.find j.auto key).getD (if t.masterSize ≤ 64 * 2 ^ 20 then 1 else 2)

/-- The frozen copy of a shard: a reference to its committed planes. It stands beside that of the secured step, and one of an abandoned pass goes
(R336). -/
def Device.freeze (d : Device) (key shard : Nat) : Device :=
  let s := d.shardOf key shard
  let i := { d.imageOf key shard (d.masterOf key shard) s with
    retained := none, held := none, amax := [], gathered := [], extents := d.masterExtents key shard ++ s.extents }
  d.setShard key shard { s with
    frozen := (s.frozen.filter fun f => some f.step = (match d.tensor key with | some t => (d.job t.job).secured | none => none)) ++ [i] }

/-- The FULL records of a shard for a pass: every plane, whatever PLANES says (R336). -/
def Device.passRecords (d : Device) (tag key : Nat) (t : Tensor) (shard : Nat) : List DiffRecord :=
  let s := d.shardOf key shard
  shardRecords tag (t.handle key) shard 31 s (s.planes t (d.masterOf key shard)) (fun _ => true) 0 []

/-- Freezes a job's data cursors at a step (R336). -/
def Device.freezeCursors (d : Device) (job step : Nat) : Device :=
  let j := d.job job
  let now := j.cursors.filterMap fun k => (d.tensor k).map fun t => (step, k, d.readExtents t.extents 0 t.size)
  d.setJob job { j with frozen := (j.frozen.filter fun f => some f.1 = j.secured || f.1 = j.lastPass) ++ now }

/-- A securing pass of a step (R332, R336, R350): the methods wanted take effect, shards and cursors are frozen, and the records of
the SECURE shards go to the difference stream. Without one, the pass is skipped. -/
def Device.securingPass (d : Device) (lot job step : Nat) : Device :=
  let j := d.job job
  let recovery := j.nextRecovery.getD j.recovery
  let j := { j with recovery := recovery, nextRecovery := none }
  let ps := d.paramsOf lot job
  let turn (acc : List (Nat × Nat) × List (Nat × Nat)) (t : Nat × Tensor) : List (Nat × Nat) × List (Nat × Nat) :=
    let want := j.wanted t.1 t.2
    let now := d.methodOf t.1 t.2
    if now = 1 && want = 2 then (Tab.insert 1 acc.1 t.1, if acc.2.any fun l => l.1 = t.1 then acc.2 else acc.2 ++ [(t.1, step)])
    else (Tab.insert want acc.1 t.1, acc.2.filter fun l => l.1 ≠ t.1)
  let (active, leaving) := ps.foldl turn (j.active, j.leaving)
  let j := { j with active := active, leaving := leaving, lastPass := step, secureNext := false }
  let d := d.setJob job j
  let secure := (d.jobShards lot job).filter fun x => !d.isMirror x.1 x.2.1 || leaving.any fun l => l.1 = x.1
  if !secure.isEmpty && j.diff.isNone then
    d.raiseLot srcSecuring 0x0B lot (toLE 8 d.links.coord ++ toLE 2 d.links.adoptGen ++ toLE 1 2)
  else
    let d := (d.jobShards lot job).foldl (fun d x => d.freeze x.1 x.2.2) d
    let d := d.freezeCursors job step
    let d : Device := { d with mirrorFrozen :=
      (d.mirrorFrozen.filter fun m => some m.1 = j.secured) ++ (d.mirrors.filter fun i => tensorLot i.handle = lot).map fun i => (step, i) }
    let tag := match j.diff with | some s => s.settings.tag | none => 0
    let d := d.setJob job { d.job job with passOpen := some step, passSteps := [] }
    d.pushRecords job (secure.flatMap fun x => d.passRecords tag x.1 x.2.1 x.2.2)

/-- The job's secured step advances to the least durable step of the box: earlier references and frozen copies are released, and
tensors that were leaving MIRROR are mirrored no more (R332, R336). -/
def Device.advanceSecured (d : Device) (input : StepInput) (lot job : Nat) : Device :=
  let j := d.job job
  let s := input.durable.foldl min j.durable
  if s = 0 || input.durable.length + 1 < j.size || some s = j.secured then d
  else
    let gone := j.leaving.filter fun l => l.2 ≤ s
    let active := gone.foldl (fun a l => Tab.insert 2 a l.1) j.active
    let d := d.setJob job { j with
      secured := some s, active := active, leaving := j.leaving.filter fun l => s < l.2, frozen := j.frozen.filter fun f => s ≤ f.1 }
    let d := { d with mirrorFrozen := d.mirrorFrozen.filter fun m => tensorLot m.2.handle ≠ lot || s ≤ m.1 }
    { d with shards := d.shards.map fun (x : Nat × Shard) =>
        match d.tensor (x.1 / 2 ^ 32) with
        | some t => if t.job = job then (x.1, { x.2 with frozen := x.2.frozen.filter fun i => s ≤ i.step }) else x
        | none => x }

/-! ### The commit of a STEP_COMMIT -/

/-- Held previous versions end with the job committed step, and the references of pins and what this user pinned with the step (R260, R264). -/
def Device.releaseHeld (d : Device) (job jobStep step : Nat) : Device :=
  { d with
    shards := d.shards.map fun (x : Nat × Shard) =>
      match d.tensor (x.1 / 2 ^ 32) with
      | some t =>
        if t.job = job then
          let s := x.2.unpin fun u => u.2 ≤ step
          (x.1, { s with held := if s.step ≤ jobStep then none else s.held })
        else x
      | none => x
    mirrors := d.mirrors.map fun i =>
      match d.tensor i.handle with
      | some t => if t.job = job && i.step ≤ jobStep then { i with held := none } else i
      | none => i
    regathers := d.regathers.filter fun r =>
      match d.tensor r.1 with
      | some t => t.job ≠ job || step < r.2.2.1
      | none => false }

/-- The end of a step in the difference stream: STEP_END, and the changes that waited for it (R268, R269). -/
def Device.endStep (d : Device) (job step : Nat) : Device :=
  match (d.job job).diff with
  | none => d
  | some s =>
    let d := d.pushRecords job [stepEnd s.settings.tag step]
    let j := d.job job
    let (go, ended) := match j.diff with | some s => s.settle | none => (none, none)
    d.setJob job { j with diff := go, draining := j.draining ++ ended.toList }

/-- The commit of a STEP_COMMIT (R263, R264, R332, R336, R337). -/
def commitStep (e : Entry) (old : List (Nat × List (Nat × Bytes))) (d : Device) : Device :=
  let job := (d.stream e.stream).job
  let step := e.param 16 8
  let input := e.stepInput
  let d := d.commitRepairs e old
  let j := d.job job
  let compared := (d.paramsOf e.lot job).foldl (fun c t => if j.digestDue t.1 step then Tab.put 0 step c t.1 else c) j.compared
  let jobStep := input.counters.foldl min step
  let d := d.setJob job { j with
    lot := e.lot, counter := step, jobStep := max j.jobStep jobStep, digestForce := [], compared := compared }
  let d := d.setJob job ((d.job job).measure d.time)
  let d := d.releaseHeld job (d.job job).jobStep step
  let d := d.stepNorms input e.lot job step
  let d := d.latchWatches job step
  let d := d.recompute input e.lot job step
  let d := if (d.job job).securingPoint step then d.securingPass e.lot job step else d
  let d := d.endStep job step
  let d := ((d.settlePass job).advanceSecured input e.lot job).settleMap job
  d.setJob job { d.job job with passRan := (d.job job).passOpen.isSome }

end Sys2Proof.Machine
end

