-- ==== Sys2Proof/Machine/Securing.lean ====
section
/-!
DEFINITION. Securing and snapshots: SECURE_NOW and restores (R338 to R340), mirrors and their notices (R322, R334, R342), adoption
notices (R343, R347), and SNAPSHOT_SHIP (R272 to R274).
-/
namespace Sys2Proof.Machine

/-! ### SECURE_NOW (R338) -/

/-- The other ranks of a command's job, where it is matched across the box (R302, R338). -/
def secureMatch (e : Entry) (d : Device) : Res Device :=
  let j := d.job (d.stream e.stream).job
  matchGroup e (othersOf j.size (d.rank j)) d

/-- SECURE_NOW but for a restore. -/
def secureNowBody (e : Entry) (d : Device) : Res (Nat × Nat × Device) := do
  let job := (d.stream e.stream).job
  let j := d.job job
  let action := e.param 16 1
  let method := e.param 17 1
  let recovery := e.param 18 1
  check (action ≤ 5) .eParam d
  check ((action = 2 || action = 3 || method = 0) && (action = 1 || recovery = 0)) .eParam d
  match action with
  | 0 =>
    check j.diff.isSome .eParam d
    pure (0, 0, ← secureMatch e d)
  | 1 =>
    check (recovery ≤ 1 && e.param 24 4 ≤ 10000000 && !(recovery = 0 && j.size = 1)) .eParam d
    pure (0, 0, ← secureMatch e d)
  | 2 =>
    let (_, t) ← d.find e (e.param 20 4)
    check (method ≤ 2 && t.param && t.job = job && !(method = 1 && j.nextRecovery.getD j.recovery = 1)) .eParam d
    pure (0, 0, ← secureMatch e d)
  | 3 =>
    let (key, t) ← d.find e (e.param 20 4)
    check (method ≤ 1 && t.size ≤ 4096 && !t.param) .eParam d
    check (method = 0 || j.cursors.contains key || j.cursors.length < 16) .eParam d
    pure (0, 0, ← secureMatch e d)
  | _ => pure (j.tau % 2 ^ 16 + min j.failures 0xFFFF * 2 ^ 16, j.secured.getD 0, d)

/-- SECURE_NOW. -/
def execSecureNow (stream : StreamId) (s : State) : Out :=
  s.onDev fun d =>
    match d.ready stream .secureNow with
    | some e => if e.param 16 1 = 5 then d else d.runMarked stream .secureNow secureNowBody
    | none => d

/-! ### Restores (R339, R340) -/

/-- A plane after one more record: a FULL record gives it, a DELTA record changes it, and its digest must match (R265, R270, R346). -/
def nextPlane (n : Nat) (cur : Option Bytes) (r : RecHeader × Bytes) : Option Bytes :=
  if r.1.kind = 2 then checkedPlane n r
  else if r.1.kind ≠ 1 then cur
  else cur.bind fun b =>
    let xs := decodeWords (r.1.raw / 4 + 1) (r.1.raw / 4) r.2
    let new := (((words32 b).zip xs).flatMap fun w => toLE 4 (w.1 ^^^ w.2)).take n
    if crc64 new = r.1.digest then some new else none

/-- One shard rebuilt from the FULL records of a secured step and the DELTA records after it, up to a step: its planes as an image, with what its
step record says (R339, R346). -/
def imageFrom (recs : List (RecHeader × Bytes)) (t : Tensor) (p handle shard secured upto masterLen : Nat) : Option ShardImage :=
  let counts (r : RecHeader × Bytes) : Bool := if r.1.step = secured then r.1.kind = 2 else secured < r.1.step && r.1.step ≤ upto
  let plane (k n : Nat) : Option Bytes :=
    (recs.filter fun r => r.1.handle = handle && r.1.shard = shard && r.1.plane = k && counts r).foldl (nextPlane n) none
  let new := t.newShard p
  match plane 0 masterLen, (if t.master = 1 then plane 1 new.comp.length else some []), plane 2 new.moment.length,
    plane 3 new.sketch.length, plane 4 64 with
  | some m, some c, some mo, some sk, some r =>
    some { handle := handle, shard := shard, version := rd r 0 4, step := rd r 8 8, updates := rd r 16 8, flags := rd r 4 4, time := rd r 32 8
           master := m, comp := c, moment := mo, sketch := sk }
  | _, _, _, _, _ => none

/-- The image that a restore uses for one shard: the frozen copy of a MIRROR shard, the records of another. -/
def Device.restoreImage (d : Device) (recs : List (RecHeader × Bytes)) (key : Nat) (t : Tensor) (shard step : Nat) :
    Option ShardImage :=
  let p := d.partsOf key t
  if d.isMirror key t then (d.shardOf key shard).frozen.find? fun i => i.step = step
  else imageFrom recs t p (t.handle key) shard step step ((t.masterSpans p shard).map fun s => s.2).sum

/-- Stages a restored shard (R334, R339). -/
def Device.stageRestore (d : Device) (e : Entry) (key : Nat) (t : Tensor) (i : ShardImage) (step : Nat) : Res Device := do
  let cur ← need (d.entry e.id) .eHandle d
  if cur.shards.any fun s => s.tensor = key && s.index = i.shard then pure d
  else
    let d ← d.putMaster e key i.shard i.master
    let n := (d.shardOf key i.shard).rebuilt t i step
    let (xs, d) ← d.takeCopy e n.stateBytes
    let n := { n with extents := xs }
    pure (d.modEntry e.id fun e => { e with
      shards := e.shards ++ [{ tensor := key, index := i.shard, shard := n, acked := !d.needsAck key t i.shard }] })

/-- SECURE_NOW with ACTION 5: the whole job, or the SPLIT shards of one tensor. `image`: the bytes at SOURCE; `others`: whether every other device of
the box finds its own records good. -/
def restoreBody (image : Bytes) (others : Bool) (e : Entry) (d : Device) : Res (Nat × Nat × Device) := do
  let job := (d.stream e.stream).job
  let j := d.job job
  let source := e.param 32 8
  let whole := e.param 20 4 = 0
  check (e.param 17 1 = 0 && e.param 18 1 = 0) .eParam d
  let one ← if whole then pure [] else (do
    let t ← d.find e (e.param 20 4)
    check (t.2.param && t.2.job = job) .eParam d
    pure [t])
  if source.testBit 63 then
    match d.positionCheck e.lot source with
    | some st => failWith st d
    | none => pure ()
  else
    check (source % 64 = 0) .eAlign d
    check (source = 0 || d.hostReachable e.lot) .ePermission d
  let step ← need j.secured .eParam d
  check (match j.lastRethread with | some c => c < step | none => true) .eParam d
  check (image.length ≤ e.param 40 8) .eParam d
  let d ← if whole then secureMatch e d else pure d
  let recs := recordsOf image
  let todo := if whole then d.jobShards e.lot job
    else one.flatMap fun t => ((d.ownedShards t.1 t.2).filter fun i => (d.shardOf t.1 i).split).map fun i => (t.1, t.2, i)
  let needsImage := todo.any fun x => !d.isMirror x.1 x.2.1
  check (!needsImage || recs.any fun r => r.1.kind = 5 && r.1.step = step) .eParam d
  let is ← need (todo.mapM fun x => (d.restoreImage recs x.1 x.2.1 x.2.2 step).map fun i => (x.1, x.2.1, i)) .eParam d
  check (!whole || others) .eParam d
  let cursors := if whole then j.frozen.filter fun f => f.1 = step else []
  let d ← d.claim e ((is.flatMap fun x => d.masterRanges x.1 x.2.1 [x.2.2.shard]) ++ cursors.map fun f => (f.2.1, 0, f.2.2.length))
  let d ← is.foldlM (fun d x => d.stageRestore e x.1 x.2.1 x.2.2 step) d
  let d ← cursors.foldlM (fun d f => d.putTensor e f.2.1 0 f.2.2) d
  pure (0, 0, d)

/-- SECURE_NOW_RESTORE. -/
def execSecureNowRestore (stream : StreamId) (source : RestoreSource) (s : State) : Out :=
  s.onDev fun d =>
    match d.ready stream .secureNow with
    | some e => if e.param 16 1 = 5 then d.runMarked stream .secureNow (restoreBody source.bytes source.others) else d
    | none => d

/-- The commit of a SECURE_NOW (R338, R339). -/
def commitSecure (e : Entry) (old : List (Nat × List (Nat × Bytes))) (d : Device) : Device :=
  let job := (d.stream e.stream).job
  let j := d.job job
  let j := { j with lot := e.lot }
  let key := tensorKeyOf e.lot (e.param 20 4 % 2 ^ 24)
  let method := e.param 17 1
  match e.param 16 1 with
  | 0 => d.setJob job { j with secureNext := true }
  | 1 => d.setJob job { j with nextRecovery := some (e.param 18 1), devMtbf := if e.param 24 4 = 0 then j.devMtbf else e.param 24 4 }
  | 2 => d.setJob job { j with methods := if method = 0 then Tab.erase j.methods key else Tab.insert method j.methods key }
  | 3 =>
    let d := d.modTensor key fun t => { t with cursor := method = 1 }
    d.setJob job { j with
      cursors := if method = 0 then j.cursors.filter (· ≠ key) else if j.cursors.contains key then j.cursors else j.cursors ++ [key] }
  | 5 =>
    let d := d.flipShards .rewind e.shards old
    if e.param 20 4 = 0 then
      let j := d.job job
      let step := j.secured.getD 0
      d.setJob job { j with
        lot := e.lot, counter := step, jobStep := step, phase := 0, phaseStep := step + 1, stepAt := none }
    else d
  | _ => d

/-! ### Mirrors (R322, R334) -/

/-- MIRROR_ACK: the twin has staged the planes of a shard of a command, or its gradient copy (R322, R334 step 3). -/
def execMirrorAck (stream : StreamId) (handle shard : Nat) (s : State) : Out :=
  s.onClocked fun d =>
    let mine (e : Entry) (x : StagedShard) : Bool :=
      !x.acked && x.index = shard && x.tensor = tensorKeyOf e.lot (handle % 2 ^ 24)
    match (d.streamEntries stream).find? fun e => e.inFlight && e.shards.any (mine e) with
    | some e => d.modEntry e.id fun e => { e with shards := e.shards.map fun x => if mine e x then { x with acked := true } else x }
    | none => d

/-- This twin stages the planes of a MIRROR shard that its holder has sent (R334, step 3), in place of earlier ones of the shard: they take
quota, and planes that do not fit wait with the holder (R61). A mirror's `handle` is its tensor key. -/
def Device.stageMirror (d : Device) (tag : Nat) (i : ShardImage) : Device :=
  let key := tensorKeyOf tag (i.handle % 2 ^ 24)
  let n := i.master.length + i.comp.length + i.moment.length + i.sketch.length
  if d.quotaExtents tag < d.heldExtents tag + extentsOf n then d
  else
    match d.placeCopy tag n with
    | none => d
    | some (xs, d) =>
      let new := { i with handle := key, extents := xs, amax := [], gathered := [], retained := none, held := none, roots := none, contexts := [] }
      { d with mirrorStaged := (d.mirrorStaged.filter fun x => !(x.handle = key && x.shard = i.shard)) ++ [new] }

/-- A mirror as a held previous version (R264). -/
def ShardImage.toHeld (i : ShardImage) (t : Option Tensor) : HeldVersion :=
  { version := i.version, flags := i.flags, step := i.step, updates := i.updates
    digest := match t with | some t => shardDigest t i.master i.comp | none => 0
    time := i.time, master := i.master, comp := i.comp, extents := i.extents }

/-- COMMIT_NOTICE: the holder has committed; this twin commits its staged mirror in one write and releases its copy of the gradient of an update
(R322, R334 step 5). It keeps the version that an update replaces, and none after a restore or a rollback (R264). The planes that have
reached it are staged before. Assumption 147, DESIGN CHOICE. -/
def execCommitNotice (lot : Lot) (handle shard : Nat) (news : CommitNews) (s : State) : Out :=
  s.onClocked fun d =>
    let key := tensorKeyOf lot (handle % 2 ^ 24)
    let hit (i : ShardImage) : Bool := i.handle = key && i.shard = shard
    let d := news.planes.foldl (fun d i => d.stageMirror lot i) d
    let used (g : Nat × Nat × Retained) : Bool := news.kind = .update && g.1 = key && g.2.1 = shard && g.2.2.step ≤ news.step
    let d := { d with twinGrads := d.twinGrads.filter fun g => !used g }
    let d := match d.mirrorStaged.find? hit with
      | none => d
      | some n =>
        let old := d.mirrors.find? hit
        let held := match news.kind with
          | .update => old.map fun (o : ShardImage) => o.toHeld (d.tensor key)
          | .init => old.bind fun (o : ShardImage) => o.held
          | .rewind => none
        { d with
          mirrorStaged := d.mirrorStaged.filter fun i => !hit i
          mirrors := (d.mirrors.filter fun i => !hit i) ++ [{ n with held := held }] }
    d.sweepOrphans

/-! ### Adoption notices (R343, R347) -/

/-- What a holder has staged of MIRROR shards goes whole to the new twin before it commits (R335). -/
def Device.mirrorAnew (d : Device) (position : Nat) : Device :=
  let anew (x : StagedShard) : Bool :=
    match d.tensor x.tensor with
    | some t =>
      let j := d.job t.job
      d.needsAck x.tensor t x.index && (j.twinOf (d.rank j)).any fun r => j.posOf r = position
    | none => false
  { d with journal := d.journal.map fun e =>
      if e.inFlight then { e with shards := e.shards.map fun x => if anew x then { x with acked := false } else x } else e }

/-- ADOPTION_NOTICE: a failure event for each job whose box contains the position; the pins held for its users go; a FAILURE
record reports it. Assumption 28, DEDUCED. -/
def execAdoptionNotice (position gen : Nat) (rejoin : Bool) (s : State) : Out :=
  s.onClocked fun d =>
    let hit (j : Job) : Bool := j.declared && j.contains position
    let gone := d.jobs.filter fun x => hit x.2
    let d := { d with
      jobs := d.jobs.map fun (x : Nat × Job) => if hit x.2 then (x.1, { x.2 with failures := x.2.failures + 1, failureNew := true }) else x
      shards := d.shards.map fun (x : Nat × Shard) =>
        match d.tensor (x.1 / 2 ^ 32) with
        | some t =>
          match Tab.find gone t.job with
          | some j => (x.1, x.2.unpin fun u => u.1 = j.rankOf position)
          | none => x
        | none => x }
    (d.mirrorAnew position).sweepOrphans.raiseMgmt srcSecuring 0x0B (toLE 8 position ++ toLE 2 gen ++ toLE 1 (b2n rejoin))

/-! ### SNAPSHOT_SHIP (R272 to R274) -/

/-- The tensors of a snapshot. -/
def snapTensors (e : Entry) (d : Device) : List (Nat × Tensor) :=
  if e.param 24 4 = 0 then d.paramsOf e.lot (d.stream e.stream).job
  else
    let key := tensorKeyOf e.lot (e.param 24 4 % 2 ^ 24)
    match d.tensor key with
    | some t => [(key, t)]
    | none => []

/-- The records of one shard at a step: its current version, or the held one, which lacks m and the sketch; `none` where the step
is held no more. Assumption 57, DESIGN CHOICE. -/
def Device.snapShard (d : Device) (key : Nat) (t : Tensor) (shard sel step : Nat) : Option (List DiffRecord) :=
  let s := d.shardOf key shard
  let mk (v : Shard) (planes : List (Nat × Bytes)) : List DiffRecord :=
    shardRecords 0 (t.handle key) shard sel v planes (fun _ => true) 0 []
  if s.step ≤ step then some (mk s (s.planes t (d.masterOf key shard)))
  else
    match s.held with
    | some h =>
      if h.step ≤ step && !sel.testBit 2 && !sel.testBit 3 then
        let v := { s with version := h.version, flags := h.flags, step := h.step, updates := h.updates, digest := h.digest
                          time := h.time, comp := h.comp }
        some (mk v (v.planes t h.master))
      else none
    | none => none

/-- The image of a snapshot: FULL records numbered from 0, and one STEP_END (R273). -/
def Device.snapImage (d : Device) (e : Entry) (step : Nat) : Option Bytes :=
  let parts := (snapTensors e d).flatMap fun t => (d.ownedShards t.1 t.2).map fun i => d.snapShard t.1 t.2 i (e.param 28 1) step
  (parts.mapM id).map fun rs => ((rs.flatten ++ [stepEnd 0 step]).zipIdx.map fun r => (r.1.number r.2).bytes).flatten

/-- The step of a snapshot: 0 names the last closed one. -/
def snapStep (e : Entry) (d : Device) : Nat :=
  if e.param 16 8 = 0 then (d.job (d.stream e.stream).job).counter else e.param 16 8

/-- Extents that a snapshot reserves: those that hold the selected planes of its shards, whose sizes are the same at every step (R273). -/
def Device.snapExtents (d : Device) (e : Entry) : Nat :=
  let sel := e.param 28 1
  extentsOf ((snapTensors e d).flatMap fun t => (d.ownedShards t.1 t.2).map fun i =>
    (((d.shardOf t.1 i).planes t.2 (d.masterOf t.1 i)).map fun p => if sel.testBit p.1 then p.2.length else 0).sum).sum

/-- SNAPSHOT_SHIP: its checks, its reservation at dispatch, its references at dispatch or, where its step is not closed, at the STEP_COMMIT of that
step; an image for the host is then written, and one for or from a peer waits for it (R272 to R274). -/
def snapshotBody (e : Entry) (d : Device) : Res (Nat × Nat × Device) := do
  let target := e.param 29 1
  let dest := e.param 32 8
  check (target ≤ 2) .eParam d
  if target = 2 then
    let (_, r) ← d.find e (e.param 52 4)
    check (e.param 40 8 = 0 && r.fmt = .uint8) .eParam d
    waitFor .ship (d.modEntry e.id fun e => { e with ran := true })
  else
    check (e.param 52 4 = 0) .eParam d
    if target = 0 then
      check (dest % 64 = 0) .eAlign d
    else
      match d.positionCheck e.lot dest with
      | some st => failWith st d
      | none => pure ()
    if e.param 24 4 ≠ 0 then
      let (_, t) ← d.find e (e.param 24 4)
      check (t.param && t.job = (d.stream e.stream).job) .eParam d
    let step := snapStep e d
    let closed := (d.job (d.stream e.stream).job).counter
    check (e.image.isSome || closed ≤ step) .eSnapshotGone d
    let n := d.snapExtents e
    check (e.reserved ≠ 0 || d.heldExtents e.lot + n ≤ d.quotaExtents e.lot) .eQuota d
    let d := if e.reserved = 0 then d.modEntry e.id fun e => { e with reserved := n } else d
    if step > closed then waitFor .ship d
    else
      let image ← need (e.image <|> d.snapImage e step) .eSnapshotGone d
      check (target = 1 || image.length ≤ e.param 40 8) .eParam d
      let start := if e.ran || e.image.isSome then e.shipAt else d.time
      let d := d.modEntry e.id fun e => { e with image := some image, ran := true, shipAt := start }
      if target = 0 then
        check (d.hostReachable e.lot) .ePermission d
        pure (0, 0, d.writeHost ((d.hosting e.lot).getD 0) dest image)
      else waitFor .ship d

/-- SNAPSHOT_SHIP. -/
def execSnapshotShip (stream : StreamId) (s : State) : Out := s.onDev fun d => d.runOp stream .snapshotShip snapshotBody

/-- Snapshots that wait for a step take their references at its STEP_COMMIT (R273). -/
def Device.referSnapshots (d : Device) (lot job step : Nat) : Device :=
  (d.journal.filter fun e => e.op = .snapshotShip && e.lot = lot && e.phase = .dispatched && e.image.isNone && e.param 29 1 ≠ 2
      && (d.stream e.stream).job = job && e.param 16 8 = step).foldl (fun d e =>
    match d.snapImage e step with
    | some i => d.modEntry e.id fun e => { e with image := some i, shipAt := d.time }
    | none => d) d

/-- SNAPSHOT_PEER_MATCH: the peer has met this end of a transfer (R274). A sender completes when the receiver has taken the image; a
receiver writes it to RECV once every digest agrees. -/
def snapshotPeerBody (peer : PeerSnapshot) (e : Entry) (d : Device) : Res (Nat × Nat × Device) := do
  let target := e.param 29 1
  if !e.ran then waitFor .ship d
  else
    match peer with
    | .unreachable => failWith .eShipPeer d
    | .receiver id accepts =>
      if target ≠ 1 || id ≠ e.param 48 4 then waitFor .ship d
      else
        check accepts .eShipPeer d
        pure (0, 0, d)
    | .sender id image =>
      if target ≠ 2 || id ≠ e.param 48 4 then waitFor .ship d
      else
        let ok := (recordsOf image).all fun r => r.1.kind ≠ 2 || crc64 ((fullPlane r).take r.1.raw) = r.1.digest
          || (List.range 4).any fun k => crc64 ((fullPlane r).take (r.1.raw - k)) = r.1.digest
        check ok .eShipPeer d
        let (key, r) ← d.find e (e.param 52 4)
        check (image.length ≤ r.size) .eShipPeer d
        let d ← d.claim e [(key, 0, image.length)]
        let d ← d.putTensor e key 0 image
        pure (0, image.length, d)

/-- SNAPSHOT_PEER_MATCH. -/
def execSnapshotPeerMatch (stream : StreamId) (peer : PeerSnapshot) (s : State) : Out :=
  s.onDev fun d => d.runOp stream .snapshotShip (snapshotPeerBody peer)

/-- SNAPSHOT_PEER_TIMEOUT: no receiver has appeared within 1,000,000 ticks of TIME after the sender took its references (R274; the starting point is
assumption 29, DESIGN CHOICE). -/
def execSnapshotPeerTimeout (stream : StreamId) (s : State) : Out :=
  s.onDev fun d =>
    match d.ready stream .snapshotShip with
    | some e => if d.running && e.ran && e.param 29 1 = 1 && e.shipAt + 1000000 ≤ d.time then d.failEntry e.id .eShipPeer else d
    | none => d

end Sys2Proof.Machine
end

