-- ==== Sys2Proof/Machine/Adopt.lean ====
section
/-!
DEFINITION. SPARE_ADOPT: the taking of a failed position's links, tables, shards and mirrored journal (R296, R345 to R350).
-/
namespace Sys2Proof.Machine

/-- The checks of R345. -/
def adoptCheck (input : AdoptInput) (e : Entry) (d : Device) : Res Unit := do
  let w := e.param 16 8
  let i := d.hosts.image
  let shape : Links := { dims := i.dims, log2 := i.log2 }
  check (d.links.role = 1) .ePermission d
  check (w < 2 ^ 14 && shape.inShape w) .eCoord d
  check (i.coord = w) .eStaleConfig d
  check (e.param 26 1 ≤ 1 && ((e.param 26 1 = 1) == input.waitOnly)) .eParam d

/-- The spare takes the position's links and sends its identity on every port that is trained (R296, steps 4 and 5). Assumption 55, DEDUCED. -/
def Device.takeLinks (d : Device) (e : Entry) : Device :=
  let i := d.hosts.image
  let d := { d with links := { d.links with
    systemId := i.systemId, dims := i.dims, log2 := i.log2, coord := e.param 16 8 % 2 ^ 14, adoptGen := e.param 24 2, role := 0 } }
  (List.range Config.ports).foldl (fun d p =>
    let v := d.port p
    if v.lit && (v.lstate = 2 || v.lstate = 3) then
      (d.setPort p { v with lstate := 2, step := 4, waitUntil := d.time + 100000000 }).sendRaw p (.identity (d.identityRecord p))
    else d) d

/-- The network ports of the shape that are not ACTIVE (R297). -/
def Device.deadPorts (d : Device) : Nat :=
  ((List.range d.links.slots.length).filter fun i => (d.port (slotPort i)).lstate ≠ 4).length

/-- Whether a network port still exchanges identities. -/
def Device.portsTraining (d : Device) : Bool :=
  (List.range d.links.slots.length).any fun i => let v := d.port (slotPort i); v.lit && 1 ≤ v.lstate && v.lstate ≤ 3

/-- A tensor of the position, under its old handle: restored cursor bytes, or +0 throughout (R347, R349). -/
def Device.adoptTensor (d : Device) (i : TensorImage) (restored : Bool) : Option Device := do
  let p := i.descriptor
  let (fmt, dims) ← createOk p
  let layout := rd p 18 1
  let size := tensorBytes fmt dims (layout.testBit 2) (layout % 4)
  let key := tensorKeyOf i.lot (i.handle % 2 ^ 24)
  let (xs, d) ← d.placeNew i.lot (List.range Config.memStacks) (extentsOf size) none []
  let t : Tensor :=
    { gen := i.handle / 2 ^ 24 % 256, committed := true, fmt := fmt, dims := dims, param := layout.testBit 3, block16 := layout.testBit 2
      sparsity := layout % 4, shardDim := if rd p 19 1 = 0xFF then none else some (rd p 19 1), master := rd p 44 1
      sketch := rd p 45 1, rounding := rd p 46 1, working := rd p 47 1, cookie := rd p 48 8, job := i.job
      key := tensorKey i.job (rd p 48 8), size := size, extents := xs, pinned := i.pinned.isSome, mask := i.pinned.getD 0
      cursor := i.cursor.isSome, lost := i.cursor.isNone && !restored }
  let d := { d with tensors := Tab.insert t d.tensors key, gens := Tab.put 0 t.gen d.gens key }
  let d := match i.cursor with
    | some b =>
      let d := d.writeExtents xs 0 (b.take size)
      let j := d.job i.job
      d.setJob i.job { j with cursors := if j.cursors.contains key then j.cursors else j.cursors ++ [key] }
    | none => d
  pure d

/-- The single-layer state of a job (R333). It goes on at the first phase of the step after its counter (assumption 130, DESIGN CHOICE). -/
def Device.adoptJob (d : Device) (i : JobImage) : Device :=
  let j := d.job i.job
  d.setJob i.job { j with
    lot := i.lot, declared := true, origin := i.origin, log2 := i.log2, entries := i.entries, mapGen := i.mapGen, counter := i.counter
    jobStep := i.jobStep, phase := 0, phaseStep := i.counter + 1
    failures := i.failures, recovery := i.recovery, devMtbf := i.devMtbf, secured := i.secured
    digestPeriod := d.hosts.image.policy.digest }

/-- A shard from its source, with its held previous version, its retained gradient, and what a replica gives of its roots and statistics contexts
(R346); `none` where its copies find no FREE extents. Its amax history is empty (R349). -/
def Device.adoptShard (d : Device) (lot : Nat) (i : ShardImage) : Option Device :=
  let key := tensorKeyOf lot (i.handle % 2 ^ 24)
  match d.tensor key with
  | none => some d
  | some t => do
    let s := i.toShard t
    let (xs, d) ← d.placeCopy lot s.stateBytes
    let (held, d) ← match i.held with
      | none => some (none, d)
      | some h => (d.placeCopy lot (h.master.length + h.comp.length)).map fun r => (some { h with extents := r.1 }, r.2)
    let (grad, d) ← match i.retained with
      | none => some (none, d)
      | some r => (d.placeCopy lot r.2.1.length).map fun x =>
          (some { step := r.1, data := r.2.1, nonfinite := r.2.2, extents := x.1 : Retained }, x.2)
    let d := (d.putMasterNow key i.shard i.master).setShard key i.shard
      { s with amax := [], gathered := [], extents := xs, held := held, retained := grad }
    pure (d.takeAlong lot key t (d.partsOf key t) i.shard i.roots i.contexts)

/-- The status of a block check. -/
def blockStatusOf : BlockCheck → Status
  | .ok => .ok
  | .align => .eAlign
  | .param => .eParam
  | .unpinned => .eAddrUnpinned
  | .tag => .eTagViolation
  | .permission => .ePermission
  | .memory => .eMemUncorrectable

/-- The stream of a mirrored command. -/
def MirroredCommand.stream (c : MirroredCommand) : Nat := rd c.packet 4 4 % 2 ^ 18

/-- The sequence number of a mirrored command. -/
def MirroredCommand.seq (c : MirroredCommand) : Nat := rd c.packet 8 4

/-- Puts a mirrored command among others before the first later one of its stream (R347, step 6). -/
def insertMirrored (c : MirroredCommand) : List MirroredCommand → List MirroredCommand
  | [] => [c]
  | x :: t => if x.stream = c.stream && serialLater 32 c.seq x.seq then c :: x :: t else x :: insertMirrored c t

/-- A mirrored command enters the journal to be replayed; its stream is open on its queue, DISABLING after a STREAM_CLOSE, and keeps its count
of job-wide commands. What else its context held does not reach the spare (R64, R66, R347; assumption 128, DESIGN CHOICE). -/
def Device.adoptCommand (d : Device) (c : MirroredCommand) : Device :=
  let p := c.packet
  match Opcode.ofCode (rd p 0 2) with
  | none => d
  | some op =>
    let id := d.ctr.entry + 1
    let stream := c.stream
    let e : Entry :=
      { id := id, lot := c.lot, queue := c.queue, stream := stream, seq := c.seq, op := op, packet := p, args := c.args, tbl := c.tbl
        acceptedAt := d.time, replayed := true, blockStatus := blockStatusOf c.block, ordinal := if op.jobWide p then c.jobWide else 0 }
    let d := { d with ctr := { d.ctr with entry := id }, journal := d.journal ++ [e] }
    let s := d.stream stream
    d.setStream stream { s with
      state := if op = .streamClose then .disabling else .enabled
      jobWide := max s.jobWide c.jobWide
      queue := some (c.lot.val, c.queue.val)
      nextSeq := (c.seq + 1) % 2 ^ 32, job := c.job, mirror := true }

/-- The shards that the records at SOURCE give, each with its lot (R346, item 4); a record that is missing or whose digest differs leaves its shard
unreachable. -/
def Device.sourceShards (d : Device) (input : AdoptInput) (n : Nat) : List (Lot × ShardImage) :=
  let recs := recordsOf (input.image.take n)
  input.sourced.filterMap fun s =>
    let key := tensorKeyOf s.lot (s.handle % 2 ^ 24)
    match d.tensor key with
    | none => none
    | some t =>
      let p := d.partsOf key t
      let len := ((t.masterSpans p s.shard).map fun x => x.2).sum
      (imageFrom recs t p s.handle s.shard ((d.job t.job).secured.getD 0) s.step len).map fun i => (s.lot, { i with retained := s.retained })

/-- The restore of R347, steps 5 and 6, and the number of shards that SOURCE gave. A REJOIN takes the tables and the single-layer state alone
(R350). What a device keeps as the twin of another beside mirrored shards and gradients is not held (assumption 142, DESIGN CHOICE). -/
def Device.adoptState (d : Device) (input : AdoptInput) (rejoin : Bool) (bytes : Nat) : Option (Device × Nat) := do
  let shards := if rejoin then [] else input.shards
  let sourced := if rejoin then [] else input.sourced
  let has (t : TensorImage) : Bool :=
    (shards.any fun s => s.1 = t.lot && s.2.handle = t.handle) || sourced.any fun s => s.lot = t.lot && s.handle = t.handle
  let d ← input.tensors.foldlM (fun (d : Device) t => d.adoptTensor t (has t)) d
  let d := input.jobs.foldl Device.adoptJob d
  let more := if rejoin then [] else d.sourceShards input bytes
  let d ← (shards ++ more).foldlM (fun (d : Device) (s : Lot × ShardImage) => d.adoptShard s.1 s.2) d
  pure (if rejoin then d else (input.journal.foldl (fun l c => insertMirrored c l) []).foldl Device.adoptCommand d, more.length)

/-- SPARE_ADOPT: its checks and its links at dispatch; the state follows once the ports have settled, 1.1 ms later at most. -/
def spareAdoptBody (input : AdoptInput) (e : Entry) (d : Device) : Res (Nat × Nat × Device) := do
  if !e.ran then
    adoptCheck input e d
    waitFor .peers ((d.takeLinks e).modEntry e.id fun e => { e with ran := true })
  else if d.portsTraining && d.time < e.dispatchedAt + 110000 then waitFor .peers d
  else
    let d := d.floodAll (.adopted d.links.coord d.links.adoptGen)
    let rejoin := e.param 26 1 = 1
    match d.adoptState input rejoin (e.param 40 8) with
    | none => waitFor .quota d
    | some (d, n) =>
      let copied := if rejoin then 0 else input.shards.length
      let missing := input.unreachable + if rejoin then 0 else input.sourced.length - n
      pure (d.deadPorts % 256 + 2 ^ 8 * min 0xFF input.leftJobs + 2 ^ 16 * min 0xFFFF copied,
        n % 2 ^ 32 + 2 ^ 32 * min 0xFFFF missing + 2 ^ 48 * min 0xFF input.lostCursors, d)

/-- SPARE_ADOPT. -/
def execSpareAdopt (stream : StreamId) (input : AdoptInput) (s : State) : Out :=
  s.onDev fun d => d.runOp stream .spareAdopt (spareAdoptBody input)

end Sys2Proof.Machine
end

