-- ==== Sys2Proof/Machine/MemorySystem.lean ====
section
/-!
DEFINITION. What the memory system does on its own: placement epochs and moves (R206, R207), patrol scrub (R212 to R215) and the
retirement of extents (R216).
-/
namespace Sys2Proof.Machine

/-! ### Moves (R206, R207) -/

/-- The tensor whose committed map names an extent, with the position of the extent in it. -/
def Device.mapped (d : Device) (x : Nat) : Option (Nat × Tensor × Nat) :=
  d.tensors.findSome? fun e =>
    if e.2.committed then (e.2.extents.findIdx? (· = x)).map fun i => (e.1, e.2, i) else none

/-- Whether placement may move an extent: not pinned, REUSE not 0, no move of it in progress. -/
def Device.movable (d : Device) (x : Nat) : Bool :=
  match d.mapped x with
  | some (_, t, _) => !t.pinned && t.reuse ≠ some 0 && !d.mem.moves.any fun m => m.from_ = x
  | none => false

/-- Extents that a lot's moves of one epoch may take: 256 MiB. -/
def moveBudget : Nat := 128

/-- The usable stack with the lowest count that has a FREE extent. -/
def Device.quietStack (d : Device) (counts : List Nat) (but : Nat) : Option Nat :=
  ((List.range Config.memStacks).filter fun m => m ≠ but && d.freeIn m ≠ 0).foldl (fun (b : Option Nat) m => match b with
    | none => some m
    | some x => if counts.getD m 0 < counts.getD x 0 then some m else some x) none

/-- Starts a move of an extent to a stack: a FREE extent is taken for the copy (R207). -/
def Device.startMove (d : Device) (x m : Nat) : Device :=
  match d.mapped x with
  | none => d
  | some (key, _, i) =>
    let (y, d) := d.giveExtent m (.lot (tensorLot key))
    let d := d.moveTraffic x y
    { d with mem := { d.mem with moves := d.mem.moves ++ [{ tensor := key, index := i, from_ := x, to_ := y }] } }

/-- Extents with their traffic, most traffic first. -/
def byTraffic (ts : List (Nat × Nat)) : List (Nat × Nat) :=
  ts.foldl (fun acc t => (acc.filter fun x => x.2 ≥ t.2) ++ [t] ++ acc.filter fun x => x.2 < t.2) []

/-- Moves extents off one stack until it is within 10% of the mean of the counts or the budget is spent. -/
def Device.relieve (total m : Nat) : List (Nat × Nat) → Device × List Nat × Nat → Device × List Nat × Nat
  | [], acc => acc
  | (x, t) :: rest, (d, counts, budget) =>
    if budget = 0 || counts.getD m 0 * 200 ≤ total * 11 then (d, counts, budget)
    else
      match if extentStack x = m && d.movable x then d.quietStack counts m else none with
      | none => Device.relieve total m rest (d, counts, budget)
      | some k =>
        let counts := (counts.set m (counts.getD m 0 - t)).set k (counts.getD k 0 + t)
        Device.relieve total m rest (d.startMove x k, counts, budget - 1)

/-- TIME ticks of a placement epoch (R206). -/
def epochTicks : Nat := 1000000

/-- The counts of one epoch with those that an operand adds, number by number. -/
def addCounts (ts : Table Nat) (more : List (Nat × Nat)) : Table Nat :=
  more.foldl (fun t x => Tab.put 0 (Tab.look 0 t x.1 + x.2) t x.1) ts

/-- PLACEMENT_EPOCH: at the end of an epoch of TIME, from what the stacks served and what the extents took in it (R206); the counts then start afresh.
`lines` and `traffic` give what no row shows: the lines that each stack served, and each extent took, for operand fetches of kernels that missed in
local store (R223). Assumption 76, DESIGN CHOICE. -/
def execPlacementEpoch (lines : List Nat) (traffic : List (Nat × Nat)) (s : State) : Out :=
  s.onDev fun d =>
    if !d.running || d.time / epochTicks = d.mem.epoch then d
    else
      let counts := (List.range Config.memStacks).map fun m => Tab.look 0 d.mem.served m + lines.getD m 0
      let traffic := byTraffic (addCounts d.mem.traffic traffic)
      let d := { d with mem := { d.mem with epoch := d.time / epochTicks, served := [], traffic := [] } }
      let total := counts.sum
      ((List.range Config.memStacks).foldl (fun (acc : Device × List Nat × Nat) m =>
        if counts.getD m 0 * 80 > total * 5 then Device.relieve total m traffic acc else acc) (d, counts, moveBudget)).1

/-- Replaces one extent of a tensor by a blank one that receives its content, poison included (R207, R216). -/
def Device.replaceExtent (d : Device) (key index x y : Nat) : Device :=
  let d := d.demand ((d.mem.faulty.map fun w => w.1).filter fun a => a / Config.extentBytes = x)
  let d := ((d.zeroExtent y).copyExtent x y).movePoison x y
  d.modTensor key fun t => { t with extents := t.extents.set index y, planGen := (t.planGen + 1) % 2 ^ 16 }

/-- EXTENT_MOVE: the copy of an extent is complete and the map names it (R207). A move that a commit, a pin or a write has abandoned is not in
progress. `errors` strike memory before it (R212). -/
def execExtentMove (extent : Nat) (errors : List CodewordError) (s : State) : Out :=
  s.onDev fun d =>
    match d.mem.moves.find? fun m => m.from_ = extent with
    | none => d
    | some m =>
      if !d.running then d
      else
        let d := d.strike errors
        let d := { d with mem := { d.mem with moves := d.mem.moves.filter fun (x : Move) => x.from_ ≠ extent } }
        (d.replaceExtent m.tensor m.index m.from_ m.to_).releaseExtents [m.from_]

/-! ### Retirement (R216) -/

/-- A MEMORY event about an extent (R384): 1 retired, 2 retirement delayed. -/
def Device.extentEvent (d : Device) (x code : Nat) : Device :=
  d.raiseMgmt (srcStack (extentStack x)) 5 (toLE 8 (x * Config.extentBytes) ++ toLE 1 code)

/-- An event reports once that the retirement of a pinned or SYSTEM extent is delayed (R216). -/
def Device.delayRetire (d : Device) (x : Nat) : Device :=
  if d.mem.retireTold.contains x then d
  else { d with mem := { d.mem with retireTold := d.mem.retireTold ++ [x] } }.extentEvent x 2

/-- Retires an extent that is due: a FREE one at once, one of an unpinned tensor by a move to a FREE extent. A pinned or SYSTEM extent
stays marked; where no FREE extent exists, and while a command still stages the extent, retirement waits. Assumption 74, DESIGN CHOICE. -/
def Device.retire (d : Device) (x : Nat) : Device :=
  match d.owner x with
  | .retired => d.unmarkRetire x
  | .free => ((d.unmarkRetire x).setOwner x .retired).extentEvent x 1
  | .system => d.delayRetire x
  | .lot tag =>
    match d.mapped x with
    | none => d
    | some (key, t, i) =>
      if t.pinned then d.delayRetire x
      else
        match d.chooseStack t.stackIds none (some (extentStack x)) with
        | none => d
        | some m =>
          let moves := d.mem.moves.filter fun (v : Move) => v.from_ = x
          let d := { d with mem := { d.mem with moves := d.mem.moves.filter fun (v : Move) => v.from_ ≠ x } }
          let (y, d) := d.giveExtent m (.lot tag)
          ((d.moveTraffic x y).replaceExtent key i x y).releaseExtents (x :: moves.map fun (v : Move) => v.to_)

/-- EXTENT_RETIRE: acts on an extent that is due to be retired. -/
def execExtentRetire (extent : Nat) (s : State) : Out :=
  s.onDev fun d => if d.running && d.mem.retireWait.contains extent then d.retire extent else d

/-! ### Patrol scrub (R212 to R215) -/

/-- The next codeword of the pass (R215): FREE and RETIRED extents are skipped. -/
def Device.scrubNext (d : Device) : Option Nat :=
  let a := d.mem.scrubPos
  (d.mem.owners.find? fun o => a / Config.extentBytes ≤ o.1 && (match o.2 with | .lot _ => true | .system => true | _ => false)).map fun o =>
    max a (o.1 * Config.extentBytes)

/-- PATROL_SCRUB: an error strikes, if it has bad symbols, and the scrub reads the next codeword of its pass, as UMBER traffic. A pass reads
every codeword of the extents in use once; the next one starts with the next PERIOD of TIME (R215). -/
def execPatrolScrub (addr badSymbols : Nat) (other : Option Bytes) (s : State) : Out :=
  s.onDev fun d =>
    if !d.running then d
    else
      let d := d.strike (if badSymbols = 0 then [] else [{ addr := addr, bad := badSymbols, other := other }])
      if !d.mem.scrubOn then d
      else
        match d.scrubNext with
        | none => { d with mem := { d.mem with scrubPos := Config.memTop } }
        | some a => ({ d with mem := { d.mem with scrubPos := a + 64 } }.stackLines systemTag a 1 3).meetError true a

end Sys2Proof.Machine
end

