-- ==== Sys2Proof/Machine/SolverFn.lean ====
section
/-!
DEFINITION. What a solver unit computes (R169 to R187, R191, R193, R194), in exact integers: S1.30 values are integers in units of
2^−30, S7.56 values in units of 2^−56. A function either gives its result, or the cause of its failure with the iterations, sweeps or
tile columns completed before it.
-/
namespace Sys2Proof.Machine

/-- A failure of a solve: its cause (R194) and the iterations completed. -/
abbrev Fail (α : Type) := Except (Nat × Nat) α

/-- A matrix or a vector of S1.30 values, by rows. -/
abbrev Mat := List (List Int)

/-! ### Fixed point (R169, R170) -/

/-- v / n rounded to nearest, ties to even. -/
def rneDiv (v : Int) (n : Nat) : Int :=
  let q := v / n
  let r := v % n
  if 2 * r > n || (2 * r = n && q % 2 ≠ 0) then q + 1 else q

/-- v / w rounded to nearest, ties to even, for any divisor other than 0. -/
def rneQuot (v w : Int) : Int := if w < 0 then rneDiv (-v) w.natAbs else rneDiv v w.natAbs

/-- v·2^s rounded to nearest, ties to even. -/
def rneShift (v : Int) (s : Int) : Int := if s ≥ 0 then v * 2 ^ s.toNat else rneDiv v (2 ^ (-s).toNat)

/-- 1.0 in S1.30. -/
def one130 : Int := 2 ^ 30

/-- A value in the S1.30 range; outside it the analysed range is exceeded (cause 3). -/
def fit130 (done : Nat) (v : Int) : Fail Int := if -(2 ^ 31) ≤ v && v < 2 ^ 31 then .ok v else .error (3, done)

/-- Narrowing from S7.56 to S1.30. -/
def narrow (done : Nat) (v : Int) : Fail Int := fit130 done (rneDiv v (2 ^ 26))

/-- A value in the S7.56 range; what the accumulator holds of one outside it is free (R169; assumption 72, DESIGN CHOICE). -/
def fit756 (v : Int) : Int := if -(2 ^ 63) ≤ v && v < 2 ^ 63 then v else toSigned 64 (ofInt 64 (Config.sumOverflow v))

/-- Adds to an S7.56 accumulator the exact sum of each pass of 64 products, rounded once for each pass (R170). `fuel`: passes. -/
def passes64 (acc : Int) : Nat → List (Int × Int) → Int
  | 0, _ => acc
  | n + 1, ps =>
    let s := ((ps.take 64).map fun p => p.1 * p.2).sum
    passes64 (fit756 (rneDiv (16 * acc + s) 16)) n (ps.drop 64)

/-- acc + Σ a_k·b_k in the order of R170. -/
def dotFrom (acc : Int) (a b : List Int) : Int := passes64 acc (a.length / 64 + 1) (a.zip b)

/-- Σ a_k·b_k as an S7.56 value. -/
def dot756 (a b : List Int) : Int := dotFrom 0 a b

/-- The rows of the transpose of an n-column matrix. -/
def transposeM (n : Nat) (m : Mat) : Mat := (List.range n).map fun j => m.map fun r => r.getD j 0

/-- s130(2^two·(A·B)) for n-wide B: each element narrowed once. -/
def mulM (done n : Nat) (two : Bool) (a b : Mat) : Fail Mat :=
  let bt := transposeM n b
  a.mapM fun r => bt.mapM fun c => narrow done (dot756 r c * (if two then 2 else 1))

/-- The identity of width n. -/
def identityM (n : Nat) : Mat := (List.range n).map fun i => (List.range n).map fun j => if i = j then one130 else 0

/-- Element (i, j). -/
def Mat.el (m : Mat) (i j : Nat) : Int := (m.getD i []).getD j 0

/-- The smallest integer k, from `lo` upwards over `n` values, that a test accepts. -/
def leastFrom (test : Int → Bool) (lo : Int) : Nat → Option Int
  | 0 => none
  | n + 1 => if test lo then some lo else leastFrom test (lo + 1) n

/-- The FP32 value of an integer times a power of two, rounded once. -/
def fp32Of (v : Int) (e : Int) : Nat := encodeF fp32 (ofSigned v e)

/-- The S1.30 rounding of an exact value times 2^s. -/
def s130Of (done : Nat) (v : Flt) (s : Int) : Fail Int :=
  match v with
  | .fin neg m e => fit130 done (rneShift (signedMant neg m) (e + s + 30))
  | _ => .error (1, done)

/-! ### Normalisation and ranges (R171 to R174) -/

/-- Whether 2^k ≥ v for a finite positive FP32 value. -/
def powCovers (v : Nat) (k : Int) : Bool := !(Flt.fin false 1 k).lt (decodeF fp32 v)

/-- The prologue of R171 on the n × n block `f`, row-major: A′ of width n̂, and k. 1.001 × τ is rounded once. Assumption 66, DESIGN CHOICE. -/
def normalise (n nhat eps : Nat) (f : List Nat) : Fail (Mat × Int) := do
  let el (i j : Nat) : Nat := f.getD (i * n + j) 0
  let upper := (List.range n).flatMap fun i => (List.range (n - i)).map fun j => el i (i + j)
  if fNonfinite fp32 eps || upper.any (fNonfinite fp32) then throw (1, 0)
  let t := treeSum ((List.range n).map fun i => el i i)
  let tau := fAdd fp32 t (fMul fp32 (fOfInt fp32 n) eps)
  let u := encodeF fp32 (((decodeF fp32 tau).mul (Flt.ofInt 1001)).div (Flt.ofInt 1000))
  if fNonfinite fp32 u || !(Flt.zero.lt (decodeF fp32 u)) then throw (2, 0)
  let k := (leastFrom (powCovers u) (-126) 253).getD 127
  let a ← (List.range nhat).mapM fun i => (List.range nhat).mapM fun j =>
    if i < n && j < n then
      s130Of 0 (decodeF fp32 (if i = j then fAdd fp32 (el i i) eps else if i < j then el i j else el j i)) (-k)
    else pure (if i = j then one130 else 0)
  pure (a, k)

/-- The exponent ⌈log2 q^(1/p)⌉ for q = 2^k/ε: the smallest e with 2^(pe)·ε ≥ 2^k; above 30, or with q unbounded, cause 4 (R174). -/
def rangeExponent (p : Nat) (k : Int) (eps : Nat) : Fail Nat :=
  match decodeF fp32 eps with
  | .fin false m x =>
    if m = 0 then .error (4, 0)
    else
      match leastFrom (fun e => !(Flt.fin false m (x + p * e)).lt (.fin false 1 k)) 0 31 with
      | some e => .ok e.toNat
      | none => .error (4, 0)
  | .nan => .error (1, 0)
  | .inf _ => .error (1, 0)
  | _ => .error (4, 0)

/-! ### Conversion (R181, R186) -/

/-- The FP32 value nearest 2^(−m/p) for p = 2 or 4. -/
def rootConst (p m : Nat) : Nat :=
  if 4 * m = p then 0x3F5744FD else if 2 * m = p then 0x3F3504F3 else if 4 * m = 3 * p then 0x3F1837F0 else one32

/-- An S1.30 value times 2^(e − k/p), in FP32: an exact power of two with one rounding, and a rounding for the constant of a
fractional power where there is one. -/
def convert (e : Int) (k : Int) (p : Nat) (v : Int) : Nat :=
  let x := fp32Of v (e - k / p - 30)
  let m := (k % p).toNat
  if m = 0 then x else fMul fp32 x (rootConst p m)

/-- An output block of width bn from a computed one of real width n: elements beyond n are +0. -/
def outBlock (bn n : Nat) (f : Int → Nat) (m : Mat) : List Nat :=
  (List.range bn).flatMap fun i => (List.range bn).map fun j => if i < n && j < n then f (m.el i j) else 0

/-! ### CHOL (R179) -/

/-- The S7.56 square root, correctly rounded. -/
def sqrt756 (v : Int) : Int :=
  let n := v.toNat * 2 ^ 56
  let r := isqrt n
  if n > r * r + r then (r : Int) + 1 else r

/-- The S7.56 quotient of an S7.56 value and an S1.30 value, correctly rounded, narrowed to S1.30. The manual states no quotient by 0, and it is free
(assumption 67, DESIGN CHOICE). -/
def quot130 (done : Nat) (v l : Int) : Fail Int :=
  narrow done (if l = 0 then toSigned 64 (ofInt 64 (Config.quotientByZero v)) else rneQuot (v * 2 ^ 30) l)

/-- One column of CHOL: rows above hold what has been formed. -/
def cholColumn (a : Mat) (j : Nat) (l : Mat) : Fail Mat := do
  let done := j / 64
  let rowJ := l.getD j []
  let neg (r : List Int) : List Int := r.map fun x => -x
  let d := dotFrom (a.el j j * 2 ^ 26) (neg (rowJ.take j)) (rowJ.take j)
  if d ≤ 0 then throw (2, done)
  let p ← narrow done (sqrt756 d)
  l.zipIdx.mapM fun x =>
    if x.2 < j then pure (x.1 ++ [0])
    else if x.2 = j then pure (x.1 ++ [p])
    else do
      let v ← quot130 done (dotFrom (a.el x.2 j * 2 ^ 26) (neg (x.1.take j)) (rowJ.take j)) p
      pure (x.1 ++ [v])

/-- CHOL: L′, with the smallest diagonal element. -/
def cholesky (nhat : Nat) (a : Mat) : Fail (Mat × Int) := do
  let l ← (List.range nhat).foldlM (fun l j => cholColumn a j l) ((List.range nhat).map fun _ => [])
  pure (l, (List.range nhat).foldl (fun m i => min m (l.el i i)) (l.el 0 0))

/-! ### TRSOLVE (R180) -/

/-- One row of a substitution: `i` of one column whose elements formed so far stand in `y`, the others 0. The right-hand side is in units of
2^ea and y in units of 2^eb; the numerator is exact. -/
def substRow (done : Nat) (rowOf : List Int) (i ea eb : Nat) (b : Int) (y : List Int) : Fail (List Int) := do
  let s : Int := 2 ^ (eb - ea)
  let num := b * 2 ^ 26 - dot756 rowOf y * s
  let l := rowOf.getD i 0
  let v ← narrow done (if l = 0 then toSigned 64 (ofInt 64 (Config.quotientByZero num)) else rneQuot (num * 2 ^ 30) (l * s))
  pure (y.set i v)

/-- A substitution of one column: forward over L′, or backward over its transpose. `base`: tile columns completed before it. -/
def substitute (l lt : Mat) (nhat : Nat) (back : Bool) (base ea eb : Nat) (b : List Int) : Fail (List Int) :=
  let order := if back then (List.range nhat).reverse else List.range nhat
  order.zipIdx.foldlM (fun y x =>
    substRow (base + x.2 / 64) ((if back then lt else l).getD x.1 []) x.1 ea eb (b.getD x.1 0) y) (List.replicate nhat 0)

/-- k_b of a column whose sum of squares is ρ: the smallest integer with 2^(2k_b) ≥ 1.001·ρ. For a ρ of 0, and for an infinite one, the
rule names none, and it is free (assumption 67, DESIGN CHOICE). -/
def rhsExponent (rho : Nat) : Int :=
  let free := toSigned 8 (ofInt 8 (Config.rhsExponent rho))
  match decodeF fp32 rho with
  | .fin _ m x => if m = 0 then free else (leastFrom (fun k => !(Flt.fin false 1000 (2 * k)).lt (.fin false (1001 * m) x)) (-80) 160).getD free
  | _ => free

/-- The sum of squares of a column, by the canonical tree in FP32. -/
def colNorm (c : List Nat) : Nat := treeSum (c.map fun x => fMul fp32 x x)

/-- TRSOLVE: Y by columns with its exponent, and k_b. `cols`: the right-hand sides. -/
def trsolve (l : Mat) (n nhat : Nat) (k : Int) (eps : Nat) (trans both : Bool) (cols : List (List Nat)) :
    Fail (List (List Int) × Nat × Int) := do
  if cols.any fun c => c.any (fNonfinite fp32) then throw (1, 0)
  let kb := rhsExponent (cols.foldl (fun m c => f32max m (colNorm c)) 0)
  let e1 ← rangeExponent 2 k eps
  let e2 ← if both then rangeExponent 1 k eps else pure e1
  let lt := transposeM nhat l
  let ys ← cols.mapM fun c => do
    let b ← (List.range nhat).mapM fun i => if i < n then s130Of 0 (decodeF fp32 (c.getD i 0)) (-kb) else pure 0
    if both then
      let z ← substitute l lt nhat false 0 0 e1 b
      substitute l lt nhat true (nhat / 64) e1 e2 z
    else substitute l lt nhat trans 0 0 e1 b
  pure (ys, e2, kb)

/-! ### ROOT (R181, R193) -/

/-- One iteration: T, then p products for M and one for X. -/
def rootStep (p nhat done : Nat) (s : Mat × Mat) : Fail (Mat × Mat) := do
  let (m, x) := s
  let th ← m.zipIdx.mapM fun r => r.1.zipIdx.mapM fun c =>
    fit130 done (rneDiv ((if r.2 = c.2 then ((p : Int) + 1) * one130 else 0) - c.1) (2 * p))
  let w ← (List.range p).foldlM (fun w _ => mulM done nhat true th w) m
  let x ← mulM done nhat true x th
  pure (w, x)

/-- The warm start of ROOT (R193): M₀ and X₀ from the stored X in units of 2^we. -/
def rootWarm (p nhat ex : Nat) (we : Int) (a x0 : Mat) : Fail (Mat × Mat) := do
  let w ← (List.range p).foldlM (fun w _ => mulM 0 nhat false x0 w) a
  let rs := w.foldl (fun m r => max m ((r.map Int.natAbs).sum)) 0
  let g := ((leastFrom (fun g => !(Flt.fin false 1 30).lt (.fin false rs (p * (we - g)))) 0 4096).getD 0)
  let m ← w.mapM fun r => r.mapM fun v => fit130 0 (rneShift v (p * (we - g)))
  let x ← x0.mapM fun r => r.mapM fun v => fit130 0 (rneShift v (we - g - ex))
  pure (m, x)

/-- ROOT: X in units of 2^e_X, with M at the end. -/
def rootOf (p nhat iters ex : Nat) (a : Mat) (warm : Option (Int × Mat)) : Fail (Mat × Mat) := do
  let start ← match warm with
    | some (we, x0) => rootWarm p nhat ex we a x0
    | none => pure (a, (identityM nhat).map fun r => r.map fun v => rneShift v (-(ex : Int)))
  (List.range iters).foldlM (fun s it => rootStep p nhat it s) start

/-- The residual of ROOT: the largest |M − I|. -/
def identityGap (m : Mat) : Nat :=
  m.zipIdx.foldl (fun b r => r.1.zipIdx.foldl (fun b c => max b (c.1 - (if r.2 = c.2 then one130 else 0)).natAbs) b) 0

/-! ### JACOBI (R182, R193) -/

/-- The pairs of round r, each as smaller and larger. -/
def jacobiPairs (nhat r : Nat) : List (Nat × Nat) :=
  let w := nhat - 1
  let pair (x y : Nat) : Nat × Nat := (min x y, max x y)
  pair (r % w) w :: (List.range (nhat / 2 - 1)).map fun i => pair ((r + (i + 1)) % w) ((r + w * (i + 1) - (i + 1)) % w)

/-- The rotation matrix of a round: identity but for the pairs whose off-diagonal element is not 0. -/
def jacobiRound (nhat r : Nat) (a : Mat) : Mat :=
  (jacobiPairs nhat r).foldl (fun j p =>
    let x := a.el p.1 p.2
    if x = 0 then j
    else
      let (c, s) := Config.jacobiRotation (a.el p.1 p.1) (a.el p.2 p.2) x
      let c := toSigned 32 (ofInt 32 c)
      let s := toSigned 32 (ofInt 32 s)
      let j := j.set p.1 (((j.getD p.1 []).set p.1 c).set p.2 s)
      j.set p.2 (((j.getD p.2 []).set p.1 (-s)).set p.2 c)) (identityM nhat)

/-- One round: rows, then columns, then V. -/
def jacobiStep (nhat done r : Nat) (s : Mat × Mat) : Fail (Mat × Mat) := do
  let j := jacobiRound nhat r s.1
  let a ← mulM done nhat false (transposeM nhat j) s.1
  let a ← mulM done nhat false a j
  let v ← mulM done nhat false s.2 j
  pure (a, v)

/-- JACOBI: the rotated matrix and V. -/
def jacobiOf (nhat sweeps : Nat) (a : Mat) (warm : Option Mat) : Fail (Mat × Mat) := do
  let start ← match warm with
    | some v => do
      let b ← mulM 0 nhat false (transposeM nhat v) a
      let b ← mulM 0 nhat false b v
      pure (b, v)
    | none => pure (a, identityM nhat)
  (List.range (sweeps * (nhat - 1))).foldlM (fun s i => jacobiStep nhat (i / (nhat - 1)) (i % (nhat - 1)) s) start

/-- The largest off-diagonal magnitude. -/
def offDiagonal (m : Mat) : Nat :=
  m.zipIdx.foldl (fun b r => r.1.zipIdx.foldl (fun b c => if r.2 = c.2 then b else max b c.1.natAbs) b) 0

/-! ### CG (R183, R193) -/

/-- One column of CG: δ, r and p in their units, ρ, and ρ at the start, in FP64. -/
structure CgCol where
  delta : List Int
  r     : List Int
  p     : List Int
  rho   : Nat
  rho0  : Nat
  deriving DecidableEq, Repr

/-- A dot product of S1.30 vectors in units of 2^e each, rounded once to FP64. -/
def dot64 (e : Int) (a b : List Int) : Nat := encodeF fp64 (ofSigned (dot756 a b) (2 * e - 56))

/-- An FP64 scalar as an S1.30 mantissa with a power-of-two exponent. -/
def mantissa64 (v : Nat) : Int × Int :=
  match decodeF fp64 v with
  | .fin neg m e =>
    if m = 0 then (0, 0)
    else
      let top := Nat.log2 m
      let x := rneShift (signedMant neg m) (30 - (top : Int))
      if x.natAbs = 2 ^ 31 then (x / 2, e + top + 1) else (x, e + top)
  | _ => (0, 0)

/-- base·2^s + mantissa·v·2^t, rounded once to S1.30. -/
def scaledAdd (done : Nat) (base : Int) (s : Int) (mv : Int) (t : Int) : Fail Int :=
  let lo := min s t
  fit130 done (rneShift (base * 2 ^ (s - lo).toNat + mv * 2 ^ (t - lo).toNat) lo)

/-- One iteration on one column, with the units of δ, r and p. Assumption 69, DESIGN CHOICE. -/
def cgStep (a : Mat) (ed er ep : Nat) (done : Nat) (c : CgCol) : Fail CgCol := do
  let w ← a.mapM fun r => narrow done (dot756 r c.p)
  let gamma := dot64 ep c.p w
  if !(Flt.zero.lt (decodeF fp64 gamma)) then throw (2, done)
  let (ma, xa) := mantissa64 (fDiv fp64 c.rho gamma)
  let delta ← (c.delta.zip c.p).mapM fun x => scaledAdd done x.1 0 (ma * x.2) (xa + ep - ed - 30)
  let r ← (c.r.zip w).mapM fun x => scaledAdd done x.1 0 (-(ma * x.2)) (xa + ep - er - 30)
  let rho1 := dot64 er r r
  let (mb, xb) := mantissa64 (fDiv fp64 rho1 c.rho)
  let p ← (r.zip c.p).mapM fun x => scaledAdd done x.1 ((er : Int) - ep) (mb * x.2) (xb - 30)
  pure { c with delta := delta, r := r, p := p, rho := rho1 }

/-- The residual b − A′·x₀ of one column, in FP32: each element rounded once. x₀ stands in units of 2^we. -/
def cgResidual (a : Mat) (we : Int) (x0 : List Int) (b : List Nat) : List Nat :=
  b.zipIdx.map fun x => encodeF fp32 ((decodeF fp32 x.1).add (ofSigned (-(dot756 (a.getD x.2 []) x0)) (we - 56)))

/-- CG: each column's k_r and state at the end. `x0`: the stored solution by columns, in units of 2^we. `ep`: e of p. -/
def cgOf (nhat iters ed er ep : Nat) (a : Mat) (we : Int) (x0 : List (List Int)) (rhs : List (List Nat)) :
    Fail (List (Int × CgCol)) := do
  let start ← rhs.zipIdx.mapM fun c => do
    let r := match x0[c.2]? with | some x => cgResidual a we x c.1 | none => c.1
    let kr := rhsExponent (colNorm r)
    let rs ← (List.range nhat).mapM fun i => match r[i]? with
      | some v => s130Of 0 (decodeF fp32 v) (-kr - er)
      | none => pure 0
    let rho := dot64 er rs rs
    let ps := rs.map fun v => rneShift v ((er : Int) - ep)
    pure (kr, ({ delta := List.replicate nhat 0, r := rs, p := ps, rho := rho, rho0 := rho } : CgCol))
  (List.range iters).foldlM (fun (s : List (Int × CgCol)) it =>
    s.mapM fun c => do
      let c' ← cgStep a ed er ep it c.2
      pure (c.1, c')) start

/-- The exponent of p: ⌈log2(√ITER·q)⌉, the smallest e with 2^(2e)·ε² ≥ ITER·2^(2k). -/
def cgExponent (iters : Nat) (k : Int) (eps : Nat) : Fail Nat :=
  match decodeF fp32 eps with
  | .fin false m x =>
    match leastFrom (fun e => !(Flt.fin false (m * m) (2 * x + 2 * e)).lt (.fin false iters (2 * k))) 0 31 with
    | some e => if m = 0 then .error (4, 0) else .ok e.toNat
    | none => .error (4, 0)
  | _ => .error (4, 0)

/-! ### Work (R175 to R177) -/

/-- Bytes of a solver record's content. -/
def contentBytes (fn nhat : Nat) : Nat := if fn = 5 then 256 * nhat else 4 * nhat * nhat

/-- Cycles of a solve; `warm` where the warm prologue is run. -/
def solveCycles (fn nhat iters p m : Nat) (both state warm : Bool) : Nat :=
  let nn := nhat / 64
  let mm := ceilDiv m 64
  let s := contentBytes fn nhat / 256
  let z := (if state then s else 0) + (if warm then
      s + (if fn = 3 then p * nhat ^ 3 / 4096 else if fn = 4 then 2 * nhat ^ 3 / 4096 else nhat ^ 2 / 64) + 2048
    else 0)
  match fn with
  | 1 => 1024 * nn + 64 * nn * (nn - 1) + 32 * (nn ^ 3 - nn) / 3 + 40000
  | 2 => (if both then 2 else 1) * (128 * nn * mm + 32 * nn * (nn - 1) * mm) + 40000
  | 3 => iters * (p + 1) * nhat ^ 3 / 4096 + 40000 + z
  | 4 => iters * (nhat - 1) * (6 * nhat ^ 2 / 4096 + 64) + 40000 + z
  | _ => iters * (nhat ^ 2 / 64 + 5 * nhat / 64 + 128) + 40000 + z

/-- Scratch bytes of a solve. -/
def scratchBytes (fn nhat m : Nat) : Nat :=
  match fn with
  | 1 => 8 * nhat ^ 2
  | 2 => 4 * nhat ^ 2 + 8 * 64 * ceilDiv m 64 * nhat
  | 3 => 16 * nhat ^ 2
  | 4 => 12 * nhat ^ 2
  | _ => 4 * nhat ^ 2 + 40 * 64 * nhat

/-! ### Records (R187, R191) -/

/-- A structure signature. -/
def signature (width blockN block fn p damp m pattern expert : Nat) : Bytes :=
  toLE 4 width ++ toLE 2 blockN ++ toLE 2 block ++ toLE 1 fn ++ toLE 1 p ++ toLE 1 damp ++ [0] ++ toLE 4 m ++ toLE 8 pattern
    ++ toLE 2 expert ++ zeros 6

/-- A solver record; TIME is written at the commit. Assumption 70, DESIGN CHOICE. -/
def solverRecord (sig : Bytes) (k : Int) (e iters eps residual : Nat) (content : List Int) : Bytes :=
  sig ++ [1] ++ toLE 1 (ofInt 8 k) ++ toLE 1 e ++ [0] ++ toLE 4 iters ++ toLE 4 eps ++ toLE 4 residual ++ zeros 16
    ++ content.flatMap fun v => toLE 4 (ofInt 32 v)

/-- The content of a record as rows of `cols` elements. -/
def recordMat (rec : Bytes) (rows cols : Nat) : Mat :=
  (List.range rows).map fun i => (List.range cols).map fun j => toSigned 32 (rd rec (64 + 4 * (i * cols + j)) 4)

end Sys2Proof.Machine
end

