-- ==== Sys2Proof/Machine/Stats.lean ====
section
/-!
DEFINITION. Curvature statistics: STATS_CONFIG (R152 to R154), the accumulation of sampled rows (R149), the blend of a factor
(R156 to R160), and PHASE_BOUNDARY (R27, R28, R156, R199).
-/
namespace Sys2Proof.Machine

/-! ### Shapes -/

/-- Whether a kind keeps full matrices (R145). -/
def fullKind (kind : Nat) : Bool := kind ≤ 1

/-- The experts of a context: DIM[2] of an expert weight, 1 of a dense one. -/
def expertsOf (w : Tensor) : Nat := if w.expert then w.dims.getD 2 1 else 1

/-- The factor tensor's dims that a kind requires for a weight (R152). -/
def factorDims (kind n : Nat) (w : Tensor) : List Nat :=
  (if fullKind kind then [n, n] else [n]) ++ (if w.expert then [w.dims.getD 2 1] else [])

/-- Bytes of the partial sums of one expert (R154). -/
def partialBytes (kind n : Nat) : Nat := pad64 (if fullKind kind then n * (n + 1) / 2 * 4 else n * 4)

/-- The elements of a context's sum, in order: row and column of the upper triangle, or of the diagonal (R149). -/
def sumElems (kind n : Nat) : List (Nat × Nat) :=
  if fullKind kind then (List.range n).flatMap fun i => (List.range (n - i)).map fun j => (i, i + j)
  else (List.range n).map fun i => (i, i)

/-! ### STATS_CONFIG (R152 to R154) -/

/-- The context that a packet describes, for rows of width n. -/
def contextOf (e : Entry) (n : Nat) (old : StatsCtx) : StatsCtx :=
  { old with
    width := n
    weight := if e.param 20 4 = 0 then 0 else tensorKeyOf e.lot (e.param 20 4 % 2 ^ 24)
    partner := if e.param 24 4 = 0 then 0 else tensorKeyOf e.lot (e.param 24 4 % 2 ^ 24)
    beta := e.param 28 4, lambda := e.param 32 4, kind := e.param 36 1, subsample := e.param 37 1, phase := e.param 38 1
    damp := e.param 39 1 % 4, period := e.param 40 2, offset := e.param 42 2, enable := (e.param 44 1).testBit 0
    cold := (e.param 44 1).testBit 1 }

/-- A context's fields in force after a STATS_CONFIG: a change of KIND, WEIGHT, SUBSAMPLE or SAMPLE_OFFSET zeroes its sum (R154). -/
def StatsCtx.replace (old : StatsCtx) (e : Entry) (n : Nat) : StatsCtx :=
  let c := contextOf e n old
  if c.kind ≠ old.kind || c.weight ≠ old.weight || c.subsample ≠ old.subsample || c.phase ≠ old.phase then
    { c with partials := [], rows := 0 }
  else c

/-- Contexts that a lot holds; `none` for all lots. -/
def Device.contextCount (d : Device) (tag : Option Nat) : Nat :=
  (d.solver.contexts.filter fun c => c.1 % 2 ^ 16 = 0 && match tag with | some t => c.1 / 2 ^ 40 = t | none => true).length

/-- The other STATS_CONFIG commands of a lot, or of all, that will create a context when they commit (R153). -/
def Device.stagedContexts (d : Device) (id : Nat) (tag : Option Nat) : List Entry :=
  d.journal.filter fun e => e.id ≠ id && e.op = .statsConfig && e.inFlight && !e.members.isEmpty && tag.all (· = e.lot)
    && (Tab.find d.solver.contexts (ctxKey (tensorKeyOf e.lot (e.param 16 4 % 2 ^ 24)) 0)).isNone

/-- The experts and the width of the context that a packet describes, after the checks of R153. The width is that of the factor tensor, which
is one of the weight's two: n_in is DIM[1], or DIM[0] of a weight stored the other way (R145; assumption 139, DEDUCED). -/
def statsShape (e : Entry) (f : Tensor) (d : Device) : Res (Nat × Nat) := do
  let kind := e.param 36 1
  let s := e.param 37 1
  check (kind ≤ 4 && s ≤ 6 && e.param 38 1 < 2 ^ s && 1 ≤ e.param 40 2 && e.param 42 2 < e.param 40 2) .eParam d
  check (f32unit (e.param 28 4) && f32nonneg (e.param 32 4)) .eParam d
  check (e.param 39 1 % 4 = 2 || e.param 24 4 = 0) .eParam d
  if e.param 39 1 % 4 = 2 then
    let _ ← d.find e (e.param 24 4)
  if kind = 4 then
    check (e.param 20 4 = 0 && f.fmt = .uint8 && f.count % 32 = 0) .eParam d
    pure (1, 0)
  else
    let (_, w) ← d.find e (e.param 20 4)
    check (w.param && (w.dims.length = 2 || w.dims.length = 3)) .eParam d
    let n := f.dims.getD 0 0
    check ((n = w.dims.getD 0 0 || n = w.dims.getD 1 0) && n % 32 = 0 && 32 ≤ n && n ≤ 65536 && f.fmt = .fp32 && f.dims = factorDims kind n w) .eParam d
    pure (expertsOf w, n)

/-- STATS_CONFIG. A query of a factor without a context fails with E_PARAM, and one of an expert factor reports expert 0
(assumption 31, DESIGN CHOICE). -/
def statsConfigBody (e : Entry) (d : Device) : Res (Nat × Nat × Device) := do
  let (key, f) ← d.find e (e.param 16 4)
  if (e.param 44 1).testBit 2 then
    let c ← need (Tab.find d.solver.contexts (ctxKey key 0)) .eParam d
    pure (c.blends % 2 ^ 32, c.trace * 2 ^ 32 + c.eps, d)
  else
    let (experts, n) ← statsShape e f d
    let isNew := (Tab.find d.solver.contexts (ctxKey key 0)).isNone
    let bytes := if e.param 36 1 = 4 then 0 else partialBytes (e.param 36 1) n
    let others (tag : Option Nat) : Nat := d.contextCount tag + (d.stagedContexts e.id tag).length
    check (!isNew || (others (some e.lot) < (d.lot e.lot).statsMax && others none < 16384)) .eQuota d
    let old := ((List.range experts).map fun x => extentsOf (Tab.look {} d.solver.contexts (ctxKey key x)).bytes).sum
    let more := experts * extentsOf bytes - old
    check (d.heldExtents e.lot + more ≤ d.quotaExtents e.lot) .eQuota d
    pure (0, if isNew then experts * bytes else 0, d.modEntry e.id fun x => { x with
      members := List.replicate experts bytes, received := [n], reserved := more })

/-- The commit of a STATS_CONFIG: one context for each expert is created, or its fields replaced. -/
def commitStats (e : Entry) (d : Device) : Device :=
  let key := tensorKeyOf e.lot (e.param 16 4 % 2 ^ 24)
  e.members.zipIdx.foldl (fun d b =>
    let k := ctxKey key b.2
    let c := match Tab.find d.solver.contexts k with
      | some old => { old.replace e (e.received.headD 1) with bytes := b.1 }
      | none => { contextOf e (e.received.headD 1) {} with bytes := b.1 }
    { d with solver := { d.solver with contexts := Tab.insert c d.solver.contexts k } }) d

/-- STATS_CONFIG. -/
def execStatsConfig (stream : StreamId) (s : State) : Out := s.onDev fun d => d.runOp stream .statsConfig statsConfigBody

/-! ### Accumulation (R149) -/

/-- Continues the chains of a context over one sampled row: the values at the positions captured. -/
def StatsCtx.addRow (c : StatsCtx) (kind n : Nat) (row : List PanelRow) : StatsCtx :=
  let val (i : Nat) : Option Nat := row.findSome? fun p => if p.origin ≤ i then p.values[i - p.origin]? else none
  let us := (List.range n).filterMap fun i => (val i).map fun v => (i, v)
  let pairs := if fullKind kind then us.flatMap fun a => (us.filter fun b => a.1 ≤ b.1).map fun b => (a, b) else us.map fun a => (a, a)
  { c with
    rows := c.rows + 1
    partials := pairs.foldl (fun t (p : (Nat × Nat) × (Nat × Nat)) =>
      let k := p.1.1 * 2 ^ 17 + p.2.1
      Tab.put 0 (fFma fp32 p.1.2 p.2.2 (Tab.look 0 t k)) t k) c.partials }

/-- The accumulation of a launch that commits: each context's sampled rows in increasing logical index, as it was configured at the launch's
dispatch (R149, R154). -/
def Device.accumulate (d : Device) (e : Entry) : Device :=
  let mine := d.solver.panels.filter fun p => p.entry = e.id
  let keys := (mine.map fun p => p.factor).eraseDups
  keys.foldl (fun d k =>
    match Tab.find d.solver.contexts k, e.taps.find? fun t => t.key = k with
    | some c, some t =>
      let rows := mine.filter fun p => p.factor = k
      let last := rows.foldl (fun m p => max m p.row) 0
      let indices := (List.range (last + 1)).filter fun i => rows.any fun p => p.row = i
      let c := indices.foldl (fun (c : StatsCtx) i => c.addRow t.kind t.width (rows.filter fun p => p.row = i)) c
      { d with solver := { d.solver with contexts := Tab.insert c d.solver.contexts k } }
    | _, _ => d) d

/-! ### The blend (R156 to R160) -/

/-- The cluster whose solver unit blends a factor (R157): the home cluster, or the next ENABLED one in ascending cyclic order. -/
def Device.blendCluster (d : Device) (index expert : Nat) : Option Nat :=
  (List.range Config.clusters).map (fun k => ((index + expert) % 32 + k) % 32) |>.find? fun c => (d.cluster c).state = .enabled

/-- π of class SPLIT (R160), with whether it is taken as 1. Each line of R160 is one rounding of its exact value (assumption 137, DEDUCED). -/
def splitPi (tr n trP nP : Nat) (paired : Bool) : Nat × Bool :=
  let dead (t : Nat) : Bool := fIsZero fp32 t || fNonfinite fp32 t
  if !paired || dead tr || dead trP then (one32, true)
  else
    let scaled (t n : Nat) : Flt := (decodeF fp32 t).mul (Flt.ofInt n)
    (encodeF fp32 ((scaled tr nP).div (scaled trP n)).sqrt, false)

/-- EPS of a context (R160). `diag`: the factor's diagonal; `pi`: π of class SPLIT. -/
def epsOf (c : StatsCtx) (trace n : Nat) (diag : List Nat) (pi : Nat) : Nat :=
  match c.damp with
  | 0 => c.lambda
  | 1 => encodeF fp32 (((decodeF fp32 c.lambda).mul (decodeF fp32 trace)).div (Flt.ofInt n))
  | 2 =>
    let p := decodeF fp32 pi
    encodeF fp32 ((decodeF fp32 c.lambda).mul (p.mul p)).sqrt
  | _ => fMul fp32 c.lambda (tree f32max 0 diag)

/-- The blended value of one element (R157). -/
def blendElem (first : Bool) (beta ns sum old : Nat) : Nat :=
  let n := fOfInt fp32 ns
  if first then fMul fp32 (fDiv fp32 one32 n) sum
  else fFma fp32 beta old (fMul fp32 (fDiv fp32 (fSub fp32 one32 beta) n) sum)

/-- The byte offset of element (i, j) of a factor for one expert. -/
def factorOff (kind n expert i j : Nat) : Nat := 4 * (if fullKind kind then expert * n * n + i * n + j else expert * n + i)

/-! The blend on a solver unit (R157, R160, R178): a part is blended from its reduced sums, the parts of a pair as one unit. -/

/-- The blend of one part into its factor: the new elements and TRACE in one write (R157). EPS follows once the traces of all parts stand. -/
def Device.blendPart (d : Device) (step : Nat) (b : BlendPart) : Device :=
  match Tab.find d.solver.contexts b.key, d.tensor (b.key / 2 ^ 16) with
  | some c, some f =>
    let ex := b.key % 2 ^ 16
    let first := c.cold || c.blends = 0
    let new := ((sumElems c.kind c.width).zip b.sums).map fun x =>
      let off := factorOff c.kind c.width ex x.1.1 x.1.2
      (x.1, blendElem first c.beta b.rows x.2 (leNat (d.readExtents f.extents off 4)))
    let d := new.foldl (fun (d : Device) x =>
      let put (d : Device) (i j : Nat) : Device := d.writeCommitted f (factorOff c.kind c.width ex i j) (toLE 4 x.2) (b.key / 2 ^ 40) 0
      let d := put d x.1.1 x.1.2
      if fullKind c.kind && x.1.1 ≠ x.1.2 then put d x.1.2 x.1.1 else d) d
    let diag := (new.filter fun x => x.1.1 = x.1.2).map fun x => x.2
    let trace := treeSum diag
    let c : StatsCtx := { c with
      cold := false, blends := c.blends + 1, trace := trace, eps := epsOf c trace c.width diag one32, blendedAt := some step }
    { d with solver := { d.solver with contexts := Tab.insert c d.solver.contexts b.key } }
  | _, _ => d

/-- EPS of a part of class SPLIT from the traces of its pair as they stand at a step; a π taken as 1 is counted (R160). -/
def Device.splitPart (d : Device) (step : Nat) (b : BlendPart) : Device :=
  match Tab.find d.solver.contexts b.key with
  | none => d
  | some c =>
    if c.damp ≠ 2 then d
    else
      let p := Tab.look {} d.solver.contexts (ctxKey c.partner (b.key % 2 ^ 16))
      let (pi, one) := splitPi c.trace c.width p.trace p.width (p.blendedAt = some step)
      let c := { c with eps := epsOf c c.trace c.width [] pi }
      let d := { d with solver := { d.solver with contexts := Tab.insert c d.solver.contexts b.key } }
      if one then d.addNwatch (b.key / 2 ^ 40) 5 1 else d

/-- The end of a blend: every part, then the EPS of each pair. -/
def Device.endBlend (d : Device) (b : BlendJob) : Device :=
  let d := b.parts.foldl (fun d x => d.blendPart b.step x) d
  b.parts.foldl (fun d x => d.splitPart b.step x) d

/-- CORE cycles of a blend (R175, text before R178): 16 elements of the upper triangle a cycle, and 4,096, for each part. -/
def BlendJob.cycles (b : BlendJob) : Nat := (b.parts.map fun x => ceilDiv x.sums.length 16 + 4096).sum

/-- The TIME ticks of W CORE cycles at the divider in force (R195). -/
def Device.solveTicks (d : Device) (w : Nat) : Nat := ceilDiv (w * (4 + d.power.pstate)) 96

/-- A unit that runs nothing takes the first blend that waits for it, ahead of every waiting solve (R178). -/
def Device.takeBlend (d : Device) (c : Nat) : Device :=
  let u := d.unit c
  match u.blends with
  | b :: rest =>
    if u.busy || u.blend.isSome || d.time < u.wipeUntil then d
    else d.setUnit c { u with blend := some { b with endsAt := d.time + d.solveTicks b.cycles }, blends := rest, start := d.time }
  | [] => d

/-- A blend joins the queue of its home cluster's unit (R157, R178); where no cluster is ENABLED it waits on the home cluster's. -/
def Device.queueBlend (d : Device) (b : BlendJob) : Device :=
  let key := (b.parts.headD { key := 0, rows := 0, sums := [] }).key
  let index := key / 2 ^ 16 % 2 ^ 24
  let c := (d.blendCluster index (key % 2 ^ 16)).getD ((index + key % 2 ^ 16) % 32)
  (d.setUnit c { d.unit c with blends := (d.unit c).blends ++ [b] }).takeBlend c

/-- The parts held for a context's blend, as their PARTNER (R160). -/
def Device.heldFor (d : Device) (k : Nat) : List BlendPart :=
  d.solver.contexts.filterMap fun c => if c.2.damp = 2 && ctxKey c.2.partner (c.1 % 2 ^ 16) = k then c.2.held else none

/-- Clears the parts that a context holds. -/
def Device.dropHeld (d : Device) (parts : List BlendPart) : Device :=
  { d with solver := { d.solver with
      contexts := d.solver.contexts.map fun (c : Nat × StatsCtx) => if parts.any fun x => x.key = c.1 then (c.1, { c.2 with held := none }) else c } }

/-- Whether a context takes part in the blends of a step and has not been reduced yet. -/
def StatsCtx.awaits (c : StatsCtx) (step : Nat) : Bool := c.due step && c.reducedAt ≠ some step

/-- A reduced part goes on to its blend, or, in class SPLIT, waits for a PARTNER that is still to be reduced in the step; the parts that wait
for this one go with it (R160). -/
def Device.blendOrHold (d : Device) (lot step : Nat) (c : StatsCtx) (b : BlendPart) : Device :=
  let waits := c.damp = 2 && match Tab.find d.solver.contexts (ctxKey c.partner (b.key % 2 ^ 16)) with
    | some p => p.awaits step
    | none => false
  if waits then
    { d with solver := { d.solver with
        contexts := d.solver.contexts.map fun (x : Nat × StatsCtx) => if x.1 = b.key then (x.1, { x.2 with held := some b }) else x } }
  else
    let others := d.heldFor b.key
    (d.dropHeld others).queueBlend { lot := lot, step := step, parts := others ++ [b] }

/-- Whether this device owns the contexts of a weight for an expert (R312). -/
def Device.ownsContext (d : Device) (weight : Nat) (w : Tensor) (expert : Nat) : Bool :=
  let p := d.partsOf weight w
  let j := weight % 2 ^ 24 % p
  (d.ownedShards weight w).contains (if w.expert then expert * p + j else j)

/-- BLEND: in the curvature phase of a step at which a context is due, the reduction of its sums over the devices that hold sampled rows, in
the canonical tree by rank, once; every device's partial sum is zeroed, and on the devices that own the factor the blend is queued on the unit
of the home cluster (R156 to R158, R178, R312). `peers`: what the other devices contribute. Assumption 62, DESIGN CHOICE. -/
def Device.blend (d : Device) (lot handle expert : Nat) (peers : List PeerStats) : Device :=
  match d.lookup lot handle with
  | none => d
  | some (key, _) =>
    let k := ctxKey key expert
    match Tab.find d.solver.contexts k with
    | none => d
    | some c =>
      match d.tensor c.weight with
      | none => d
      | some w =>
        let j := d.job w.job
        let step := j.phaseStep
        if !d.running || j.phase ≠ 2 || !c.awaits step then d
        else
          let elems := sumElems c.kind c.width
          let mine : PeerStats :=
            { member := d.rank j, rows := c.rows, sums := elems.map fun x => Tab.look 0 c.partials (x.1 * 2 ^ 17 + x.2) }
          let all := (List.range (max 1 j.size)).filterMap fun r => (mine :: peers).find? fun p => p.member = r && p.rows ≠ 0
          let ns := (all.map fun p => p.rows).sum
          let c : StatsCtx := { c with partials := [], rows := 0, reducedAt := some step }
          let d : Device := { d with solver := { d.solver with contexts := Tab.insert c d.solver.contexts k } }
          let sums := elems.zipIdx.map fun x => treeSum (all.map fun p => p.sums.getD x.2 0)
          let release (d : Device) : Device :=
            let others := d.heldFor k
            if others.isEmpty then d else (d.dropHeld others).queueBlend { lot := lot, step := step, parts := others }
          if !d.ownsContext c.weight w expert then d
          else if ns = 0 then release (d.addNwatch lot 3 1)
          else if sums.any (fNonfinite fp32) then release ((d.addNwatch lot 4 1).stateEvent lot handle expert 0)
          else d.blendOrHold lot step c { key := k, rows := ns, sums := sums }

/-- BLEND. -/
def execBlend (lot : Lot) (factor expert : Nat) (peers : List PeerStats) (s : State) : Out :=
  s.onClocked fun d => d.blend lot factor expert peers

/-! ### PHASE_BOUNDARY -/

/-- The pending roots whose time has come take effect for the optimiser phase that begins (R28, R199). -/
def Precond.begin (p : Precond) (step : Nat) : Precond :=
  match p.pendingFrom with
  | some f => if f ≤ step then { active := p.pendingSet, pendingFrom := none, pendingSet := [] } else p
  | none => p

/-- The parts of a job that are still held for a PARTNER. -/
def Device.heldParts (d : Device) (ofJob : Nat → Bool) : List BlendPart :=
  d.solver.contexts.filterMap fun c => if ofJob c.2.weight then c.2.held else none

/-- Whether a unit still runs or holds a blend of a lot's contexts of a job. -/
def Device.blending (d : Device) (ofJob : Nat → Bool) : Bool :=
  d.solver.units.any fun u => (u.2.blends ++ u.2.blend.toList).any fun b => b.parts.any fun x =>
    match Tab.find d.solver.contexts x.key with
    | some c => ofJob c.weight
    | none => false

/-- Whether the phase of a job in force has ended on this device (R27): no launch of the phase runs; the SOLVE commands dispatched have been
admitted where it is the solve phase; the SHARD_UPDATE commands of the step have committed where it is the optimiser phase, since the model
takes the shards that they name to be those that the next forward gather needs. Assumption 130, DEDUCED. -/
def Device.phaseEnded (d : Device) (job : Nat) : Bool :=
  let j := d.job job
  d.journal.all fun e =>
    (d.stream e.stream).job ≠ job || e.phase = .committed || !e.status.good
      || !(((e.op = .opLaunch || e.op = .graphLaunch) && e.phase = .dispatched && e.ran && e.phaseByte = j.phase)
        || (j.phase = 3 && e.op = .solve && e.phase = .dispatched && !e.ran)
        || (j.phase = 4 && e.op = .shardUpdate && e.param 24 8 = j.phaseStep))

/-- PHASE_BOUNDARY: once a phase has ended, the phases follow forward, backward, curvature, solve, optimiser, and the forward phase of the next
step (R27). An optimiser phase takes the pending roots. A curvature phase that ends first blends the parts whose PARTNER was not blended in
the step (R160; assumption 63, DESIGN CHOICE), and leaves no partial sum (R156). -/
def execPhaseBoundary (job : Nat) (s : State) : Out :=
  s.onDev fun d =>
    let j := d.job job
    let ofJob (key : Nat) : Bool := match d.tensor key with | some t => t.job = job | none => false
    if !d.running || !d.phaseEnded job || (j.phase = 2 && d.blending ofJob) then d
    else
      let held := if j.phase = 2 then d.heldParts ofJob else []
      if !held.isEmpty then
        held.foldl (fun (d : Device) b => d.queueBlend { lot := b.key / 2 ^ 40, step := j.phaseStep, parts := [b] }) (d.dropHeld held)
      else
        let next := (j.phase + 1) % 5
        let step := if next = 0 then j.phaseStep + 1 else j.phaseStep
        let d := if next = 4 then
            { d with solver := { d.solver with
                preconds := d.solver.preconds.map fun (p : Nat × Precond) => if ofJob p.1 then (p.1, p.2.begin step) else p } }
          else if j.phase = 2 then
            { d with solver := { d.solver with
                contexts := d.solver.contexts.map fun (c : Nat × StatsCtx) =>
                  if ofJob c.2.weight && c.2.due j.phaseStep then (c.1, { c.2 with partials := [], rows := 0 }) else c } }
          else d
        (d.setJob job { d.job job with phase := next, phaseStep := step }).settleMap job

end Sys2Proof.Machine
end

