-- ==== Sys2Proof/Machine/Solver.lean ====
section
/-!
DEFINITION. SOLVE and PRECOND_INSTALL (R161, R162, R166 to R168, R184 to R199): checks, admission, the run of a solve on a unit by steps,
suspension, deadlines, commit.
-/
namespace Sys2Proof.Machine

/-! ### Ranking and shares (R161, R162) -/

/-- A deadline as a time: 0 is none. -/
def deadlineTime (v : Nat) : Nat := if v = 0 then 2 ^ 64 else v

/-- Lexicographic order of keys. -/
def keyLt : List Nat → List Nat → Bool
  | a :: s, b :: t => a < b || (a = b && keyLt s t)
  | _, _ => false

/-- The keys of R161, smallest first; acceptance order decides what they leave equal. -/
def Solve.rank (s : Solve) : List Nat := [15 - s.priority, deadlineTime s.deadline, s.admitted, s.lot, s.stream, s.entry]

/-- Whether a solve waits for a unit. -/
def Solve.waits (s : Solve) : Bool := s.place = .waiting || s.place = .suspended

/-- Whether a solve runs. -/
def Solve.runs (s : Solve) : Bool := match s.place with | .running _ => true | _ => false

/-- A solve by its entry. -/
def Device.solveOf (d : Device) (id : Nat) : Option Solve := d.solver.solves.find? fun s => s.entry = id

/-- Changes a solve. -/
def Device.modSolve (d : Device) (id : Nat) (f : Solve → Solve) : Device :=
  { d with solver := { d.solver with solves := d.solver.solves.map fun (s : Solve) => if s.entry = id then f s else s } }

/-- Solves of a lot that run. -/
def Device.solvesRunning (d : Device) (tag : Nat) : Nat := (d.solver.solves.filter fun s => s.lot = tag && s.runs).length

/-- A lot's share of units. -/
def Device.solverShare (d : Device) (tag : Nat) : Nat := (d.lot tag).solverShare

/-- Whether a waiting solve may take a unit: its predecessors are staged, and its lot is below its share or no other lot has a solve
waiting. -/
def Device.mayStart (d : Device) (s : Solve) : Bool :=
  s.waits && s.after.all (fun p => (d.solveOf p).isNone)
    && (d.solvesRunning s.lot < d.solverShare s.lot || d.solver.solves.all fun x => !x.waits || x.lot = s.lot)

/-- The first of some solves under R161. -/
def firstRanked (ss : List Solve) : Option Solve :=
  ss.foldl (fun (b : Option Solve) s => match b with
    | none => some s
    | some x => if keyLt s.rank x.rank then some s else some x) none

/-- The solve that a free unit takes. -/
def Device.nextSolve (d : Device) : Option Solve := firstRanked (d.solver.solves.filter d.mayStart)

/-- Whether a unit is free to take a solve (R168, R178). -/
def Device.unitFree (d : Device) (c : Nat) : Bool :=
  let u := d.unit c
  (d.cluster c).state = .enabled && !u.busy && u.blend.isNone && u.blends.isEmpty && u.wipeUntil ≤ d.time

/-- Whether a lot may run a waiting solve once a running one has given way to it: it is then below its share (R162). Assumption 66, DEDUCED. -/
def Device.fitsShare (d : Device) (w r : Solve) : Bool :=
  d.solvesRunning w.lot - b2n (r.lot = w.lot) < d.solverShare w.lot
    || (r.lot = w.lot && d.solver.solves.all fun x => !x.waits || x.lot = w.lot)

/-- The running solve that a waiting one preempts (R162): the one of lowest priority, then latest deadline, then latest admission. -/
def Device.preempted (d : Device) (w : Solve) : Option Solve :=
  let victims := d.solver.solves.filter fun r => r.runs && d.fitsShare w r &&
    (r.priority < w.priority
      || (d.solvesRunning r.lot > d.solverShare r.lot && d.solvesRunning w.lot < d.solverShare w.lot))
  victims.foldl (fun (b : Option Solve) r => match b with
    | none => some r
    | some x => if keyLt [x.priority, 2 ^ 64 - deadlineTime x.deadline, 2 ^ 64 - x.admitted]
        [r.priority, 2 ^ 64 - deadlineTime r.deadline, 2 ^ 64 - r.admitted]
        then some x else some r) none

/-- The first waiting solve that preempts a running one. -/
def Device.preempts (d : Device) : Option (Solve × Solve) :=
  (firstRanked (d.solver.solves.filter fun w =>
    w.waits && w.after.all (fun p => (d.solveOf p).isNone) && (d.preempted w).isSome)).bind fun w => (d.preempted w).map fun r => (w, r)

/-- Whether the solve of a unit is to give way at this boundary: to a blend that waits for the unit (R178), to a waiting solve that preempts it
(R162), or to its cluster's DISABLING. -/
def Device.givesWay (d : Device) (c : Nat) (s : Solve) : Bool :=
  (d.cluster c).state = .disabling || !(d.unit c).blends.isEmpty
    || (!(List.range Config.clusters).any d.unitFree && d.preempts.any fun p => p.2.entry = s.entry)

/-- Suspends the solve that a unit runs, in one of the save slots (R196); `none` where no slot is free. -/
def Device.suspend (d : Device) (c : Nat) : Option Device :=
  let u := d.unit c
  match d.solver.solves.find? fun s => u.busy && s.entry = u.entry with
  | none => some d
  | some s =>
    if Config.saveSlots ≤ (d.solver.solves.filter fun x => x.place = .suspended).length then none
    else
      let d := { d with solver := { d.solver with
        solves := d.solver.solves.map fun (x : Solve) => if x.entry = s.entry then { x with place := .suspended } else x } }
      let d := d.countCluster (some c) 0x10B s.lot 1
      some ((d.setUnit c { u with busy := false, entry := 0, scratch := none }).modCounts s.lot fun n =>
        { n with preempted := satAdd 0xFFFF n.preempted 1 })

/-! ### Work and progress (R167, R175, R176, R189) -/

/-- p of R191. -/
def Solve.p (s : Solve) : Nat := if s.fn = 3 then s.variant else 0

/-- The block's width rounded up to 64. -/
def padded (n : Nat) : Nat := roundUp 64 n

/-- Iterations, sweeps or tile columns that a solve runs: those of both passes of a TRSOLVE with BOTH (R189). -/
def Solve.cap (s : Solve) : Nat :=
  if s.fn ≤ 2 then padded s.width / 64 * (if s.fn = 2 && s.variant.testBit 1 then 2 else 1) else s.iters

/-- Cycles of the work between prologue and epilogue. Assumption 71, DESIGN CHOICE. -/
def Solve.loopCycles (s : Solve) : Nat :=
  solveCycles s.fn (padded s.width) s.iters s.p s.rhs (s.variant.testBit 1) false false - 40000

/-- The cycle at which `done` iterations are complete. `state`: whether a record is written. -/
def Solve.reachedAt (s : Solve) (state : Bool) (n : Nat) : Nat :=
  s.cycles - (s.loopCycles + 20000 + if state then contentBytes s.fn (padded s.width) / 256 else 0) + ceilDiv (n * s.loopCycles) (max 1 s.cap)

/-- Iterations completed at the last step boundary. -/
def Solve.done (s : Solve) (state : Bool) : Nat :=
  ((List.range s.cap).filter fun i => s.reachedAt state (i + 1) ≤ 64 * s.steps).length

/-! ### Admission (R195) -/

/-- Units with the TIME at which each becomes free. -/
def Device.unitFinish (d : Device) : List (Nat × Nat) :=
  ((List.range Config.clusters).filter fun c => (d.cluster c).state = .enabled).map fun c =>
    let u := d.unit c
    (c, if u.busy then
        max d.time (u.start + d.solveTicks (match d.solveOf u.entry with | some s => s.work | none => 0))
      else d.time)

/-- The unit with the least h, lowest index first. -/
def leastUnit (h : List (Nat × Nat)) : Option (Nat × Nat) :=
  h.foldl (fun (b : Option (Nat × Nat)) u => match b with
    | none => some u
    | some x => if u.2 < x.2 then some u else some x) none

/-- Solves in the order of R161. -/
def rankedList (ss : List Solve) : List Solve :=
  ss.foldl (fun acc s => (acc.filter fun x => keyLt x.rank s.rank) ++ [s] ++ acc.filter fun x => !keyLt x.rank s.rank) []

/-- Places waiting solves in order: the h that results, and the finish estimate of each. -/
def Device.placeWaiting (d : Device) (ws : List Solve) (h : List (Nat × Nat)) : List (Nat × Nat) × List (Nat × Nat) :=
  ws.foldl (fun (acc : List (Nat × Nat) × List (Nat × Nat)) w =>
    match leastUnit acc.1 with
    | none => acc
    | some u =>
      let t := u.2 + d.solveTicks w.work
      (acc.1.map fun x => if x.1 = u.1 then (x.1, t) else x, acc.2 ++ [(w.entry, t)])) (h, [])

/-- The finish estimate of an admitted solve. -/
def Device.finishOf (d : Device) (id : Nat) : Nat :=
  match d.solveOf id with
  | none => d.time
  | some s =>
    match s.place with
    | .running c => ((d.unitFinish.find? fun x => x.1 = c).map fun x => x.2).getD d.time
    | _ => (((d.placeWaiting (rankedList (d.solver.solves.filter Solve.waits)) d.unitFinish).2.find? fun x => x.1 = id).map fun x => x.2).getD
        d.time

/-- Whether a solve with a DEADLINE is admitted. -/
def Device.admissible (d : Device) (s : Solve) : Bool :=
  let ahead := rankedList (d.solver.solves.filter fun x => x.waits && keyLt x.rank s.rank)
  match leastUnit (d.placeWaiting ahead d.unitFinish).1 with
  | none => false
  | some u => s.after.foldl (fun t p => max t (d.finishOf p)) u.2 + d.solveTicks s.work ≤ s.deadline

/-! ### SOLVE at dispatch (R185, R188, R190) -/

/-- Whether a tensor can hold a solver record with content of `bytes` bytes. -/
def Tensor.holdsRecord (t : Tensor) (bytes : Nat) : Bool := t.fmt = .s130 && t.dims.length = 1 && 64 + bytes ≤ 4 * t.count

/-- Whether the fields of a SOLVE lie in their ranges (R175, R188). Assumption 68, DESIGN CHOICE. -/
def solveFieldsOk (e : Entry) : Bool :=
  let fn := e.param 16 1
  let v := e.param 17 1
  let o := e.param 19 1
  let it := e.param 36 2
  let m := e.param 42 2
  1 ≤ fn && fn ≤ 5 && e.param 18 1 ≤ 15 && field o 3 2 ≤ 1 && 1 ≤ e.param 40 2 && e.param 40 2 ≤ 1024
    && (if fn = 3 then v = 1 || v = 2 || v = 4 else if fn = 2 then v < 4 else v = 0)
    && (match fn with
        | 3 => 1 ≤ it && it ≤ 1024
        | 4 => 1 ≤ it && it ≤ 64
        | 5 => 1 ≤ it && it ≤ 4096
        | _ => it = 0)
    && (match fn with
        | 2 => 1 ≤ m && m ≤ 1024
        | 5 => 1 ≤ m && m ≤ 64
        | _ => m = 0)
    && (if o.testBit 1 then f32nonneg (e.param 44 4) else e.param 44 4 = 0)
    && (!o.testBit 0 || (e.param 28 4 ≠ 0 && 3 ≤ fn))
    && (e.param 28 4 = 0 || 3 ≤ fn)
    && (e.param 32 4 = 0) == (fn = 1 || fn = 3)

/-- Blocks of a factor of width w. -/
def blockCount (w bn : Nat) : Nat := ceilDiv w bn

/-- The solve that a packet asks for, after the checks of shape; its inputs are not read yet. -/
def solveShape (e : Entry) (d : Device) : Res Solve := do
  check (solveFieldsOk e) .eParam d
  let fn := e.param 16 1
  let bn := e.param 40 2
  let blk := e.param 38 2
  let m := e.param 42 2
  let (_, f) ← d.find e (e.param 20 4)
  let (_, o) ← d.find e (e.param 24 4)
  let aux ← if e.param 32 4 = 0 then pure none else (d.find e (e.param 32 4)).map fun x => some x.2
  let st ← if e.param 28 4 = 0 then pure none else (d.find e (e.param 28 4)).map fun x => some x.2
  let width ← if fn = 2 then do
      let a ← need aux .eParam d
      let n := a.dims.getD 1 0
      check (a.fmt = .fp32 && a.dims.length = 2 && a.dims.getD 0 0 = m && n ≤ bn && f.holdsRecord (contentBytes 2 (padded n))) .eParam d
      pure n
    else do
      let w := f.dims.getD 0 0
      check (f.fmt = .fp32 && (f.dims.length = 2 || f.dims.length = 3) && f.dims.getD 1 0 = w && blk < blockCount w bn
        && e.param 56 2 < (if f.dims.length = 3 then f.dims.getD 2 1 else 1)) .eParam d
      pure (min bn (w - blk * bn))
  let outFmt : Format := if (e.param 19 1).testBit 2 then .bf16 else .fp32
  let s := contentBytes fn (padded width)
  let blocks := blockCount (f.dims.getD 0 0) bn
  let auxOk (shape : List Nat) : Bool := match aux with | some a => a.fmt = .fp32 && a.dims = shape | none => false
  check (match fn with
    | 1 => o.holdsRecord s
    | 2 => o.fmt = outFmt && auxOk o.dims
    | 5 => o.fmt = outFmt && auxOk o.dims && o.dims = [m, width]
    | 4 => o.fmt = outFmt && o.dims = [bn, bn, blocks] && auxOk [bn, blocks]
    | _ => o.fmt = outFmt && o.dims = [bn, bn, blocks]) .eParam d
  check (match st with | some t => t.holdsRecord s | none => true) .eParam d
  let warm := (e.param 19 1).testBit 0
  let job : Solve :=
    { entry := e.id, lot := e.lot, stream := e.stream, priority := e.param 18 1, deadline := e.deadline, admitted := e.acceptedAt
      fn := fn, variant := e.param 17 1, iters := e.param 36 2, width := width, blockN := bn, block := blk, expert := e.param 56 2
      rhs := m, bf16 := (e.param 19 1).testBit 2, warm := warm }
  pure { job with
    work := solveCycles fn (padded width) job.iters job.p m (job.variant.testBit 1) (e.param 28 4 ≠ 0) warm
    cycles := solveCycles fn (padded width) job.iters job.p m (job.variant.testBit 1) (e.param 28 4 ≠ 0) warm }

/-- The handles whose contents a solve reads, and those it writes. -/
def Entry.solveReads (e : Entry) : List Nat :=
  [e.param 20 4] ++ (if e.param 16 1 = 4 then [] else [e.param 32 4]) ++ if (e.param 19 1).testBit 0 then [e.param 28 4] else []

/-- The handles that a solve writes. -/
def Entry.solveWrites (e : Entry) : List Nat := [e.param 24 4, e.param 28 4] ++ if e.param 16 1 = 4 then [e.param 32 4] else []

/-- The earlier solves of the stream, not yet staged, whose outputs a solve reads (R190). -/
def Device.predecessors (d : Device) (e : Entry) : List Nat :=
  let reads := e.solveReads.filter (· ≠ 0)
  ((d.streamEntries e.stream).filter fun x => x.op = .solve && x.id < e.id && x.phase = .dispatched && x.ran
    && x.solveWrites.any reads.contains).map fun x => x.id

/-- The tensors that a SOLVE writes, whole, as ranges (R62). -/
def Device.solveRanges (d : Device) (e : Entry) : List (Nat × Nat × Nat) :=
  (e.solveWrites.filter (· ≠ 0)).filterMap fun h => (d.lookup e.lot h).map fun x => (x.1, 0, x.2.size)

/-- ε and the damping class of a solve (R172): explicit, or those of the factor's context. -/
def Device.dampingOf (d : Device) (e : Entry) : Option (Nat × Nat) :=
  if (e.param 19 1).testBit 1 then some (e.param 44 4, 0xF)
  else (Tab.find d.solver.contexts (ctxKey (tensorKeyOf e.lot (e.param 20 4 % 2 ^ 24)) (e.param 56 2))).map fun c => (c.eps, c.damp)

/-- The pattern hash of a block (R191). -/
def patternHash (f : Tensor) (bytes : Nat → Nat → Bytes) (expert row n : Nat) : Nat :=
  if f.sparsity ≠ 2 then 0
  else
    let plane := (planesOf f.fmt f.dims f.block16 f.sparsity).getD 3 (0, 0)
    let rowBytes := ceilDiv (f.dims.getD 0 0 / 32) 64 * 8
    let first := expert * (f.dims.getD 1 0 / 32) + row / 32
    crc64 (bytes (plane.1 + first * rowBytes) ((ceilDiv (row + n) 32 - row / 32) * rowBytes))

/-- Whether an earlier solve of the stream that is not yet staged writes a tensor (R190). -/
def Device.comesLate (d : Device) (e : Entry) (handle : Nat) : Bool :=
  handle ≠ 0 && d.journal.any fun x => (d.predecessors e).contains x.id && x.solveWrites.contains handle

/-- Takes FACTOR (R190): the upper triangle of its block (R171), or the CHOL record of a TRSOLVE. -/
def Device.captureFactor (d : Device) (e : Entry) (s : Solve) : Res (Solve × Device) := do
  let (fk, f) ← d.find e (e.param 20 4)
  let refs := s.extents ++ d.viewExtents e fk f
  if s.fn = 2 then
    let (rec, d) ← d.fetchTensor e fk 0 (64 + contentBytes 2 (padded s.width))
    check (rd rec 32 1 = 1 && rd rec 8 1 = 1 && rd rec 4 2 = s.blockN && rd rec 6 2 = s.block && rd rec 24 2 = s.expert
      && min s.blockN (rd rec 0 4 - s.block * s.blockN) = s.width) .eSolverRecord d
    pure ({ s with record := rec, eps := rd rec 40 4, factorIn := true, extents := refs }, d)
  else
    let w := f.dims.getD 0 0
    let r0 := s.block * s.blockN
    let (rows, d) ← (List.range s.width).foldlM (fun acc i => do
      let (row, d) ← acc.2.fetchTensor e fk (4 * ((s.expert * w + r0 + i) * w + r0 + i)) (4 * (s.width - i))
      pure (acc.1 ++ [row], d)) (([] : List Bytes), d)
    let values := rows.zipIdx.flatMap fun r => List.replicate r.2 0 ++ (List.range (s.width - r.2)).map fun j => rd r.1 (4 * j) 4
    let pattern := patternHash f (fun off n => d.getTensor e fk off n) s.expert r0 s.width
    pure ({ s with
      factor := values, pattern := pattern, factorIn := true, extents := refs
      record := signature w s.blockN s.block s.fn s.p s.damp s.rhs pattern s.expert }, d)

/-- Takes AUX (R190), where the function reads it. -/
def Device.captureAux (d : Device) (e : Entry) (s : Solve) : Res (Solve × Device) := do
  if s.fn = 2 || s.fn = 5 then
    let (ak, a) ← d.find e (e.param 32 4)
    let (b, d) ← d.fetchTensor e ak 0 (4 * a.count)
    pure ({ s with aux := (List.range a.count).map fun i => rd b (4 * i) 4, auxIn := true, extents := s.extents ++ d.viewExtents e ak a }, d)
  else pure ({ s with auxIn := true }, d)

/-- What a SOLVE takes at its dispatch (R159, R190): FACTOR and AUX, but for the output of an earlier solve that is not staged yet, and ε, its
damping class and TRACE. -/
def Device.capture (d : Device) (e : Entry) (s : Solve) : Res (Solve × Device) := do
  let ctx := Tab.look {} d.solver.contexts (ctxKey (tensorKeyOf e.lot (e.param 20 4 % 2 ^ 24)) (e.param 56 2))
  let (eps, damp) := (d.dampingOf e).getD (0, 0)
  let s := { s with eps := eps, damp := damp, trace := ctx.trace }
  let (s, d) ← if d.comesLate e (e.param 20 4) then pure (s, d) else d.captureFactor e s
  if d.comesLate e (e.param 32 4) then pure (s, d) else d.captureAux e s

/-- What is left to take when a unit starts the solve: the outputs that it waited for, and, for a warm start, the state, whose content is read
only where its signature is the solve's own (R190 to R192). A refused start spends no cycles of the warm prologue (R176). -/
def Device.complete (d : Device) (e : Entry) (s : Solve) : Res (Solve × Device) := do
  let (s, d) ← if s.factorIn then pure (s, d) else d.captureFactor e s
  let (s, d) ← if s.auxIn then pure (s, d) else d.captureAux e s
  if !s.warm then pure (s, d)
  else
    let (sk, _) ← d.find e (e.param 28 4)
    let (head, d) ← d.fetchTensor e sk 0 64
    if rd head 32 1 = 1 && head.take 32 = s.record.take 32 then
      let (content, d) ← d.fetchTensor e sk 64 (contentBytes s.fn (padded s.width))
      pure ({ s with oldState := head ++ content }, d)
    else
      pure ({ s with
        cycles := solveCycles s.fn (padded s.width) s.iters s.p s.rhs (s.variant.testBit 1) (e.param 28 4 ≠ 0) false }, d)

/-- SOLVE: its checks, its references, its admission; it then waits for a unit. -/
def solveBody (e : Entry) (d : Device) : Res (Nat × Nat × Device) := do
  let s ← solveShape e d
  check ((d.solver.solves.filter fun x => x.lot = e.lot).length < (d.lot e.lot).solveMax) .eQuota d
  let d ← d.claim e (d.solveRanges e)
  check (s.fn = 2 || (d.dampingOf e).isSome) .eParam d
  let (c, d) ← d.capture e { s with after := d.predecessors e }
  if e.deadline ≠ 0 && !d.admissible c then
    failWith .eDeadlineUnmeetable (d.modCounts e.lot fun n => { n with unmeetable := satAdd 0xFFFF n.unmeetable 1 })
  else
    let d := d.modCounts e.lot fun n => { n with admitted := satAdd 0xFFFF n.admitted 1 }
    let d := { d with solver := { d.solver with solves := d.solver.solves ++ [c] } }
    waitFor .solver (d.modEntry e.id fun x => { x with ran := true })

/-- SOLVE. -/
def execSolve (stream : StreamId) (s : State) : Out := s.onDev fun d => d.runOp stream .solve solveBody

/-! ### The result of a solve -/

/-- The columns of an AUX tensor with m columns and n rows. -/
def auxColumns (m n : Nat) (aux : List Nat) : List (List Nat) :=
  (List.range m).map fun c => (List.range n).map fun i => aux.getD (i * m + c) 0

/-- A matrix as a list of content elements. -/
def contentOf (m : Mat) : List Int := m.flatMap fun r => r

/-- The result of CG from the columns at its end: X is x₀ + 2^k_r·δ. -/
def cgResult (s : Solve) (k : Int) (nhat ed : Nat) (state : Bool) (we : Int) (x0 : Mat) (cols : List (Int × CgCol)) : Fail SolveResult := do
  let elem (c i : Nat) : Flt :=
    match cols[c]? with
    | some x => (ofSigned (x0.el c i) (we - 30)).add (ofSigned (x.2.delta.getD i 0) (x.1 + ed - 30))
    | none => Flt.zero
  let content ← if state then
      (List.range (64 * nhat)).mapM fun i =>
        match elem (i / nhat) (i % nhat) with
        | .fin neg m x => fit130 s.iters (rneShift (signedMant neg m) (x + 30 - ed))
        | _ => .error (3, s.iters)
    else pure []
  let ratio (c : CgCol) : Nat := fConv fp64 fp32 (fDiv fp64 (fSqrt fp64 c.rho) (fSqrt fp64 c.rho0))
  pure
    { k := k, expo := ed, residual := cols.foldl (fun m c => f32max m (ratio c.2)) 0
      out := (List.range s.width).flatMap fun i => (List.range s.rhs).map fun c => encodeF fp32 ((elem c i).scale k)
      content := content }

/-- The result of a solve on its captured inputs. `state`: whether a record is written. -/
def Solve.compute (s : Solve) (state : Bool) : Fail SolveResult := do
  let nhat := padded s.width
  let warmE : Int := rdInt s.oldState 34 1
  if s.fn = 2 then
    let k := rdInt s.record 33 1
    let (ys, e, kb) ← trsolve (recordMat s.record nhat nhat) s.width nhat k s.eps (s.variant.testBit 0) (s.variant.testBit 1)
      (auxColumns s.rhs s.width s.aux)
    let p := if s.variant.testBit 1 then 1 else 2
    pure
      { k := k, expo := e
        out := (List.range s.width).flatMap fun i => ys.map fun y => convert (e + kb) k p (y.getD i 0) }
  else
    let (a, k) ← normalise s.width nhat s.eps s.factor
    match s.fn with
    | 1 =>
      let (l, low) ← cholesky nhat a
      pure { k := k, residual := fp32Of low (-30), content := contentOf l }
    | 3 =>
      let ex ← rangeExponent s.p k s.eps
      let warm := if s.oldState.isEmpty then none else some (warmE, recordMat s.oldState nhat nhat)
      let (m, x) ← rootOf s.p nhat s.iters ex a warm
      pure
        { k := k, expo := ex, residual := fp32Of (identityGap m) (-30), content := contentOf x
          out := outBlock s.blockN s.width (convert ex k s.p) x }
    | 4 =>
      let warm := if s.oldState.isEmpty then none else some (recordMat s.oldState nhat nhat)
      let (r, v) ← jacobiOf nhat s.iters a warm
      pure
        { k := k, residual := fp32Of (offDiagonal r) (k - 30), content := contentOf v
          out := outBlock s.blockN s.width (fun x => fp32Of x (-30)) v
          aux := (List.range s.blockN).map fun i => if i < s.width then fp32Of (r.el i i) (k - 30) else 0 }
    | _ =>
      let ed ← rangeExponent 1 k s.eps
      let er ← rangeExponent 2 k s.eps
      let ep ← cgExponent s.iters k s.eps
      let x0 := if s.oldState.isEmpty then [] else recordMat s.oldState 64 nhat
      let rhs := auxColumns s.rhs s.width s.aux
      if rhs.any fun c => c.any (fNonfinite fp32) then throw (1, 0)
      let cols ← cgOf nhat s.iters ed er ep a warmE x0 rhs
      cgResult s k nhat ed state warmE x0 cols

/-- k where normalisation succeeds. -/
def Solve.kOf (s : Solve) : Int :=
  if s.fn = 2 then rdInt s.record 33 1
  else match normalise s.width (padded s.width) s.eps s.factor with | .ok r => r.2 | .error _ => 0

/-- Whether a solve fails in its prologue, as it normalises its block (R171, R194). -/
def Solve.failsEarly (s : Solve) : Bool :=
  s.fn ≠ 2 && match normalise s.width (padded s.width) s.eps s.factor with | .ok _ => false | .error _ => true

/-- The result or the failure of a solve. -/
def Solve.outcome (s : Solve) (state : Bool) : SolveResult :=
  match s.compute state with
  | .ok r => r
  | .error f => { failure := some f, early := s.failsEarly, k := s.kOf }

/-- The result words of a solve that is aborted (R189): the iterations completed, its last unit, and k and E once its prologue has found them.
No residual has been formed, and that field reads 0 (assumption 140, DEDUCED). -/
def Solve.abortWords (s : Solve) (state : Bool) : Nat × Nat :=
  let k := match s.result with
    | some r => if 20000 ≤ 64 * s.steps then ofInt 8 r.k * 2 ^ 32 + r.expo * 2 ^ 40 else 0
    | none => 0
  (s.done state + s.lastUnit * 2 ^ 16, k)

/-! ### SOLVE_START -/

/-- Ends a solve without result: its command fails with its result words (R189). -/
def Device.failSolve (d : Device) (id : Nat) (st : Status) (r0 r1 : Nat) : Device :=
  ((d.failEntry id st).modEntry id fun e => { e with result0 := r0, result1 := r1 }).sweepOrphans

/-- A unit takes a solve: its inputs are read where they waited for a predecessor, and its result is determined. -/
def Device.startSolve (d : Device) (c : Nat) (s : Solve) : Device :=
  match d.entry s.entry with
  | none => d
  | some e =>
    match if s.result.isSome then .ok (s, d) else d.complete e s with
    | .error (.fail st d) => d.failEntry e.id st
    | .error (.wait _ d) => d
    | .ok (s, d) =>
      let state := e.param 28 4 ≠ 0
      let s := match s.result with | some _ => s | none => { s with result := some (s.outcome state) }
      let d := d.modSolve e.id fun _ => { s with place := .running c, lastUnit := c }
      let d := d.modEntry e.id fun x => { x with warmRejected := s.warm && s.oldState.isEmpty }
      d.setUnit c { d.unit c with busy := true, entry := e.id, start := d.time, scratch := some e.id }

/-- SOLVE_START: a free solver unit takes a blend that waits for it (R178), or the first waiting solve (R161, R162, R196). -/
def execSolveStart (unit : ClusterId) (s : State) : Out :=
  s.onDev fun d =>
    let d := if d.running then d.takeBlend unit else d
    if d.running && d.unitFree unit then
      match d.nextSolve with
      | some w => d.startSolve unit w
      | none => d
    else d

/-! ### SOLVER_STEP_BOUNDARY -/

/-- Bytes of FP32 values, narrowed to BF16 where chosen (R186). -/
def outBytes (bf : Bool) (vs : List Nat) : Bytes := vs.flatMap fun v => if bf then toLE 2 (fConv fp32 bf16 v) else toLE 4 v

/-- The record that a solve writes (R187). -/
def Solve.recordBytes (s : Solve) (r : SolveResult) : Bytes := solverRecord s.record r.k r.expo s.cap s.eps r.residual r.content

/-- Stages the outputs of a solve that has finished (R184). -/
def Device.stageSolve (d : Device) (e : Entry) (s : Solve) (r : SolveResult) : Res Device := do
  let (ok, _) ← d.find e (e.param 24 4)
  let bytes := outBytes s.bf16 r.out
  let d ← match s.fn with
    | 1 => d.putTensor e ok 0 (s.recordBytes r)
    | 2 | 5 => d.putTensor e ok 0 bytes
    | _ => d.putTensor e ok (s.block * bytes.length) bytes
  let d ← if s.fn = 4 then do
      let (ak, _) ← d.find e (e.param 32 4)
      d.putTensor e ak (s.block * 4 * s.blockN) (r.aux.flatMap (toLE 4))
    else pure d
  if e.param 28 4 = 0 then pure d
  else
    let (sk, _) ← d.find e (e.param 28 4)
    d.putTensor e sk 0 (s.recordBytes r)

/-- A solve at its last boundary: its outputs are staged and its unit is released. Where the staging has to wait, the unit waits. -/
def Device.finishSolve (d : Device) (c : Nat) (e : Entry) (s : Solve) (r : SolveResult) : Device :=
  match d.stageSolve e s r with
  | .error (.fail st d) => d.failEntry e.id st
  | .error (.wait _ d) => d
  | .ok d =>
    let d := d.setUnit c { d.unit c with busy := false, entry := 0, scratch := none }
    let d := { d with solver := { d.solver with solves := d.solver.solves.filter fun x => x.entry ≠ e.id } }
    let nf := (r.out.filter fun v => fNonfinite (if s.bf16 then bf16 else fp32) (if s.bf16 then fConv fp32 bf16 v else v)).length
      + (r.aux.filter (fNonfinite fp32)).length
    let d := d.modEntry e.id fun x => { x with members := [nf] }
    (d.stageOk e.id (s.cap + s.lastUnit * 2 ^ 16) (r.residual + ofInt 8 r.k * 2 ^ 32 + r.expo * 2 ^ 40)).sweepOrphans

/-- What a step boundary does with the solve of a unit (R167, R194, R196, R197): an abort at its deadline, a failure once it is reached,
its end, or its suspension. -/
def Device.boundary (d : Device) (c : Nat) (s : Solve) : Device :=
  let s := { s with steps := s.steps + 1 }
  let d := d.modSolve s.entry fun _ => s
  match d.entry s.entry, s.result with
  | some e, some r =>
    let state := e.param 28 4 ≠ 0
    let r0 (n : Nat) : Nat := n + c * 2 ^ 16
    if s.deadline ≠ 0 && s.deadline ≤ d.time then
      let (w0, w1) := s.abortWords state
      (d.failSolve e.id .eDeadlineMissed w0 w1).modCounts e.lot fun n => { n with missed := satAdd 0xFFFF n.missed 1 }
    else
      match r.failure with
      | some (cause, n) =>
        let due := if cause = 1 || cause = 4 || r.early then 20000 else s.reachedAt state (min s.cap (n + 1))
        if due ≤ 64 * s.steps then d.failSolve e.id .eNonfinite (r0 n) (0x7FC00000 + ofInt 8 r.k * 2 ^ 32 + cause * 2 ^ 48)
        else if d.givesWay c s then (d.suspend c).getD d
        else d
      | none =>
        if s.cycles ≤ 64 * s.steps then d.finishSolve c e s r
        else if d.givesWay c s then (d.suspend c).getD d
        else d
  | _, _ => d

/-- A unit whose blend's time has come ends it and takes what waits for it next (R157, R178). -/
def Device.blendBoundary (d : Device) (c : Nat) : Device :=
  let d := match (d.unit c).blend with
    | some b => if b.endsAt ≤ d.time then (d.setUnit c { d.unit c with blend := none }).endBlend b else d
    | none => d
  d.takeBlend c

/-- SOLVER_STEP_BOUNDARY: a step of 64 CORE cycles of a unit ends; `errors`: what its scratch met in the step (R168). -/
def execSolverStepBoundary (unit : ClusterId) (errors : ScratchErrors) (s : State) : Out :=
  s.onClocked fun d =>
    let c : Nat := unit
    let u := d.unit c
    let d := d.setUnit c { u with
      corr := satAdd 0xFFFF u.corr errors.single, uncorr := satAdd 0xFFFF u.uncorr errors.double
      wipeUntil := if errors.double = 0 then u.wipeUntil else d.time + d.solveTicks 98304 }
    if !d.running then d
    else
      let d := match d.solveOf u.entry, d.entry u.entry with
        | some s, some e =>
          if !u.busy then d
          else if errors.double ≠ 0 then
            let (w0, w1) := s.abortWords (e.param 28 4 ≠ 0)
            d.failSolve e.id .eScratchError w0 w1
          else d.boundary c s
        | _, _ => d
      d.blendBoundary c

/-- SOLVE_DEADLINE_EXPIRY: the deadline of a waiting or suspended solve of a stream has passed (R197). -/
def execSolveDeadlineExpiry (stream : StreamId) (s : State) : Out :=
  s.onDev fun d =>
    match d.solver.solves.find? fun x => x.stream = stream.val && x.waits && x.deadline ≠ 0 && x.deadline ≤ d.time with
    | some x =>
      match d.entry x.entry with
      | some e =>
        if d.running then
          let (w0, w1) := x.abortWords (e.param 28 4 ≠ 0)
          (d.failSolve e.id .eDeadlineMissed w0 w1).modCounts e.lot fun n => { n with missed := satAdd 0xFFFF n.missed 1 }
        else d
      | none => d
    | none => d

/-- The commit of a SOLVE: TIME in the record it wrote (R187), and the non-finite results counted (R186, R444). -/
def commitSolve (e : Entry) (d : Device) : Device :=
  let h := if e.param 16 1 = 1 then e.param 24 4 else e.param 28 4
  let d := match d.tensor (tensorKeyOf e.lot (h % 2 ^ 24)) with
    | some t => if h = 0 then d else d.writeCommitted t 48 (toLE 8 d.time) e.lot 0
    | none => d
  d.addNwatch e.lot 7 (e.members.headD 0)

/-! ### PRECOND_INSTALL (R198, R199) -/

/-- A root tensor as installed, or the reason it cannot be. -/
def Device.rootOf (d : Device) (e : Entry) (handle side width : Nat) : Res (List Root × Device) := do
  if handle = 0 then pure ([], d)
  else
    let (_, t) ← d.find e handle
    let bn := t.dims.getD 0 0
    let blocks := t.dims.getD 2 0
    check ((t.fmt = .fp32 || t.fmt = .bf16) && t.dims.length = 3 && t.dims.getD 1 0 = bn && bn ≤ 1024 && width ≤ blocks * bn) .eParam d
    let n := t.count * (t.fmt.bits / 8)
    let (b, d) ← d.fetchExtents e.lot t.extents 0 n 1
    pure ([{ expert := e.param 30 2, side := side, fmt := t.fmt, blockN := bn, blocks := blocks, data := b }], d)

/-- The roots that a packet names, after the checks of R198. -/
def precondRoots (e : Entry) (d : Device) : Res (Nat × List Root × Device) := do
  let (key, t) ← d.find e (e.param 16 4)
  let clear := (e.param 28 1).testBit 0
  check (t.param && (t.dims.length = 2 || t.dims.length = 3)) .eParam d
  check (e.param 30 2 < (if t.dims.length = 3 then t.dims.getD 2 1 else 1)) .eParam d
  check (!clear || (e.param 20 4 = 0 && e.param 24 4 = 0)) .eParam d
  let (a, d) ← d.rootOf e (e.param 20 4) 0 (t.dims.getD 1 1)
  let (g, d) ← d.rootOf e (e.param 24 4) 1 (t.dims.getD 0 1)
  pure (key, a ++ g, d)

/-- PRECOND_INSTALL. Assumption 73, DESIGN CHOICE. -/
def precondInstallBody (e : Entry) (d : Device) : Res (Nat × Nat × Device) := do
  let (_, _, d) ← precondRoots e d
  pure (0, 0, d)

/-- The commit of a PRECOND_INSTALL: the committed contents of the roots become the pending set; the roots of other experts of the
weight stay. -/
def commitPrecond (e : Entry) (d : Device) : Device :=
  match precondRoots e d with
  | .ok (key, roots, d) =>
    let p := Tab.look {} d.solver.preconds key
    let base := if p.pendingFrom.isSome then p.pendingSet else p.active
    let p : Precond := { p with
      pendingFrom := some (e.param 32 8), pendingSet := (base.filter fun r => r.expert ≠ e.param 30 2) ++ roots }
    { d with solver := { d.solver with preconds := Tab.put {} p d.solver.preconds key } }
  | .error _ => d

/-- PRECOND_INSTALL. -/
def execPrecondInstall (stream : StreamId) (s : State) : Out := s.onDev fun d => d.runOp stream .precondInstall precondInstallBody

end Sys2Proof.Machine
end

