-- ==== Sys2Proof/Machine/Images.lean ====
section
/-!
DEFINITION. Configuration images: their layout and checks (R363, R364, R366, R368), the installation of an image and its effects (R362,
R367, R369 to R371), and the clearing of a destroyed lot (R373).
-/
namespace Sys2Proof.Machine

/-! ### Reading an image (R366) -/

/-- Largest size of an image (R367). -/
def maxImage : Nat := 65536 + 64 * 128 + 1536 + 262144

/-- The policy block. -/
def parsePolicy (b : Bytes) : ImagePolicy :=
  { stackCtl := (List.range Config.memStacks).map fun m => (rd b m 1 / 2 * 2, (rd b m 1).testBit 0)
    scrubPeriod := rd b 20 2, scrubOn := (rd b 22 1).testBit 7, scratchWays := rd b 22 1 % 16, recovery := rd b 23 1
    devMtbf := rd b 24 4, digest := rd b 28 4 }

/-- Whether a policy block's reserved fields are 0 and its values lie in their ranges (R218, R337, R366). -/
def policyOk (b : Bytes) : Bool :=
  field (rd b 22 1) 6 4 = 0 && rd b 32 32 = 0 && rd b 22 1 % 16 ≤ 12 && rd b 23 1 ≤ 1

/-- The bytes of a section of an image. -/
def sectionOf (b : Bytes) (off n : Nat) : Bytes := (b.drop off).take n

/-- Whether a section lies within an image and starts on a 64-byte boundary. -/
def sectionOk (b : Bytes) (off n : Nat) : Bool := off % 64 = 0 && 64 ≤ off && off + n ≤ b.length

/-- Whether the reserved fields of an image are 0 (R9). -/
def imageReservedOk (b : Bytes) : Bool :=
  let lots := rd b 36 4
  let links := rd b 40 4
  rd b 56 8 = 0 && rd b 33 1 < 4 && rd b 34 2 < 2 ^ 12 && rd b 24 8 &&& (2 ^ 64 - 2 ^ 63 + 2 ^ 61 - 2 ^ 14) = 0 && field (rd b 24 8) 62 61 ≤ 1
    && (List.range Config.lots).all (fun i => lotReservedOk (sectionOf b (lots + 128 * i) 128))
    && (List.range Config.ports).all (fun p => rd b (links + 16 * p) 8 ≤ 1)
    && policyOk (sectionOf b (rd b 44 4) 64)

/-- An image, with its version, after the first check of R368; `none` where BYTES, CRC, FORMAT, a section or a reserved field is
wrong. -/
def parseImage (b : Bytes) (n : Nat) : Option (Nat × Image) :=
  let lots := rd b 36 4
  let links := rd b 40 4
  let policy := rd b 44 4
  let retire := rd b 48 4
  let count := rd b 52 4
  if rd b 0 2 = 1 && rd b 4 4 = n && b.length = n && 64 ≤ n && n ≤ maxImage && rd b 8 8 = crc64 (b.take 8 ++ zeros 8 ++ b.drop 16)
      && 1 ≤ rd b 2 2 && count ≤ 65536 && sectionOk b lots 8192 && sectionOk b links 1536 && sectionOk b policy 64
      && (count = 0 || sectionOk b retire (4 * count)) && imageReservedOk b then
    some (rd b 2 2,
      { systemId := rd b 16 8, role := field (rd b 24 8) 62 61, coord := rd b 24 8 % 2 ^ 14, primary := rd b 32 1 % 16
        standby := if rd b 32 1 / 16 = 15 then none else some (rd b 32 1 / 16), dims := rd b 33 1
        log2 := [rd b 34 2 % 16, field (rd b 34 2) 7 4, field (rd b 34 2) 11 8]
        lots := (List.range Config.lots).map fun i => parseLot (sectionOf b (lots + 128 * i) 128)
        links := (List.range Config.ports).map fun p => ((rd b (links + 16 * p) 1).testBit 0, rd b (links + 16 * p + 8) 8)
        policy := parsePolicy (sectionOf b policy 64)
        retire := (List.range count).map fun i => rd b (retire + 4 * i) 4 })
  else none

/-! ### Checks (R364, R368) -/

/-- The VALID entries of a lot table with their positions. -/
def validLots (lots : List LotEntry) : List (Nat × LotEntry) :=
  (lots.zipIdx.filter fun e => e.1.valid).map fun e => (e.2, e.1)

/-- Whether a list of masks has no bit in common. -/
def disjointMasks (ms : List Nat) : Bool := (ms.foldl (fun (acc : Bool × Nat) m => (acc.1 && acc.2 &&& m = 0, acc.2 ||| m)) (true, 0)).1

/-- Whether stream ranges do not overlap. -/
def disjointRanges : List (Nat × Nat) → Bool
  | [] => true
  | (a, n) :: t => t.all (fun x => a + n ≤ x.1 || x.1 + x.2 ≤ a) && disjointRanges t

/-- Extents that are neither SYSTEM nor RETIRED. -/
def Device.lotExtents (d : Device) : Nat :=
  Config.memStacks * Config.extentsPerStack - (d.mem.owners.filter fun o => o.2 = .system || o.2 = .retired).length

/-- R364 over the VALID entries of a table, with the ranges of R363. -/
def Device.tableOk (d : Device) (lots : List LotEntry) (scratchWays : Nat) : Bool :=
  let vs := validLots lots
  let es := vs.map fun v => v.2
  let sum (f : LotEntry → Nat) : Nat := (es.map f).sum
  vs.all (fun v => v.2.tag = v.1 && v.2.fieldsOk (16 - scratchWays) && v.2.streamBase + v.2.streamCount ≤ Config.streams
      && (v.1 ≠ 0 || (!v.2.ideRequired && !v.2.tdispRequired)))
    && disjointRanges (es.map fun e => (e.streamBase, e.streamCount))
    && sum (fun e => e.journalMib) ≤ 512 && sum (fun e => e.memQuota) ≤ d.lotExtents * Config.extentBytes
    && sum (fun e => e.scratchMib) ≤ 32 * scratchWays && sum (fun e => e.solverShare) ≤ 32 && sum (fun e => e.statsMax) ≤ 16384
    && disjointMasks (es.map fun e => e.hubDma) && disjointMasks (es.map fun e => e.clusterDma)
    && disjointMasks (es.map fun e => e.auxPorts)

/-- The channels that an entry grants. -/
def LotEntry.channels (e : LotEntry) : List Nat :=
  (bitsOf 384 e.clusterDma).map (fun i => i / 12 * 16 + i % 12) ++ (bitsOf 64 e.hubDma).map (512 + ·)

/-- The fourth check of R368 for one ENABLED lot. `mayGo`: a lot that LOT_DESTROY takes away. -/
def Device.grantsOk (d : Device) (tag : Nat) (new : LotEntry) (mayGo : Bool) : Bool :=
  let old := d.lot tag
  mayGo || (new.valid
    && d.streams.all (fun s => s.2.state = .disabled || s.1 < old.streamBase || old.streamBase + old.streamCount ≤ s.1
        || (new.streamBase ≤ s.1 && s.1 < new.streamBase + new.streamCount))
    && old.channels.all (fun x => new.channels.contains x || (d.channel x).state = .disabled)
    && (bitsOf 4 old.auxPorts).all (fun i => new.auxPorts.testBit i || (d.port (92 + i)).state = .disabled)
    && (List.range Config.queuesPerLot).all fun q => q < new.queues || !(d.queue tag q).enable)

/-- The fifth check of R368 for one lot: no quota falls below what the lot holds. -/
def Device.quotaOk (d : Device) (tag : Nat) (new : LotEntry) : Bool :=
  d.heldExtents tag * Config.extentBytes ≤ new.memQuota && d.pinnedExtents tag * Config.extentBytes ≤ new.pinQuota
    && d.journalUsed tag ≤ new.journalMib * 2 ^ 20
    && (List.range Config.clusters).all (fun s => d.scratchLines tag s ≤ allotted new.scratchMib)
    && (d.solver.solves.filter fun s => s.lot = tag).length ≤ new.solveMax && d.contextCount (some tag) ≤ new.statsMax

/-- Whether no scratch line in use lies in a way below the `ways` highest (R368). -/
def Device.scratchClear (d : Device) (ways : Nat) : Bool :=
  (d.mem.scratch.flatMap fun p => p.runs).all fun r => r.first + r.count ≤ 4096 * ways

/-- Checks 3 to 6 of R368. `gone`: a lot that LOT_DESTROY takes away. -/
def Device.checkImage (d : Device) (i : Image) (gone : Option Nat) : Option Status :=
  let old := (List.range Config.lots).filter fun t => (d.lot t).valid
  if !d.tableOk i.lots i.policy.scratchWays || !(i.lots.getD 0 {}).valid || i.policy.stackCtl.length ≠ Config.memStacks then some .eParam
  else if !old.all fun t => d.grantsOk t (i.lots.getD t {}) (gone = some t) then some .eParam
  else if !old.all (fun t => gone = some t || d.quotaOk t (i.lots.getD t {}))
      || (i.policy.scratchWays < d.mem.scratchWays && !d.scratchClear i.policy.scratchWays) then some .eQuota
  else if d.links.role ≠ 1 && !(i.role = d.links.role && i.systemId = d.links.systemId && i.dims = d.links.dims
      && i.log2 = d.links.log2 && i.coord = d.links.coord) then some .eParam
  else none

/-- Whether version b is later than a (R371). -/
def laterVersion (a b : Nat) : Bool := if a = 0 then b ≠ 0 else serialLater0 16 a b

/-- The configuration in force as an image: before the first installation, lot 0's entry and the values of the RWL fields (R369). -/
def Device.currentImage (d : Device) : Image :=
  if d.hosts.installed then d.hosts.image
  else
    { systemId := d.links.systemId, role := d.links.role, coord := d.links.coord, primary := d.hosts.boardMgmt
      standby := d.hosts.standby, dims := d.links.dims, log2 := d.links.log2
      lots := (List.range Config.lots).map d.lot
      links := (List.range Config.ports).map fun p => ((d.port p).state ≠ .disabled, (d.port p).peerId)
      policy :=
        { d.hosts.image.policy with
          stackCtl := (List.range Config.memStacks).map fun m => let r := Tab.look {} d.mem.stackRegs m; (r.thresh, r.detect8)
          scrubPeriod := d.mem.scrubPeriod, scrubOn := d.mem.scrubOn, scratchWays := d.mem.scratchWays } }

/-! ### Queues of a lot (R33, R355) -/

/-- ENABLE of a queue is cleared: fetching stops (R33). -/
def Device.clearEnable (d : Device) (tag q : Nat) : Device := d.setQueue tag q { d.queue tag q with enable := false }

/-- The queues of a lot that lie in host memory lose ENABLE (R355, R362, R369). -/
def Device.closeHostQueues (d : Device) (tag : Nat) : Device :=
  (List.range Config.queuesPerLot).foldl (fun d q => if (d.queue tag q).sqLoc then d else d.clearEnable tag q) d

/-- The event queue of a lot, where it lies in host memory, loses ENABLE as the lot leaves that host (R362, R369, step 4; assumption 34, DEDUCED). -/
def Device.closeHostEvq (d : Device) (tag : Nat) : Device :=
  if (d.evq tag).loc then d else d.setEvq tag { d.evq tag with enable := false }

/-- Changes each queue of a lot whose reply ring lies in host memory. -/
def Device.modHostRings (d : Device) (tag : Nat) (f : SubQueue → SubQueue) : Device :=
  (List.range Config.queuesPerLot).foldl (fun d q =>
    if (d.queue tag q).rqLoc then d else d.setQueue tag q (f (d.queue tag q))) d

/-- All queues of a lot lose ENABLE (R359, R376). -/
def Device.closeQueues (d : Device) (tag : Nat) : Device := (List.range Config.queuesPerLot).foldl (fun d q => d.clearEnable tag q) d

/-! ### The management role (R357, R360, R362) -/

/-- A HOST event (R384). -/
def Device.hostEvent (d : Device) (a code : Nat) : Device := d.raiseMgmt (srcAttach a) 8 (toLE 1 a ++ toLE 1 code)

/-- The role and lot 0 move to an attachment. Rings in the old holder's memory keep receiving replies while it stays ATTACHED.
Assumption 81, DESIGN CHOICE. Assumption 99, DESIGN CHOICE. -/
def Device.moveRole (d : Device) (target : Nat) : Device :=
  if d.hosts.holder = some target then d
  else
    let d := match d.hosts.holder with
      | some a => d.modHostRings 0 fun v => { v with
          ringHost := some (v.ringHost.getD a), replyHold := v.replyHold || !d.attached (v.ringHost.getD a) }
      | none => d
    let d := (d.closeHostQueues 0).closeHostEvq 0
    { d with hosts := { d.hosts with holder := some target } }.hostEvent target 2

/-! ### Installation (R367, R369, R371) -/

/-- A lot table with one entry replaced. -/
def withLot (lots : List LotEntry) (tag : Nat) (e : LotEntry) : List LotEntry :=
  (List.range Config.lots).map fun i => if i = tag then e else lots.getD i {}

/-- The values of the RWL fields of the memory system. -/
def Device.installPolicy (d : Device) (p : ImagePolicy) : Device :=
  { d with mem := { d.mem with
      stackRegs := p.stackCtl.zipIdx.foldl (fun t c =>
        Tab.put {} { Tab.look {} t c.2 with thresh := c.1.1, detect8 := c.1.2 } t c.2) d.mem.stackRegs
      scrubPeriod := p.scrubPeriod, scrubOn := p.scrubOn, scratchWays := p.scratchWays
      cache := d.mem.cache.filter fun l => l.1 % 16 < 16 - p.scratchWays } }

/-- The values of the RWL fields of the LINK block, and the ports whose ENABLE changes (R288, R289, R366). The link map gives a port's recorded peer
at the first installation after cold reset, and again where its DEVICE_ID changes (assumption 150, DESIGN CHOICE). -/
def Device.installLinks (d : Device) (first : Bool) (old new : Image) : Device :=
  let d := { d with links := { d.links with
    systemId := new.systemId, role := new.role, coord := new.coord, dims := new.dims, log2 := new.log2 } }
  new.links.zipIdx.foldl (fun d l =>
    let was := old.links.getD l.2 (false, 0)
    let d := if first || l.1.2 ≠ was.2 then d.modPort l.2 fun v => { v with hasPeer := l.1.2 ≠ 0, peerId := l.1.2, peerGen := 0 } else d
    if l.1.1 = was.1 then d
    else if l.1.1 then (if (d.port l.2).faulty then d else d.portEnable l.2 none) else d.portDisable l.2) d

/-- A CONFIG event for a queue (R384): it says whether the version wrapped, passing from 0xFFFF to 0x0001 (R371; assumption 36, DEDUCED). -/
def Device.configEvent (d : Device) (tag version : Nat) (wrap : Bool) : Device :=
  d.raiseRec srcConfig 9 tag (toLE 2 version ++ toLE 1 (b2n wrap)) (some tag)

/-- The effects of an installed image on one lot: host-memory queues of a lot whose ATTACH changed lose ENABLE, and a locked or running
interface whose entry changed is in ERROR (R369, R376). -/
def Device.lotChanged (d : Device) (tag : Nat) (old new : LotEntry) : Device :=
  let l := d.lotState tag
  let d := if new.valid && (l.tdi = 1 || l.tdi = 2) && new ≠ old then d.setLotState tag { l with tdi := 3 } else d
  let d := if old.scratchMib ≠ new.scratchMib || old.valid ≠ new.valid then d.passReset 1 fun i => i / Config.clusters = tag else d
  if old.valid && new.valid && old.attach ≠ new.attach then
    ((d.closeHostQueues tag).closeHostEvq tag).modHostRings tag fun v => { v with replyHold := true }
  else d

/-- Steps 3 and 4 of R369: one write installs the image and changes the version; the effects follow. -/
def Device.installImage (d : Device) (i : Install) : Device :=
  let old := d.currentImage
  let oldVersion := d.hosts.version
  let first := !d.hosts.installed
  let d : Device := { d with hosts := { d.hosts with
    image := i.image, version := i.version, installed := true, install := none
    kept := if i.keep then some (oldVersion, old) else none, standby := i.image.standby } }
  let d := (List.range Config.lots).foldl (fun d t => d.lotChanged t (old.lots.getD t {}) (i.image.lots.getD t {})) d
  let d := (d.installPolicy i.image.policy).installLinks first old i.image
  let d := i.image.retire.foldl (fun d x => if x < Config.memStacks * Config.extentsPerStack then (d.markRetire x).retire x else d) d
  let d := d.moveRole i.image.primary
  let wrap := i.version < oldVersion
  let d := ((List.range Config.lots).filter fun t => t ≠ 0 && (d.lot t).valid).foldl (fun d t => d.configEvent t i.version wrap) d
  d.configEvent 0 i.version wrap

/-! ### A destroyed lot (R373) -/

/-- Everything that a lot leaves in memory, the solver and the observation blocks is released (R373, step 4). -/
def Device.clearHoldings (d : Device) (tag : Nat) : Device :=
  let mine (key : Nat) : Bool := tensorLot key = tag
  let owned := (d.mem.owners.filter fun o => o.2 = .lot tag).map fun o => o.1
  let d : Device := { d with
    tensors := d.tensors.filter fun t => !mine t.1
    gens := d.gens.filter fun t => !mine t.1
    shards := d.shards.filter fun s => shardLot s.1 ≠ tag
    jobs := d.jobs.filter fun j => j.2.lot ≠ tag
    mirrors := d.mirrors.filter fun i => !mine i.handle
    mirrorStaged := d.mirrorStaged.filter fun i => !mine i.handle
    mirrorFrozen := d.mirrorFrozen.filter fun i => !mine i.2.handle
    twinGrads := d.twinGrads.filter fun g => !mine g.1
    regathers := d.regathers.filter fun r => !mine r.1
    journal := d.journal.filter fun e => e.lot ≠ tag
    solver := { d.solver with
      contexts := d.solver.contexts.filter fun c => c.1 / 2 ^ 40 ≠ tag
      preconds := d.solver.preconds.filter fun p => !mine p.1
      solves := d.solver.solves.filter fun s => s.lot ≠ tag
      panels := d.solver.panels.filter fun p => p.factor / 2 ^ 40 ≠ tag
      counts := Tab.erase d.solver.counts tag } }
  let d : Device := { d with
    mem := { d.mem with
      moves := d.mem.moves.filter fun m => !mine m.tensor
      scratch := d.mem.scratch.filter fun p => p.lot ≠ tag
      atomics := d.mem.atomics.filter fun a => a.lot ≠ tag
      structures := d.mem.structures.filter fun s => d.journal.any fun e => e.id = s.entry
      lines := d.mem.lines.filter fun l => d.journal.any fun e => e.id = l.1 / 2 ^ 40
      regions := d.mem.regions.filter fun r => r.2.lot ≠ tag
      cache := d.mem.cache.filter fun l => l.2.lot ≠ tag
      lotEcc := Tab.erase d.mem.lotEcc tag
      orphans := d.mem.orphans.filter fun x => !owned.contains x }
    observe := { d.observe with
      cores := d.observe.cores.filter fun c => c.2.owner ≠ some tag
      clusters := d.observe.clusters.filter fun c => c.2.owner ≠ some tag
      dumps := Tab.erase d.observe.dumps tag
      nwatch := d.observe.nwatch.filter fun n => n.1 / 16 ≠ tag
      watches := d.observe.watches.filter fun w => !mine w.1 } }
  (d.passReset 1 fun i => i / Config.clusters = tag).releaseExtents owned

/-- A lot's streams and queue sets return to their reset state, with what they held (R373, step 5). -/
def Device.clearStreams (d : Device) (tag : Nat) : Device :=
  let e := d.lot tag
  let inRange (s : Nat) : Bool := e.streamBase ≤ s && s < e.streamBase + e.streamCount
  let toLot (r : EventRec) : Bool := r.queue = some tag
  { d with
    streams := d.streams.filter fun s => !inRange s.1
    arrivals := d.arrivals.filter fun a => !inRange a.stream
    srcRefs := d.srcRefs.filter fun r => !inRange r.stream
    queues := d.queues.filter fun q => q.1 / 16 ≠ tag
    events := { d.events with
      queues := Tab.erase d.events.queues tag
      buffer := d.events.buffer.filter fun r => !toLot r
      sources := d.events.sources.map fun (s : Nat × EventSource) => (s.1, { s.2 with raised := s.2.raised.filter fun r => !toLot r }) } }

end Sys2Proof.Machine
end

