-- ==== Sys2Proof/Machine/Lots.lean ====
section
/-!
DEFINITION. CONFIG_APPLY, CONFIG_ROLLBACK, LOT_CREATE, LOT_DESTROY and HOST_ROLE, the end of a drain, and the expiry of its limit (R360 to
R373).
-/
namespace Sys2Proof.Machine

/-! ### Starting an installation (R368 to R370) -/

/-- DRAIN_LIMIT. -/
def Entry.drainLimit (e : Entry) : Nat := e.param 32 4

/-- Starts the drain of an installation (R369, step 2). -/
def Device.startInstall (d : Device) (e : Entry) (image : Image) (version : Nat) (keep : Bool) : Device :=
  let limit := e.drainLimit
  let i : Install :=
    { entry := e.id, image := image, version := version, keep := keep
      limitAt := if limit = 0 then none else some (d.time + limit) }
  { d with hosts := { d.hosts with install := some i } }

/-- Reads what CONFIG_APPLY and LOT_CREATE point at: host memory of the management attachment, or a pinned tensor of lot 0 (R208,
R367). -/
def Device.readPointed (d : Device) (e : Entry) (host : List HostReturn) (addr n : Nat) (fromHost : Bool) : Res Bytes := do
  check (addr % 64 = 0) .eAlign d
  if fromHost then
    check (d.hostReachable e.lot) .ePermission d
    match hostRead host addr n with
    | .ok b => pure b
    | .error st => failWith st d
  else
    let (b, _) ← d.fetchAddr (srcLot e.lot) e.lot addr n
    pure b

/-- The command that installs, once its checks have passed, waits for the drain. An installation that another command has begun is
waited for; the version that it leaves decides then (R368). Assumption 79, DESIGN CHOICE. -/
def Device.mayInstall (d : Device) (e : Entry) : Res Unit :=
  match d.hosts.install with
  | some _ => waitFor .drain d
  | none => check (rd e.packet 12 2 = d.hosts.version) .eStaleConfig d

/-- CONFIG_APPLY (R367, R368). Assumption 43, DESIGN CHOICE. -/
def configApplyBody (host : List HostReturn) (e : Entry) (d : Device) : Res (Nat × Nat × Device) := do
  if e.ran then waitFor .drain d
  else
    let _ ← d.mayInstall e
    let n := e.param 24 4
    check (64 ≤ n && n ≤ maxImage) .eParam d
    let b ← d.readPointed e host (e.param 16 8) n ((e.param 28 1).testBit 0)
    let (version, image) ← need (parseImage b n) .eParam d
    check (laterVersion d.hosts.version version) .eStaleConfig d
    match d.checkImage image none with
    | some st => failWith st d
    | none => waitFor .drain ((d.startInstall e image version true).modEntry e.id fun x => { x with ran := true })

/-- CONFIG_APPLY. -/
def execConfigApply (stream : StreamId) (host : List HostReturn) (s : State) : Out :=
  s.onDev fun d => d.runOp stream .configApply (configApplyBody host)

/-- CONFIG_ROLLBACK (R370). -/
def configRollbackBody (e : Entry) (d : Device) : Res (Nat × Nat × Device) := do
  if e.ran then waitFor .drain d
  else
    let _ ← d.mayInstall e
    let (_, image) ← need d.hosts.kept .eParam d
    match d.checkImage image none with
    | some st => failWith st d
    | none =>
      waitFor .drain ((d.startInstall e image (nextSkip0 16 d.hosts.version) false).modEntry e.id fun x => { x with ran := true })

/-- CONFIG_ROLLBACK. -/
def execConfigRollback (stream : StreamId) (s : State) : Out := s.onDev fun d => d.runOp stream .configRollback configRollbackBody

/-- The image in force with one lot's entry replaced. -/
def Device.derivedImage (d : Device) (tag : Nat) (l : LotEntry) : Image :=
  let i := d.currentImage
  { i with lots := withLot i.lots tag l, retire := [] }

/-- LOT_CREATE (R372). A create of a lot that is DISABLING is held in the pending slot and replaces one held before; its CFG_VERSION is
then checked against the version that the destroy replaced. -/
def lotCreateBody (host : List HostReturn) (e : Entry) (d : Device) : Res (Nat × Nat × Device) := do
  if e.ran then waitFor .drain d
  else
    let b ← d.readPointed e host (e.param 16 8) 128 ((e.param 24 1).testBit 0)
    let l := parseLot b
    check (lotReservedOk b && l.valid && l.tag < Config.lots) .eParam d
    let t := d.lotState l.tag
    match d.lotDom l.tag with
    | .disabling =>
      if t.pendingBy = some e.id then waitFor .pendingSlot d
      else
        check (rd e.packet 12 2 = d.hosts.version) .eStaleConfig d
        let d := d.supersede (t.pendingBy.map some)
        let d := d.setLotState l.tag { d.lotState l.tag with pendingBy := some e.id }
        waitFor .pendingSlot (d.interimReply e)
    | .disabled =>
      let held := t.pendingBy = some e.id
      let _ ← if held then
          match d.hosts.install with
          | some _ => waitFor .drain d
          | none => pure ()
        else d.mayInstall e
      let d := d.setLotState l.tag { d.lotState l.tag with pendingBy := none }
      let image := d.derivedImage l.tag l
      match d.checkImage image none with
      | some st => failWith st d
      | none =>
        let d := d.setLotState l.tag { d.lotState l.tag with creating := some e.id }
        waitFor .drain ((d.startInstall e image (nextSkip0 16 d.hosts.version) true).modEntry e.id fun x => { x with ran := true })
    | _ => failWith .eParam d

/-- LOT_CREATE. -/
def execLotCreate (stream : StreamId) (host : List HostReturn) (s : State) : Out :=
  s.onDev fun d => d.runOp stream .lotCreate (lotCreateBody host)

/-! ### LOT_DESTROY (R373) -/

/-- Step 1: the lot stops fetching; commands not dispatched, waiting at a match, and solves that wait complete with E_STREAM_STATE. -/
def Device.beginDestroy (d : Device) (e : Entry) (tag : Nat) : Device :=
  let d := d.setLotState tag { d.lotState tag with destroying := some e.id }
  let solves := (d.solver.solves.filter fun s => s.lot = tag && s.waits).map fun s => s.entry
  let ids := (d.journal.filter fun x => x.lot = tag && (x.phase = .accepted || (x.phase = .dispatched && x.wait = .peers))).map fun x => x.id
  (ids ++ solves).foldl (fun d id => d.failOne id .eStreamState) d

/-- Whether a queue has replies on their way: not held, and with room in a ring that can be reached (R33, R34). Assumption 120, DESIGN CHOICE. -/
def Device.replyOnItsWay (d : Device) (lot q : Nat) : Bool :=
  let v := d.queue lot q
  !v.replies.isEmpty && !v.replyHold && !v.ringFull && d.ringReachable lot q

/-- Whether a lot has nothing left to run, and its channels are DISABLED (R373, steps 1 to 3): its commands have their final
replies, which are written but for those that are held. -/
def Device.destroyQuiet (d : Device) (tag : Nat) : Bool :=
  (d.journal.all fun x => x.lot ≠ tag || x.phase = .committed)
    && ((List.range Config.queuesPerLot).all fun q => !d.replyOnItsWay tag q)
    && (d.lot tag).channels.all fun x => (d.channel x).state = .disabled

/-- The lot's channels go to DISABLED (R241). -/
def Device.disableChannels (d : Device) (tag : Nat) : Device :=
  (d.lot tag).channels.foldl (fun d x =>
    let d := d.supersede (d.channel x).abandoned
    d.setChannel x { (d.channel x).requestDisable with pendingBy := none }) d

/-- LOT_DESTROY (R372, R373): its steps follow one another as the command is run again. -/
def lotDestroyBody (e : Entry) (d : Device) : Res (Nat × Nat × Device) := do
  let tag := e.param 16 1
  check (1 ≤ tag && tag < Config.lots) .eParam d
  match d.lotDom tag with
  | .disabled => pure (0, 0, d)
  | .enabling => waitFor .drain d
  | .enabled => waitFor .drain ((d.beginDestroy e tag).disableChannels tag)
  | .disabling =>
    if (d.lotState tag).destroying ≠ some e.id then pure (0, 0, d)
    else if !d.destroyQuiet tag || d.hosts.install.isSome then waitFor .drain (d.disableChannels tag)
    else
      let d := d.setLotState tag { d.lotState tag with tdi := 0 }
      let d := (d.clearHoldings tag).clearStreams tag
      waitFor .drain (d.startInstall e (d.derivedImage tag {}) (nextSkip0 16 d.hosts.version) true)

/-- LOT_DESTROY. -/
def execLotDestroy (stream : StreamId) (s : State) : Out := s.onDev fun d => d.runOp stream .lotDestroy lotDestroyBody

/-! ### CONFIG_INSTALL and DRAIN_LIMIT_EXPIRY (R369) -/

/-- Commands that install: they do not hold up each other's drain. -/
def Opcode.installs : Opcode → Bool
  | .configApply | .configRollback | .lotCreate | .lotDestroy => true
  | _ => false

/-- Whether every command dispatched under the old version has committed or failed; those with CFG_ANY go on. Assumption 80, DESIGN CHOICE. -/
def Device.drained (d : Device) : Bool :=
  !d.journal.any fun e => e.inFlight && !(rd e.packet 2 2).testBit 2 && !e.op.installs

/-- The states of lots when the installation of a command ends: a create is over, a destroyed lot is DISABLED. -/
def Device.endInstall (d : Device) (id : Nat) : Device :=
  (List.range Config.lots).foldl (fun d t =>
    let l := d.lotState t
    if l.creating = some id then d.setLotState t { l with creating := none }
    else if l.destroying = some id then d.setLotState t { pendingBy := l.pendingBy }
    else d) d

/-- CONFIG_INSTALL: once the drain is over the image is installed and its command completes with the new version. -/
def execConfigInstall (s : State) : Out :=
  s.onDev fun d =>
    match d.hosts.install with
    | none => d
    | some i =>
      if !d.running || !d.drained then d
      else ((d.installImage i).endInstall i.entry).stageOk i.entry i.version 0

/-- Dispatches the commands that wait for the end of a drain. -/
def Device.dispatchWaiting (d : Device) : Device :=
  ((d.journal.filter fun e => e.phase = .accepted && e.wait = .drain).map fun e => e.stream).eraseDups.foldl Device.dispatch d

/-- DRAIN_LIMIT_EXPIRY: the installation ends under the old version, its command fails and what waited dispatches; a destroy is not
aborted, and begins its drain again (R369, R372, R373). -/
def execDrainLimitExpiry (s : State) : Out :=
  s.onDev fun d =>
    match d.hosts.install with
    | none => d
    | some i =>
      match i.limitAt with
      | none => d
      | some t =>
        if !d.running || d.time < t then d
        else
          let d : Device := { d with hosts := { d.hosts with install := none } }
          let d : Device := match d.entry i.entry with
            | some e => if e.op = Opcode.lotDestroy then d else (d.failEntry e.id .eDeadlineMissed).endInstall e.id
            | none => d
          d.dispatchWaiting

/-! ### HOST_ROLE (R362) -/

/-- HOST_ROLE. -/
def hostRoleBody (e : Entry) (d : Device) : Res (Nat × Nat × Device) := do
  let t := e.param 16 1
  check (d.hosts.holder = some t || (t < Config.attachments && d.attached t)) .eParam d
  pure (0, 0, d)

/-- The commit of a HOST_ROLE: the role and lot 0 move, and the standby in force is settled. -/
def commitHostRole (e : Entry) (d : Device) : Device :=
  let t := e.param 16 1
  if d.hosts.holder = some t then d
  else
    let keep := (e.param 17 1).testBit 0
    let standby := if !keep then d.hosts.holder else if d.hosts.standby = some t then none else d.hosts.standby
    let d := d.moveRole t
    { d with hosts := { d.hosts with standby := standby } }

/-- HOST_ROLE. -/
def execHostRole (stream : StreamId) (s : State) : Out := s.onDev fun d => d.runOp stream .hostRole hostRoleBody

end Sys2Proof.Machine
end

