-- ==== Sys2Proof/Machine/Domains.lean ====
section
/-!
DEFINITION. Power domains and DOMAIN_ENABLE, DOMAIN_DISABLE and SELFTEST (R406, R407, R414, R419), core and cluster power states, D0-idle and
wakes (R400 to R405).
-/
namespace Sys2Proof.Machine

/-! ### The common state machine on a power domain (R406) -/

/-- An enable request. `at_`: when an enable that starts now ends; `by_`: the command that asks. -/
def Domain.requestEnable (v : Domain) (by_ : Option Nat) (at_ : Nat) : Domain :=
  match v.state with
  | .disabled => { v with state := .enabling, enabler := by_, readyAt := at_ }
  | .disabling => { v with pendingBy := some by_ }
  | _ => v

/-- A disable request. -/
def Domain.requestDisable (v : Domain) : Domain :=
  match v.state with
  | .enabled | .enabling => { v with state := .disabling, enabler := none }
  | _ => v

/-- The domain reaches DISABLED; a pending enable acts. -/
def Domain.reachDisabled (v : Domain) (cstate at_ : Nat) : Domain :=
  let v := { v with state := .disabled, cstate := cstate, readyAt := 0, idleSince := 0 }
  match v.pendingBy with
  | some b => { v with state := .enabling, pendingBy := none, enabler := b, readyAt := at_ }
  | none => v

/-- The C3 exit time (R400): 72,000 CTRL cycles, 60 µs. -/
def c3ExitTicks : Nat := 6000

/-- What DOMAIN_ENABLE and DOMAIN_DISABLE act on. -/
inductive Target where
  | cluster (c : Nat)
  | core (n : Nat)
  | stack (m : Nat)
  | channel (x : Nat)
  | port (p : Nat)
  deriving DecidableEq, Repr

/-- The domain of a KIND and an INDEX. -/
def targetOf (kind index : Nat) : Option Target :=
  match kind with
  | 0 => if index < Config.clusters then some (.cluster index) else none
  | 1 => if index < Config.cores then some (.core index) else none
  | 2 => if index < Config.memStacks then some (.stack index) else none
  | 3 => if index < Config.channels then some (.channel index) else none
  | 4 => if index < Config.ports then some (.port index) else none
  | _ => none

/-- State, FAULTY mark and pending slot of a domain. -/
def Device.domain (d : Device) : Target → Dom × Bool × Option (Option Nat)
  | .cluster c => let v := d.cluster c; (v.state, v.faulty, v.pendingBy)
  | .core n => let v := d.coreDom n; (v.state, v.faulty, v.pendingBy)
  | .stack m => let v := d.stackDom m; (v.state, v.faulty, v.pendingBy)
  | .channel x => let v := d.channel x; (v.state, false, v.pendingBy)
  | .port p => let v := d.port p; (v.state, v.faulty, v.pendingBy)

/-- The power domain of a cluster, core or stack: its KIND and INDEX. -/
def Target.power : Target → Option (Nat × Nat)
  | .cluster c => some (0, c)
  | .core n => some (1, n)
  | .stack m => some (2, m)
  | _ => none

/-- The power domain at a KIND and INDEX. -/
def Device.powerDom (d : Device) (kind i : Nat) : Domain :=
  if kind = 0 then d.cluster i else if kind = 1 then d.coreDom i else d.stackDom i

/-- Replaces a power domain, with a POWER event where its state changes (R420). -/
def Device.setPowerDom (d : Device) (kind i : Nat) (v : Domain) : Device :=
  let old := (d.powerDom kind i).state
  let d := if kind = 0 then d.setCluster i v else if kind = 1 then d.setCoreDom i v else d.setStackDom i v
  if old = v.state then d else d.raisePower 5 kind i v.state.code

/-- An enable request for a domain by a command. -/
def Device.domainEnable (d : Device) (t : Target) (id : Nat) : Device :=
  match t with
  | .channel x => d.setChannel x ((d.channel x).requestEnable (some id))
  | .port p => d.portEnable p (some id)
  | t => match t.power with
    | some (k, i) => d.setPowerDom k i ((d.powerDom k i).requestEnable (some id) (d.time + c3ExitTicks))
    | none => d

/-- The 16 DMA channels of a cluster go to DISABLING (R407). -/
def Device.disableClusterChannels (d : Device) (c : Nat) : Device :=
  (List.range 16).foldl (fun d k =>
    let x := 16 * c + k
    let d := d.supersede (d.channel x).abandoned
    d.setChannel x (d.channel x).requestDisable) d

/-- A disable request for a domain: the command of an enable that it abandons is superseded. -/
def Device.domainDisable (d : Device) (t : Target) : Device :=
  match t with
  | .channel x =>
    let d := d.supersede (d.channel x).abandoned
    d.setChannel x (d.channel x).requestDisable
  | .port p => d.portDisable p
  | t => match t.power with
    | some (k, i) =>
      let v := d.powerDom k i
      let d := if v.state = .enabling then d.supersede (some v.enabler) else d
      let d := d.setPowerDom k i (d.powerDom k i).requestDisable
      if k = 0 then d.disableClusterChannels i else d
    | none => d

/-- Whether every extent of a stack is FREE or RETIRED (R407, R419). -/
def Device.stackEmpty (d : Device) (m : Nat) : Bool :=
  d.mem.owners.all fun o => extentStack o.1 ≠ m || o.2 = .free || o.2 = .retired

/-- DOMAIN_ENABLE: it completes when the domain is ENABLED. -/
def domainEnableBody (e : Entry) (d : Device) : Res (Nat × Nat × Device) := do
  if e.ran then waitFor e.wait d
  else
    let t ← need (targetOf (e.param 16 1) (e.param 18 2)) .eParam d
    let (state, faulty, held) := d.domain t
    check (!faulty) .eParam d
    let mark (d : Device) : Device := d.modEntry e.id fun x => { x with ran := true }
    match state with
    | .enabling | .enabled => pure (0, 0, d)
    | .disabled => waitFor .time (mark (d.domainEnable t e.id))
    | .disabling => waitFor .pendingSlot ((mark ((d.supersede held).domainEnable t e.id)).interimReply e)

/-- DOMAIN_DISABLE: it completes when the domain has left DISABLING. -/
def domainDisableBody (e : Entry) (d : Device) : Res (Nat × Nat × Device) := do
  if e.ran then waitFor e.wait d
  else
    let t ← need (targetOf (e.param 16 1) (e.param 18 2)) .eParam d
    check (match t with | .stack m => d.stackEmpty m | _ => true) .eParam d
    match (d.domain t).1 with
    | .disabling | .disabled => pure (0, 0, d)
    | _ => waitFor .time ((d.domainDisable t).modEntry e.id fun x => { x with ran := true })

/-- DOMAIN_ENABLE. -/
def execDomainEnable (stream : StreamId) (s : State) : Out := s.onDev fun d => d.runOp stream .domainEnable domainEnableBody

/-- Completes the DOMAIN_DISABLE commands whose domain has left DISABLING, and the DOMAIN_ENABLE commands of DMA channels that are
ENABLED. Assumption 65, DESIGN CHOICE. -/
def Device.settleDomains (d : Device) : Device :=
  d.journal.foldl (fun d e =>
    if !(e.phase = .dispatched && e.ran && (e.op = .domainDisable || e.op = .domainEnable)) then d
    else
      match targetOf (e.param 16 1) (e.param 18 2) with
      | none => d
      | some t =>
        let (state, _, held) := d.domain t
        let done := if e.op = .domainDisable then state ≠ .disabling else state = .enabled && held ≠ some (some e.id)
        if done then d.stageOk e.id 0 0 else d) d

/-! ### Transitions of clusters, cores and stacks (R400, R407) -/

/-- A core that is off loses its local store and its engines' registers (R400). -/
def State.blankCore (s : State) (n : Nat) : State :=
  { s with eng := { cores := Tab.erase s.eng.cores n
                    stores := s.eng.stores.filter fun c => c.1 / Config.localStoreBytes ≠ n } }

/-- The cores of a cluster. -/
def coresOf (c : Nat) : List Nat := (List.range 8).map (8 * c + ·)

/-- A cluster enters C3: its solver unit loses its scratch (R400). -/
def Device.blankUnit (d : Device) (c : Nat) : Device := d.setUnit c { d.unit c with scratch := none }

/-- The blends that wait on a cluster which is DISABLED go to the next ENABLED one (R407). -/
def Device.rehomeBlends (d : Device) (c : Nat) : Device :=
  let bs := (d.unit c).blends
  bs.foldl Device.queueBlend (d.setUnit c { d.unit c with blends := [] })

/-- A cluster's cores take a power state with it; in C3 they lose their contents. -/
def State.setCoreStates (s : State) (c k : Nat) : State :=
  (coresOf c).foldl (fun s n =>
    let v := s.dev.coreDom n
    let s := if k = 3 then s.blankCore n else s
    if v.state = .disabled then s
    else { s with dev := s.dev.setCoreDom n { v with cstate := k, idleSince := if k = 0 then s.dev.time else v.idleSince } }) s

/-- Whether a core runs no kernel. -/
def State.coreIdle (s : State) (n : Nat) : Bool := (s.kernelOf n).isNone

/-- Whether a cluster's solver unit and DMA channels do nothing, and the unit holds no blend. -/
def Device.clusterQuiet (d : Device) (c : Nat) : Bool :=
  !(d.unit c).busy && (d.unit c).blend.isNone && (d.unit c).blends.isEmpty && (List.range 16).all fun k => (d.channel (16 * c + k)).slot.isNone

/-- Whether a domain that is DISABLING has handed off or finished its work. -/
def State.domainQuiet (s : State) (kind i : Nat) : Bool :=
  if kind = 0 then
    (coresOf i).all s.coreIdle && !(s.dev.unit i).busy && (s.dev.unit i).blend.isNone
      && (List.range 16).all fun k => (s.dev.channel (16 * i + k)).state = .disabled
  else if kind = 1 then s.coreIdle i
  else true

/-- One tick of a power domain: a transition that has finished ends, and its command completes. A cluster or core that is DISABLED is in
C3. A stack that is ENABLING ends with STACK_RETRAIN_DONE. -/
def State.tickDomain (s : State) (kind i : Nat) : State :=
  let d := s.dev
  let v := d.powerDom kind i
  match v.state with
  | .enabling =>
    if kind = 2 || d.time < v.readyAt then s
    else
      let d := d.setPowerDom kind i { v with state := .enabled, enabler := none, cstate := 0, readyAt := 0, idleSince := d.time }
      let d := match v.enabler with | some id => d.stageOk id 0 0 | none => d
      let s := { s with dev := d }
      if kind = 0 then s.setCoreStates i 0 else s
  | .disabling =>
    if s.domainQuiet kind i then
      let s := if kind = 0 then s.setCoreStates i 3 else if kind = 1 then s.blankCore i else s
      let d := s.dev.setPowerDom kind i (v.reachDisabled (if kind = 2 then 0 else 3) (s.dev.time + c3ExitTicks))
      { s with dev := if kind = 0 then (d.blankUnit i).rehomeBlends i else d }
    else s
  | _ => s

/-- STACK_RETRAIN_DONE: a stack that was enabled has been retrained (R407). -/
def execStackRetrainDone (stack : StackId) (s : State) : Out :=
  s.onDev fun d =>
    let v := d.stackDom stack
    if v.state ≠ .enabling || !d.clocked then d
    else
      let d := d.setPowerDom 2 stack { v with state := .enabled, enabler := none, cstate := 0, readyAt := 0 }
      match v.enabler with
      | some id => d.stageOk id 0 0
      | none => d

/-- One tick of every power domain, and the commands that then complete. -/
def State.tickDomains (s : State) : State :=
  let inMotion (t : Table Domain) : List Nat :=
    (t.filter fun e => e.2.state = .enabling || e.2.state = .disabling).map fun e => e.1
  let p := s.dev.power
  let s := (inMotion p.cores).foldl (fun s n => s.tickDomain 1 n) s
  let s := (inMotion p.clusters).foldl (fun s c => s.tickDomain 0 c) s
  let s := (inMotion p.stackDoms).foldl (fun s m => s.tickDomain 2 m) s
  { s with dev := s.dev.settleDomains }

/-- DOMAIN_DISABLE: a domain without work is DISABLED at once. -/
def execDomainDisable (stream : StreamId) (s : State) : Out :=
  .next { s with dev := s.dev.runOp stream .domainDisable domainDisableBody }.tickDomains

/-! ### SELFTEST (R414, R419) -/

/-- Sets or clears the FAULTY mark of a tested unit. -/
def Device.markFaulty (d : Device) (scope i : Nat) (bad : Bool) : Device :=
  match scope with
  | 1 => d.setCluster i { d.cluster i with faulty := bad }
  | 2 => d.setStackDom i { d.stackDom i with faulty := bad }
  | 3 => d.modPort i fun v => { v with faulty := bad }
  | _ => d

/-- SELFTEST: `faultCode` is what the test finds, 0 for a pass. -/
def selftestBody (faultCode : Nat) (e : Entry) (d : Device) : Res (Nat × Nat × Device) := do
  let scope := e.param 16 1
  let i := e.param 18 2
  check (scope ≤ 3) .eParam d
  check (match scope with
    | 1 => i < Config.clusters && (d.cluster i).state = .disabled
    | 2 => i < Config.memStacks && d.stackEmpty i
    | 3 => i < Config.ports && (d.port i).state = .disabled
    | _ => true) .eParam d
  let code := faultCode % 2 ^ 32
  pure (code, if code = 0 then 0 else i, d.markFaulty scope i (code ≠ 0))

/-- SELFTEST. -/
def execSelftest (stream : StreamId) (faultCode : Nat) (s : State) : Out :=
  s.onDev fun d => d.runOp stream .selftest (selftestBody faultCode)

/-! ### C2 and C3 (R400, R401, R404) -/

/-- What a wake of a unit does: the unit returns to C0, or its stack leaves self-refresh; any wake returns the package to D0 (R401 to R405).
A cluster wakes with its cores and a core with its cluster, since a cluster is never in a shallower state than its shallowest core.
Assumption 87, DESIGN CHOICE. -/
def State.wakeUnit (s : State) (u : PowerUnit) (w : WakeSource) : State :=
  match u with
  | .package => { s with dev := s.dev.wakePackage w }
  | .cluster c =>
    let v := s.dev.cluster c
    if v.state = .enabled && 2 ≤ v.cstate then
      let s := { s with dev := (s.dev.setCluster c { v with cstate := 0, idleSince := s.dev.time }).toD0.recordWake 1 c w }
      s.setCoreStates c 0
    else s
  | .core n =>
    let v := s.dev.coreDom n
    let k := s.dev.cluster (n / 8)
    if v.state = .enabled && k.state = .enabled && 2 ≤ v.cstate then
      let d := s.dev.setCoreDom n { v with cstate := 0, idleSince := s.dev.time }
      let d := if 2 ≤ k.cstate then d.setCluster (n / 8) { k with cstate := 0 } else d
      { s with dev := d.toD0.recordWake 2 n w }
    else s
  | .stack m =>
    let v := s.dev.stackDom m
    if v.cstate = 0 then s
    else
      let d := s.dev.setStackDom m { v with cstate := 0 }
      if d.power.d0Idle then { s with dev := d.toD0.recordWake 3 m w } else { s with dev := d }

/-- Whether a source of R403 wakes a unit of this kind. -/
def PowerUnit.wakes (u : PowerUnit) (w : WakeSource) : Bool :=
  match u, w with
  | .package, .wakeN | .package, .queue | .package, .timer => true
  | .cluster _, .wakeN | .cluster _, .work | .cluster _, .dumpTick => true
  | .core _, .work | .core _, .event | .core _, .dumpTick | .core _, .scanHalt => true
  | .stack _, .wakeN | .stack _, .memory => true
  | _, _ => false

/-- An edge wake that is lost: it is counted, with a POWER event (R404, R420). -/
def Device.loseWake (d : Device) (kind i : Nat) : Device :=
  { d with power := { d.power with wakeLost := satAdd 0xFFFFFFFF d.power.wakeLost 1 } }.raisePower 2 kind i 0

/-- A dump tick that a unit lost: its section of the records of this instant is stale (R404, R429). Units are numbered as in STALE. -/
def State.loseTick (s : State) (u : Nat) : State :=
  let d := if u < 256 then s.dev.loseWake 1 u else s.dev.loseWake 0 (u - 256)
  { s with dev := { d with power := { d.power with
      lostTicks := (d.power.lostTicks.filter fun x => x.2 = d.time) ++ [(u, d.time)] } } }

/-- Whether a unit of STALE is in C2 or C3. -/
def Device.unitAsleep (d : Device) (u : Nat) : Bool :=
  if u < 256 then decide (2 ≤ (d.coreDom u).cstate) else u < 288 && decide (2 ≤ (d.cluster (u - 256)).cstate)

/-- The end of an entry into C2 or C3: an edge source that came within its window is lost, a level source that was present begins the exit
at once (R404). -/
def State.endEntry (s : State) (u : PowerUnit) (kind i : Nat) (edge : Option WakeSource) : State :=
  match edge with
  | none => s
  | some w =>
    if w = .dumpTick then s.loseTick (if kind = 1 then i else 256 + i)
    else if w.edge then { s with dev := s.dev.loseWake kind i }
    else s.wakeUnit u w

/-- How long a core must have been idle for C2 or C3; none where the state is not entered through idleness (R401). -/
def Policy.delay (p : Policy) (k : Nat) : Option Nat := if k = 2 then some p.c2Delay else if p.c3Delay = 0 then none else some p.c3Delay

/-- Whether a core or cluster may enter C2 or C3 through idleness. -/
def State.mayEnter (s : State) (u : PowerUnit) (k : Nat) : Bool :=
  let d := s.dev
  match d.power.policy.delay k with
  | none => false
  | some delay =>
    d.running && match u with
      | .core n => (d.coreDom n).state = .enabled && (d.coreDom n).cstate < k && s.coreIdle n && (d.coreDom n).idleSince + delay ≤ d.time
      | .cluster c =>
        (d.cluster c).state = .enabled && (d.cluster c).cstate < k && d.clusterQuiet c
          && (coresOf c).all fun n => (d.coreDom n).state = .disabled || k ≤ (d.coreDom n).cstate
      | _ => false

/-- Entry of a core or cluster into C2 or C3. -/
def State.enter (s : State) (u : PowerUnit) (k : Nat) (edge : Option WakeSource) : State :=
  if !s.mayEnter u k then s
  else
    match u with
    | .core n =>
      let s := if k = 3 then s.blankCore n else s
      { s with dev := s.dev.setCoreDom n { s.dev.coreDom n with cstate := k } }.endEntry u 1 n edge
    | .cluster c =>
      let d := s.dev.setCluster c { s.dev.cluster c with cstate := k }
      { s with dev := if k = 3 then d.blankUnit c else d }.endEntry u 0 c edge
    | _ => s

/-- Whether C2 and C3 are states of a unit, and a source can wake it (R400, R403). -/
def PowerUnit.entryOk (u : PowerUnit) (edge : Option WakeSource) : Bool :=
  (match u with | .core _ => true | .cluster _ => true | _ => false) && (match edge with | some w => u.wakes w | none => true)

/-- C2_ENTRY (R400, R401, R404). -/
def execC2Entry (unit : PowerUnit) (edge : Option WakeSource) (s : State) : Out :=
  .next (if unit.entryOk edge then s.enter unit 2 edge else s)

/-- C3_ENTRY (R400, R401, R404). -/
def execC3Entry (unit : PowerUnit) (edge : Option WakeSource) (s : State) : Out :=
  .next (if unit.entryOk edge then s.enter unit 3 edge else s)

/-! ### D0-idle (R402) -/

/-- Whether the conditions of D0-idle hold now. -/
def Device.packageIdle (d : Device) : Bool :=
  (List.range Config.clusters).all (fun c => (d.cluster c).state = .disabled || 2 ≤ (d.cluster c).cstate)
    && (d.journal.all fun e => e.phase ≠ .dispatched) && d.dma.all fun c => c.2.slot.isNone

/-- Whether every lot that owns an extent on a stack allows self-refresh. -/
def Device.mayRefresh (d : Device) (m : Nat) : Bool :=
  (d.stackDom m).state = .enabled && d.mem.owners.all fun o =>
    extentStack o.1 ≠ m || match o.2 with
      | .lot t => d.power.policy.srLots.testBit t
      | _ => true

/-- D0_IDLE_ENTRY: a timer expiry that is still pending ends it at once (R403). -/
def execD0IdleEntry (s : State) : Out :=
  s.onDev fun d =>
    let p := d.power
    if !d.running || p.d0Idle || !d.packageIdle || d.time < p.idleSince + p.policy.idleDelay then d
    else
      let d := (List.range Config.memStacks).foldl (fun d m =>
        if d.mayRefresh m then d.setStackDom m { d.stackDom m with cstate := 1 } else d) { d with power := { p with d0Idle := true } }
      if p.timerWake then { d with power := { d.power with timerWake := false } }.wakePackage .timer else d

/-- WAKE_TIMER_EXPIRY: the timer of the POWER_POLICY in force expires (R403, R408). -/
def execWakeTimerExpiry (s : State) : Out :=
  s.onDev fun d =>
    match d.power.wakeAt with
    | none => d
    | some t =>
      if d.time < t || !d.clocked then d
      else
        let idle := d.power.d0Idle
        { d with power := { d.power with wakeAt := none, timerWake := !idle } }.wakePackage .timer

/-- WAKE_N_ASSERT: the package, every cluster and every stack wake (R403). -/
def execWakeNAssert (s : State) : Out :=
  if !s.dev.clocked then .next s
  else
    let s := (List.finRange Config.clusters).reverse.foldl (fun s c => s.wakeUnit (.cluster c) .wakeN) s
    let s := (List.finRange Config.memStacks).foldl (fun s m => s.wakeUnit (.stack m) .wakeN) s
    .next (s.wakeUnit .package .wakeN)

/-- WAKE (R403). -/
def execWake (unit : PowerUnit) (source : WakeSource) (s : State) : Out :=
  .next (if unit.wakes source && s.dev.clocked then s.wakeUnit unit source else s)

/-- SCAN_HALT_REQUEST: an edge wake of the core named (R403). -/
def execScanHaltRequest (core : CoreId) (s : State) : Out :=
  .next (if s.dev.clocked then s.wakeUnit (.core core) .scanHalt else s)

end Sys2Proof.Machine
end

