-- ==== Sys2Proof/Machine/Pstates.lean ====
section
/-!
DEFINITION. Performance states, AVSBus requests, telemetry and the thermal rule, and POWER_POLICY (R397 to R399, R408, R409).
-/
namespace Sys2Proof.Machine

/-- The VCORE request of a performance state, in mV (R397). -/
def vcoreMv (p : Nat) : Nat := if p = 0 then 720 else if p = 1 then 660 else 620

/-- The VCORE rails. -/
def vcoreRails : List Nat := [0, 1, 2, 3]

/-- Sends requests for a voltage to rails; one that a rail still owes an answer for is replaced (R399). -/
def Device.askRails (d : Device) (rails : List Nat) (mv : Nat) (back : Bool) : Device :=
  let old := d.power.requests.filter fun r => !rails.contains r.rail
  let new := rails.map fun k => ({ rail := k, mv := mv, sentAt := d.time, back := back } : RailRequest)
  { d with power := { d.power with requests := old ++ new } }

/-- Starts a change of performance state (R398): a slower one is ready for its divider, a faster one first asks for the voltage. -/
def Device.beginChange (d : Device) (target : Nat) : Device :=
  let p := d.power.pstate
  if target = p then d
  else
    let faster := target < p
    let d := { d with power := { d.power with change := some { target := target, faster := faster, ready := !faster } } }
    if faster then d.askRails vcoreRails (vcoreMv target) false else d

/-- A request for a performance state: one made while a change is in progress is held, and a later one replaces it (R398). -/
def Device.requestState (d : Device) (target : Nat) : Device :=
  if d.power.change.isSome then { d with power := { d.power with waiting := some target } } else d.beginChange target

/-- The change in progress is over; the one that waits begins. -/
def Device.endChange (d : Device) : Device :=
  let w := d.power.waiting
  let d := { d with power := { d.power with change := none, waiting := none } }
  match w with
  | some t => d.beginChange t
  | none => d

/-- Whether requests of the change in progress are outstanding. -/
def Device.asking (d : Device) : Bool := d.power.requests.any fun r => !r.back

/-- A slower change whose voltage requests are all decided is over. -/
def Device.settleChange (d : Device) : Device :=
  match d.power.change with
  | some c => if !c.faster && !c.ready && !d.asking then d.endChange else d
  | none => d

/-- AVSBUS_ACK: a rail acknowledges its request (R399). -/
def Device.avsAck (d : Device) (k : Nat) : Device :=
  match d.power.requests.find? fun r => r.rail = k with
  | none => d
  | some r =>
    let d := { d with power := { d.power with
      requests := d.power.requests.filter fun x => x.rail ≠ k
      rails := Tab.put 0 r.mv d.power.rails k } }
    if r.back then d
    else
      match d.power.change with
      | none => d
      | some c =>
        let c := { c with acked := c.acked ++ [k] }
        let c := { c with ready := c.ready || (c.faster && vcoreRails.all c.acked.contains) }
        { d with power := { d.power with change := some c } }.settleChange

/-- AVSBUS_ACK. -/
def execAvsbusAck (rail : RailId) (s : State) : Out := s.onDev fun d => if d.clocked then d.avsAck rail else d

/-- A request has timed out for the third time: the failure is reported; a faster change ends, and the rails that had acknowledged it, or
still may, are asked back to the voltage of the divider in force (R399). Assumption 85, DESIGN CHOICE. -/
def Device.avsFailed (d : Device) (r : RailRequest) : Device :=
  let d := { d with power := { d.power with
    requests := d.power.requests.filter fun x => x.rail ≠ r.rail
    avsFail := true, avsRail := r.rail, avsTarget := r.mv } }.raisePower 1 r.rail 0 r.mv
  match d.power.change with
  | some c =>
    if r.back then d
    else if c.faster then
      let still := (d.power.requests.filter fun x => !x.back).map fun x => x.rail
      (d.askRails (c.acked ++ still) (vcoreMv d.power.pstate) true).endChange
    else d.settleChange
  | none => d

/-- AVSBUS_TIMEOUT: 60,000 SLOW cycles, 200 µs, have passed without an answer; the request is sent at most three times (R399). -/
def execAvsbusTimeout (rail : RailId) (s : State) : Out :=
  s.onDev fun d =>
    match d.power.requests.find? fun r => r.rail = rail.val with
    | none => d
    | some r =>
      if !d.clocked || d.time < r.sentAt + 20000 then d
      else if r.tries < 3 then
        { d with power := { d.power with requests := d.power.requests.map fun (x : RailRequest) =>
            if x.rail = r.rail then { x with tries := x.tries + 1, sentAt := d.time } else x } }
      else d.avsFailed r

/-- DIVIDER_CHANGE: at a hyperperiod boundary the divider of a change that is ready changes (R23, R398, R420). -/
def execDividerChange (s : State) : Out :=
  s.onDev fun d =>
    match d.power.change with
    | none => d
    | some c =>
      if !c.ready || !d.clocked then d
      else
        let d := { d with power := { d.power with pstate := c.target, change := some { c with ready := false } } }.raisePower 0 c.target 0
          (vcoreMv c.target)
        if c.faster then d.endChange else d.askRails vcoreRails (vcoreMv c.target) false

/-- Ticks between changes of R409: 10 ms. -/
def changeGap : Nat := 1000000

/-- Whether 10 ms have passed since an instant, if there was one. -/
def Device.gapOver (d : Device) (last : Option Nat) : Bool :=
  match last with
  | some t => t + changeGap ≤ d.time
  | none => true

/-- A move of the state that R409 makes. -/
def Device.moveState (d : Device) (target : Nat) : Device :=
  { d with power := { d.power with lastMove := some d.time } }.requestState target

/-- POWER_TELEMETRY: package power averaged over 10 ms and 100 ms (R409, R421). -/
def execPowerTelemetry (watts10ms watts100ms : Nat) (s : State) : Out :=
  s.onDev fun d =>
    if !d.clocked then d
    else
      let p := d.power
      let d := { d with power := { p with watts := watts10ms % 2 ^ 16 } }
      if p.policy.pstate ≠ 0xFF || !d.gapOver p.lastMove then d
      else if watts10ms > p.policy.cap then (if p.pstate < 2 then d.moveState (p.pstate + 1) else d)
      else if 100 * watts100ms < 85 * p.policy.cap && p.pstate > 0 then d.moveState (p.pstate - 1)
      else d

/-- THERMAL_THROTTLE: at 95 °C or more, one state slower every 10 ms, down to P2 (R409, R452). -/
def execThermalThrottle (celsius : Nat) (s : State) : Out :=
  s.onDev fun d =>
    if !d.clocked || celsius < 95 || !d.gapOver d.power.lastThermal || 2 ≤ d.power.pstate then d
    else
      let t := d.power.pstate + 1
      ({ d with power := { d.power with lastThermal := some d.time } }.moveState t).raisePower 6 t 0 0

/-! ### POWER_POLICY (R408) -/

/-- The policy of a command. -/
def Entry.policy (e : Entry) : Policy :=
  { pstate := e.param 16 1, cap := e.param 18 2, c2Delay := e.param 20 4, c3Delay := e.param 24 4, idleDelay := e.param 28 4
    wakeTimer := e.param 32 4, srLots := e.param 40 8 }

/-- POWER_POLICY: its ranges. -/
def powerPolicyBody (e : Entry) (d : Device) : Res (Nat × Nat × Device) := do
  let p := e.policy
  check (p.pstate ≤ 2 || p.pstate = 0xFF) .eParam d
  check (800 ≤ p.cap && p.cap ≤ 2800) .eParam d
  check (p.c2Delay ≤ 100000000 && p.wakeTimer ≤ 100000000) .eParam d
  pure (0, 0, d)

/-- The commit of a POWER_POLICY. Assumption 86, DESIGN CHOICE. -/
def commitPolicy (e : Entry) (d : Device) : Device :=
  let p := e.policy
  let d := { d with power := { d.power with policy := p, wakeAt := if p.wakeTimer = 0 then none else some (d.time + p.wakeTimer) } }
  if p.pstate = 0xFF then d else d.requestState p.pstate

/-- POWER_POLICY. -/
def execPowerPolicy (stream : StreamId) (s : State) : Out := s.onDev fun d => d.runOp stream .powerPolicy powerPolicyBody

end Sys2Proof.Machine
end

