-- ==== Sys2Proof/Machine/Resets.lean ====
section
/-!
DEFINITION. Cold start, warm reset and fatal conditions (R59, R64, R65, R410 to R415, R450, R454, R465), and the power-fail sequence with its
flush (R416 to R418, R441, R451).
-/
namespace Sys2Proof.Machine

/-! ### Records of the power manager -/

/-- A record of the power manager that goes to the selvage log at once, without the collector; with `queued` it also waits in the
collector for the management queue. -/
def Device.logPower (d : Device) (kind : Nat) (payload : Bytes) (queued : Bool) : Device :=
  let s := d.source srcPower
  let r : EventRec :=
    { source := srcPower, kind := kind, dye := 0, srcSeq := s.count % 2 ^ 24, prio := d.prio srcPower, time := d.time
      payload := fit 16 payload, queue := if queued then some 0 else none }
  let d := (d.setSource srcPower { s with count := s.count + 1 }).logRecord r
  if queued then { d with events := { d.events with buffer := d.events.buffer ++ [r] } } else d

/-- BOOT_FAIL at a step: the start stops, and the selvage log holds the cause, whose codes the manual does not list (R413, R439).
Assumption 89, DESIGN CHOICE. -/
def Device.bootFail (d : Device) (step : Nat) : Device :=
  let (cause, d) := d.fresh
  { d with power := { d.power with stage := 0xF, coldDue := false, warmDue := false } }.logPower 0x24 (toLE 1 step ++ toLE 1 cause) false

/-! ### Cold reset (R410, R411) -/

/-- A device held at the start of a cold start. What survives: the selvage log, flash, the pins, the memory of the hosts, and the index of the
free values (R414, R417, R441); TIME holds until the next lock (R25). `cause`: LAST_RESET and COLD_CAUSE; at power-on the log is lost as well. -/
def Device.coldReset (d : Device) (powerOn : Bool) (cause : Nat) : Device :=
  { time := if powerOn then 0 else d.time
    hosts := { attaches := (d.hosts.attaches.filter fun a => a.2.perst).map fun (a : Nat × Attachment) => (a.1, { perst := true })
               hostMem := d.hosts.hostMem }
    power := { slots := d.power.slots, lastReset := if powerOn then 0 else 1, coldCause := cause
               warnLow := if powerOn then false else d.power.warnLow }
    observe := if powerOn then {} else { log := d.observe.log, nextLog := d.observe.nextLog }
    ctr := { free := d.ctr.free } }

/-- A cold reset of the block: the engines lose their contents. -/
def State.coldReset (s : State) (powerOn : Bool) (cause : Nat) : State := { s with dev := s.dev.coldReset powerOn cause, eng := {} }

/-- POWER_ON: VHUB has risen, or PWRGD rises again (R450). -/
def execPowerOn (s : State) : Out := .next (s.coldReset true 0)

/-! ### The board record (R465) -/

/-- What the board record sets. -/
structure Board where
  splits : List Nat
  mgmt   : Nat
  image  : Nat
  i3c    : Nat
  rails  : List Nat
  lot0   : LotEntry
  deriving DecidableEq, Repr

/-- Whether the splits of the host ports provide an attachment (R351). -/
def splitProvides (splits : List Nat) (a : Nat) : Bool :=
  match splits.getD (a / 4) 0 with
  | 0 => a % 4 = 0
  | 1 => a % 2 = 0
  | _ => true

/-- Owners with the SYSTEM extents at the start of two stacks (R204). -/
def systemOwners (stackIds : List Nat) : Table Owner :=
  stackIds.flatMap fun m => (List.range Config.systemExtentsPerStack).map fun i => (m * Config.extentsPerStack + i, Owner.system)

/-- Reads a board record; `none` where it is bad. -/
def parseBoard (b : Bytes) : Option Board :=
  let r : Board :=
    { splits := (List.range 4).map fun p => rd b (16 + p) 1, mgmt := rd b 20 1, image := rd b 21 1, i3c := rd b 22 1
      rails := (List.range Config.rails).map fun k => rd b (24 + 2 * k) 2, lot0 := parseLot ((b.drop 64).take 128) }
  let fresh : Device := { mem := { owners := systemOwners [0, 1] } }
  if b.length = 512 && rd b 0 4 = 0x44524342 && rd b 4 2 = 1 && rd b 8 8 = crc64 (b.take 8 ++ zeros 8 ++ b.drop 16)
      && rd b 6 2 = 0 && r.splits.all (· ≤ 2) && r.mgmt < 16 && r.image < 2 && r.i3c < 128 && rd b 23 1 = 0 && rd b 44 20 = 0
      && rd b 192 320 = 0 && lotReservedOk ((b.drop 64).take 128) && splitProvides r.splits r.mgmt
      && r.lot0.valid && r.lot0.tag = 0 && !r.lot0.ideRequired && !r.lot0.tdispRequired && fresh.tableOk [r.lot0] fresh.mem.scratchWays
  then some r else none

/-- Step 2: what the board record sets (R351, R360, R361, R448, R456). -/
def Device.applyBoard (d : Device) (r : Board) : Device :=
  let rails : Table Nat := r.rails.zipIdx.foldl (fun t v => Tab.put 0 v.1 t v.2) []
  { d with
    hosts := { d.hosts with
      splits := r.splits, boardMgmt := r.mgmt, i3cAddr := r.i3c
      image := { d.hosts.image with lots := r.lot0 :: List.replicate 63 {} } }
    power := { d.power with rails := rails } }

/-! ### Cold start (R413) -/

/-- The images of flash (R412, R413, step 3): the preferred one where it verifies, else the other; whether the other was taken. -/
def chooseImage (preferred : Nat) (a b : Bool) : Option (Nat × Bool) :=
  let ok (i : Nat) : Bool := if i = 0 then a else b
  if ok preferred then some (preferred, false) else if ok (1 - preferred) then some (1 - preferred, true) else none

/-- The valid flush slot with the later SERIAL (R417). -/
def keptSlot (slots : List (Option FlushSlot)) : Option Nat :=
  let valid : List (Nat × Nat) := slots.zipIdx.filterMap fun x => match x.1 with
    | some s => if s.good then some (x.2, s.serial) else none
    | none => none
  (valid.foldl (fun (b : Option (Nat × Nat)) x => match b with
    | some y => if y.2 < x.2 then some x else some y
    | none => some x) none).map fun x => x.1

/-- Step 3: the slot that is not kept is erased. -/
def Power.eraseSlot (p : Power) : Power :=
  let k := keptSlot p.slots
  { p with kept := k, slots := p.slots.zipIdx.map fun x => if some x.2 = k then x.1 else none }

/-- Steps 4 and 6: units that fail are FAULTY and DISABLED. -/
def Device.failUnits (d : Device) (clusters : List ClusterId) (cores : List CoreId) : Device :=
  let d := clusters.foldl (fun (d : Device) (c : ClusterId) => d.setCluster c { state := .disabled, faulty := true, cstate := 3 }) d
  cores.foldl (fun (d : Device) (n : CoreId) => d.setCoreDom n { state := .disabled, faulty := true, cstate := 3 }) d

/-- The steps of a cold start. Their durations are left out: TIME is 0 at Ready. Assumption 82, DESIGN CHOICE. -/
def Device.coldStart (d : Device) (i : ColdStartInput) : Device :=
  if !i.pllLocks then d.bootFail 1
  else
    let d := { d with time := 0, power := { d.power with locked := true, stage := 2 } }
    match i.board.bind parseBoard with
    | none => d.bootFail 2
    | some r =>
      let d := d.applyBoard r
      match chooseImage r.image i.imageA i.imageB with
      | none => d.bootFail 3
      | some (image, fallback) =>
        let d := { d with power := { d.power with image := image, fallback := fallback }.eraseSlot }
        let bad := i.badStacks.eraseDups
        let d := bad.foldl (fun d m => d.setStackDom m { state := .disabled, faulty := true }) d
        if 4 < bad.length then d.bootFail 4
        else
          let on := ((List.finRange Config.memStacks).filter fun m => !bad.contains m).map fun m => m.val
          let d : Device := { d with mem := { d.mem with owners := systemOwners (on.take 2) } }
          let d := d.failUnits i.badClusters i.badCores
          if !i.hubOk then d.bootFail 6
          else
            let d := { d with power := { d.power with stage := 7, coldDue := false } }
            if fallback then d.raisePower 4 0 0 0 else d

/-- Whether a cold start can run: PWRGD is high, PERST_N of attachment 0 released, and no warning has stopped the start (R413, R418). -/
def Device.mayStartCold (d : Device) : Bool :=
  d.power.coldDue && d.power.pwrgd && !d.power.tripped && !d.power.warnLow && (d.attachment 0).perst

/-- COLD_START. With `warnDuring`, PWR_WARN_N asserts before step 3 completes: the start stops, and nothing is flushed (R418). -/
def execColdStart (input : ColdStartInput) (s : State) : Out :=
  s.onDev fun d =>
    if !d.mayStartCold then d
    else if input.warnDuring then { d with power := { d.power with warnLow := true } }
    else d.coldStart input

/-! ### The power-fail sequence (R416, R418, R451) -/

/-- Every cluster is in C3 and the cores are off. -/
def State.allOff (s : State) : State :=
  let d := (List.range Config.clusters).foldl (fun d c =>
    if (d.cluster c).state = .disabled then d else (d.setCluster c { d.cluster c with cstate := 3 }).blankUnit c) s.dev
  let d := (List.range Config.cores).foldl (fun d n =>
    if (d.coreDom n).state = .disabled then d else d.setCoreDom n { d.coreDom n with cstate := 3 }) d
  { s with dev := d, eng := {} }

/-- The lasers of a port go off: it leaves ACTIVE. Assumption 96, DESIGN CHOICE. -/
def Device.darkPort (d : Device) (p : Nat) : Device :=
  if (d.port p).lit then d.leaveActive p fun v => { v with lstate := 0, step := 0 } else d

/-- Step 1 of the sequence. The work that is lost is replayed from the journal, so no command fails. -/
def State.powerFail (s : State) : State :=
  let s := s.allOff
  let d := { s.dev with links := { s.dev.links with messages := [] } }
  let d := (List.range Config.ports).foldl Device.darkPort d
  let d := (List.range Config.memStacks).foldl (fun d m =>
    if (d.stackDom m).state = .enabled then d.setStackDom m { d.stackDom m with cstate := 1 } else d) d
  let record := d.observe.nextLog
  let d := d.logPower 0x0C [3] true
  { s with dev := { d with power := { d.power with
      change := none, waiting := none, requests := [], warmDue := false, d0Idle := false
      failing := some { at_ := d.time, record := some record } } } }

/-- An assertion of PWR_WARN_N: before a cold start is over it stops the start. -/
def State.warned (s : State) : State :=
  let p := s.dev.power
  if !p.pwrgd || p.failing.isSome then s
  else if p.coldDue then { s with dev := { s.dev with power := { p with warnLow := true } } }
  else if !p.locked || !(p.stage = 7 || p.stage = 9) then s
  else s.powerFail

/-- PWR_WARN_N_ASSERT: PWR_WARN_N has been low for 300 SLOW cycles (R416). -/
def execPwrWarnNAssert (s : State) : Out := .next s.warned

/-- RAIL_UNDERVOLTAGE: treated as an assertion of PWR_WARN_N (R451). -/
def execRailUndervoltage (_rail : RailId) (s : State) : Out := .next s.warned

/-- What a flush writes (R416, R417, R441): up to 4,096 entries that end with the record of the sequence. A slot whose other is erased has
a SERIAL that the manual does not give. Assumption 90, DESIGN CHOICE. -/
def Device.flushSlot (d : Device) (f : PowerFail) (record : Nat) (good : Bool) : Device :=
  match d.power.slots.idxOf? none with
  | none => d
  | some k =>
    let es := (d.observe.log.filter fun (x : Nat × Bool × EventRec) => x.1 ≤ record).map fun (x : Nat × Bool × EventRec) => (x.2.1, x.2.2)
    let (serial, d) := match d.power.slots.getD (1 - k) none with
      | some o => ((o.serial + 1) % 2 ^ 64, d)
      | none => d.fresh
    let slot : FlushSlot := { time := f.at_, serial := serial, entries := es.drop (es.length - Config.flushEntries), good := good }
    { d with power := { d.power with slots := d.power.slots.set k (some slot) } }

/-- The device is in warm reset from now on; RESET_DONE ends it (R415, R421). -/
def Device.beginWarm (d : Device) (last : Nat) : Device :=
  { d with power := { d.power with stage := 9, warmDue := true, lastReset := last, coldCause := 0, resetAt := d.time } }

/-- A flush in progress stops and leaves a slot that fails its CRC (R451). -/
def Device.cutFlush (d : Device) : Device :=
  match d.power.failing with
  | some f => match f.record with
    | some r => d.flushSlot f r false
    | none => d
  | none => d

/-- POWER_FAIL_FLUSH_DONE: steps 2 and 3. A device that has tripped stays halted (R451); one out of lock flushes nothing (R22). -/
def execPowerFailFlushDone (warnHigh railsInRange : Bool) (s : State) : Out :=
  s.onDev fun d =>
    match d.power.failing with
    | some f =>
      match (if d.power.locked then f.record else none) with
      | some r =>
        let d := d.flushSlot f r true
        if warnHigh && railsInRange && !d.power.tripped then
          { d with power := { d.power with failing := none } }.beginWarm 3
        else { d with power := { d.power with failing := some { f with record := none } } }
      | none => d
    | none => d

/-- PWRGD_FALL: the device is held in reset; a flush in progress leaves a slot that fails its CRC (R450, R451). -/
def execPwrgdFall (s : State) : Out :=
  s.onDev fun d =>
    let d := d.cutFlush
    { d with power := { d.power with pwrgd := false, locked := false } }

/-! ### Fatal conditions (R59, R418, R451) -/

/-- Records of a fatal condition for the queue of every lot and the management queue. -/
def Device.fatalEvents (d : Device) (payload : Bytes) : Device :=
  let lots := (List.range Config.lots).filter fun t => t ≠ 0 && (d.lot t).valid
  (lots.foldl (fun d t => d.raiseLot srcFatal 3 t payload) d).raiseMgmt srcFatal 3 payload

/-- The command during which the condition arose gives E_FATAL_DEVICE. Assumption 94, DESIGN CHOICE. -/
def Device.fatalReply (d : Device) (e : Entry) : Device :=
  let d := d.failEntry e.id .eFatalDevice
  match d.entry e.id with
  | some e => (d.modEntry e.id fun x => { x with phase := .committed }).finalReply e
  | none => d

/-- The first command of a stream that has been dispatched and not committed. -/
def Device.runningOf (d : Device) (stream : Nat) : Option Entry :=
  (d.streamEntries stream).find? fun e => e.phase = .dispatched

/-- A fatal condition; `stream`: that of the command during which it arose. During the power-fail sequence it is only logged. -/
def Device.fatalCondition (d : Device) (stream : Option Nat) : Device :=
  let e := stream.bind d.runningOf
  let payload := match e with
    | some e => toLE 4 e.route ++ toLE 4 e.seq
    | none => []
  if !d.clocked || d.power.stage ≠ 7 then d
  else if d.power.failing.isSome then
    let s := d.source srcFatal
    let r : EventRec :=
      { source := srcFatal, kind := 3, dye := 0, srcSeq := s.count % 2 ^ 24, prio := d.prio srcFatal, time := d.time
        payload := fit 16 payload, queue := none }
    (d.setSource srcFatal { s with count := s.count + 1 }).logRecord r
  else
    let d := match e with
      | some e => d.fatalReply e
      | none => d
    let d := d.fatalEvents payload
    { d with power := { d.power with fatal := true } }.beginWarm 2

/-- FATAL_CONDITION. -/
def execFatalCondition (stream : Option StreamId) (s : State) : Out :=
  s.onDev fun d => d.fatalCondition (stream.map fun x => x.val)

/-- RAIL_OVERVOLTAGE: a fatal condition (R451). -/
def execRailOvervoltage (_rail : RailId) (s : State) : Out := s.onDev fun d => d.fatalCondition none

/-- THERMAL_TRIP: every clock but SLOW stops, and a POWER entry goes to the selvage log; the manual does not give its payload (R452). -/
def execThermalTrip (s : State) : Out :=
  s.onDev fun d =>
    if d.power.tripped then d
    else
      let (v, d) := d.fresh
      let d := d.logPower 0x0C (toLE 6 v) false
      { d with power := { d.power with tripped := true } }

/-! ### Loss of lock (R454) -/

/-- PLL_LOCK_LOSS: every clock stops, in BOOT_FAIL as well, and the selvage log records a BOOT entry with cause 0x10. A flush in progress
stops (assumption 93, DEDUCED). -/
def execPllLockLoss (s : State) : Out :=
  s.onDev fun d =>
    if !d.power.locked || !d.power.pwrgd || d.power.tripped then d
    else
      let d := d.cutFlush.logPower 0x24 (toLE 1 d.power.stage ++ [0x10]) false
      { d with power := { d.power with locked := false, lockLost := true } }

/-- PLL_LOCK_RETRY: once lock returns a cold reset follows. -/
def execPllLockRetry (locks : Bool) (s : State) : Out :=
  let p := s.dev.power
  if locks && p.lockLost && p.pwrgd && !p.tripped then .next (s.coldReset false 2) else .next s

/-! ### Warm reset (R64, R65, R415) -/

/-- The record of an entry when it returns to the journal for replay: what it gathered in its run is gone, but for the ordinal of a job-wide
command (R302). -/
def Entry.again (e : Entry) : Entry :=
  { id := e.id, lot := e.lot, queue := e.queue, stream := e.stream, seq := e.seq, op := e.op, packet := e.packet, args := e.args
    tbl := e.tbl, blockStatus := e.blockStatus, acceptedAt := e.acceptedAt, ordinal := e.ordinal, replayed := true }

/-- Whether an entry is replayed: not one that has committed, nor a close that has ended its stream. -/
def Entry.replays (e : Entry) : Bool := e.phase ≠ .committed && !(e.op = .streamClose && e.phase = .staged && e.status.good)

/-- Step 1: engines stop, staging is discarded, and the streams halted by a failure that is replayed run again. Assumption 95, DESIGN CHOICE. -/
def Device.stopWork (d : Device) : Device :=
  let again := d.journal.filter Entry.replays
  let runs (s : Stream) : Bool := s.haltedBy.any fun id => again.any fun e => e.id = id
  let d : Device := { d with
    links := { d.links with messages := [] }
    dma := d.dma.map fun (c : Nat × DmaChannel) => (c.1, { c.2 with
      slot := none, enabler := none, pendingBy := c.2.pendingBy.map fun _ => none })
    solver := { d.solver with
      solves := [], panels := []
      units := d.solver.units.map fun (u : Nat × SolverUnit) => (u.1, { u.2 with busy := false, entry := 0, scratch := none }) }
    mem := { d.mem with atomicOld := [], atomics := [] } }
  let d := again.foldl (fun d e => d.dropStaging e.id) d
  let d : Device := { d with
    journal := d.journal.map fun e => if e.replays then e.again else { e with replayed := true }
    streams := d.streams.map fun (s : Nat × Stream) => (s.1, if runs s.2 then { s.2 with haltedBy := none } else s.2)
    mem := { d.mem with scratch := [], structures := [], regions := [], lines := [] } }
  (d.releaseExtents (d.mem.moves.map fun (m : Move) => m.to_)).sweepOrphans

/-- Step 1 for the collector: the records it has accepted move to their rings or spills (R381). -/
def Device.flushCollector (d : Device) : Device :=
  let d := d.deliverAll
  let d := d.events.buffer.foldl (fun d r =>
    match r.queue with
    | some q => d.setEvq q { d.evq q with spill := (d.evq q).spill ++ [r] }
    | none => d) d
  { d with events := { d.events with buffer := [], consumers := [], last := 0xFFF } }

/-- Queues after a warm reset (R65): fetching waits for TAIL to be written again, and the replies of committed entries are redelivered.
HEAD stays past entries that were rejected after the last accepted one, since each of them has had its one reply (R57); R65 names only the
accepted ones (assumption 131, DESIGN CHOICE). -/
def SubQueue.warm (v : SubQueue) : SubQueue :=
  { v with
    rung := false, paused := false, stalled := 0, unsettled := none
    replies := v.replies.map fun r => if r.entry.isSome && !r.interim && !r.rejected then { r with redelivered := true } else r }

/-- Power states after a warm reset: units that were not disabled are awake; requests of commands are made again by their replay. -/
def Domain.warm (v : Domain) : Domain :=
  { v with cstate := if v.state = .disabled then v.cstate else 0, enabler := none, pendingBy := v.pendingBy.map fun _ => none }

/-- Step 2: every dirty line of the shared cache is written back (R214, R415). -/
def Device.writeBackAll (d : Device) : Device :=
  let d := ((d.mem.cache.filter fun l => l.2.dirty).map fun l => l.1).foldl (fun d k => d.evict k 1) d
  { d with mem := { d.mem with cache := d.mem.cache.map fun (l : Nat × CacheLine) => (l.1, { l.2 with dirty := false, bad := false }) } }

/-- Steps 1, 2, 3 and 5 on the device. -/
def Device.warmState (d : Device) : Device :=
  let d := d.stopWork.flushCollector.writeBackAll
  let d : Device := { d with
    queues := d.queues.map fun (q : Nat × SubQueue) => (q.1, q.2.warm)
    mem := { d.mem with moves := [] }
    hosts := { d.hosts with
      install := none, lots := d.hosts.lots.map fun (l : Nat × LotState) => (l.1, { l.2 with creating := none }) }
    links := { d.links with
      ports := d.links.ports.map fun (p : Nat × Port) => (p.1, { p.2 with enabler := none, pendingBy := p.2.pendingBy.map fun _ => none }) }
    power := { d.power with
      clusters := d.power.clusters.map fun (c : Nat × Domain) => (c.1, c.2.warm)
      cores := d.power.cores.map fun (c : Nat × Domain) => (c.1, c.2.warm)
      stackDoms := d.power.stackDoms.map fun (c : Nat × Domain) => (c.1, c.2.warm)
      d0Idle := false, timerWake := false, idleSince := d.time } }
  (List.range Config.ports).foldl (fun d p => if (d.port p).lstate = 4 then d.leaveActive p fun v => v.train 3 else d) d

/-- The RESET_DONE event, to every lot's queue and the management queue (R65, R384). Assumption 91, DESIGN CHOICE. -/
def Device.resetDone (d : Device) : Device :=
  let payload := toLE 8 d.power.resetAt
  let lots := (List.range Config.lots).filter fun t => t ≠ 0 && (d.lot t).valid
  (lots.foldl (fun d t => d.raiseLot srcPower 4 t payload) d).raiseMgmt srcPower 4 payload

/-- The record of a COMMITTED entry is uncorrectable: its missing final reply is E_JOURNAL_LOST, and its stream halts (R58, R64). -/
def Device.loseReply (d : Device) (e : Entry) : Device :=
  let v := d.queue e.lot e.queue
  let lose (r : Reply) : Reply :=
    if r.entry = some e.id then { r with status := .eJournalLost, quiet := false, result0 := 0, result1 := 0, time := d.time } else r
  let s := d.stream e.stream
  let d := d.setQueue e.lot e.queue { v with replies := v.replies.map lose }
  if e.op = .streamClose then d else d.setStream e.stream { s with haltedBy := some e.id }

/-- The codewords that hold the record of a journal entry: in the SYSTEM extents, from a place that the manual leaves open (R60, R214; assumption
145, DESIGN CHOICE). -/
def Device.journalWords (d : Device) (e : Entry) : List Nat :=
  let xs := (d.mem.owners.filter fun o => o.2 = .system).map fun o => o.1
  (List.range (ceilDiv (64 + e.args.length + e.tbl.length) 64)).map fun k => physAddr xs (64 * ((Config.journalPlace e.id + k) % 2 ^ 23))

/-- Whether the journal record of an entry is uncorrectable (R64, R214). -/
def Device.journalLost (d : Device) (e : Entry) : Bool := (d.journalWords e).any fun a => d.mem.poison.contains a

/-- Steps 4, 6 and 7. -/
def Device.warmEnd (d : Device) (i : WarmResetInput) : Device :=
  match chooseImage (if d.power.fallback then 1 - d.power.image else d.power.image) i.imageA i.imageB with
  | none => d.bootFail 4
  | some (image, fallback) =>
    let d := d.failUnits i.badClusters i.badCores
    let d := { d with power := { d.power with image := image, fallback := fallback, stage := 7, warmDue := false, fatal := false } }
    let d := (d.journal.filter d.journalLost).foldl (fun d e =>
      if e.phase = .committed then d.loseReply e else d.failEntry e.id .eJournalLost) d
    ((d.passReset 3 fun _ => true).passReset 4 fun _ => true).resetDone

/-- WARM_RESET. -/
def execWarmReset (input : WarmResetInput) (s : State) : Out :=
  let p := s.dev.power
  if !p.warmDue || !s.dev.clocked || p.failing.isSome then .next s
  else if input.warnDuring then .next s.powerFail
  else if !input.writeBackOk || input.fatalReplay then .next (s.coldReset false 1)
  else .next { s with dev := s.dev.warmState.warmEnd input, eng := {} }

/-! ### PWR_RESET (R421) -/

/-- Whether a function may write PWR_RESET: the management function, and in BOOT_FAIL, where no function holds that role, any physical
function that answers (R413, R421). Assumption 92, DEDUCED. -/
def Device.resets (d : Device) (f : Fn) : Bool :=
  (d.barOpen f && d.isMgmt f) || (d.power.stage = 0xF && f.vf.isNone && d.clocked && (d.attachment f.attach).link ≠ 0)

/-- A write of PWR_RESET with its key: COLD wins over WARM. -/
def State.pwrReset (s : State) (f : Fn) (v : Nat) : State :=
  if !s.dev.resets f || field v 31 16 ≠ 0xB007 then s
  else if v.testBit 1 then s.coldReset false 0
  else if v.testBit 0 && s.dev.power.stage = 7 && s.dev.power.failing.isNone then { s with dev := s.dev.beginWarm 3 }
  else s

/-- PWR_RESET_COLD. -/
def execPwrResetCold (fn : Fn) (value : BitVec 32) (s : State) : Out := .next ({ s with dev := s.dev.dropLatch fn }.pwrReset fn value.toNat)

/-- PWR_RESET_WARM. -/
def execPwrResetWarm (fn : Fn) (value : BitVec 32) (s : State) : Out := .next ({ s with dev := s.dev.dropLatch fn }.pwrReset fn value.toNat)

end Sys2Proof.Machine
end

