-- ==== Sys2Proof/Machine/Hosts.lean ====
section
/-!
DEFINITION. Attaching and detaching hosts (R351 to R359), IDE, SPDM and TDISP (R374 to R376), and the sideband interfaces: MCTP on I3C and boundary
scan (R456, R458).
-/
namespace Sys2Proof.Machine

/-! ### PWR_STATE and PWR_BOOT (R421) -/

/-- A mask of the stacks that a test accepts. -/
def Device.stackMask (d : Device) (f : Domain → Bool) : Nat :=
  ((List.range Config.memStacks).map fun m => if f (d.stackDom m) then 2 ^ m else 0).sum

/-- PWR_STATE. PENDING is the request that is held, else that of the change in progress. Assumption 84, DESIGN CHOICE. -/
def Device.pwrState (d : Device) : Nat :=
  let p := d.power
  let pending := match p.waiting, p.change with
    | some t, _ => t
    | none, some c => c.target
    | none, none => p.pstate
  b2n p.d0Idle * 2 ^ 31 + p.pstate * 2 ^ 28 + pending * 2 ^ 26 + d.stackMask fun v => v.state = .enabled && v.cstate = 1

/-- PWR_BOOT. -/
def Device.pwrBoot (d : Device) : Nat :=
  let p := d.power
  p.stage * 2 ^ 28 + p.image * 2 ^ 27 + b2n p.fallback * 2 ^ 26 + p.lastReset * 2 ^ 24
    + (if p.lastReset = 1 then p.coldCause * 2 ^ 22 else 0) + d.stackMask fun v => v.faulty

/-! ### Attach (R354, R356, R360) -/

/-- The lots that an attachment hosts, lot 0 among them where it holds the management role. -/
def Device.hostedLots (d : Device) (a : Nat) : List Nat :=
  (List.range Config.lots).filter fun t => (d.lot t).valid && d.hosting t = some a

/-- Whether the sub-port of an attachment trains: the board record provides it, and step 2 of cold start has been reached (R351, R413). -/
def Device.subPortOn (d : Device) (a : Nat) : Bool := d.clocked && 2 ≤ d.power.stage && splitProvides d.hosts.splits a

/-- Step 1: a link forms, with a HOST event of code 4. -/
def Device.linkUp (d : Device) (a : Nat) (link : Option LinkFormed) : Device :=
  let v := d.attachment a
  match link with
  | some l =>
    if d.subPortOn a && v.perst && v.link = 0 then
      (d.setAttachment a { v with link := 1, d3hot := false, speed := l.speed, width := l.width, flit := l.flit }).hostEvent a 4
    else d
  | none => d

/-- PERST_N_RELEASE. -/
def execPerstNRelease (attach : AttachId) (link : Option LinkFormed) (s : State) : Out :=
  s.onDev fun d =>
    let d := d.setAttachment attach { d.attachment attach with perst := true }
    if d.clocked then d.linkUp attach link else d

/-- HOST_LINK_RETRY: while no link forms, the sub-port retries every 1 s. -/
def execHostLinkRetry (attach : AttachId) (link : Option LinkFormed) (s : State) : Out := s.onClocked fun d => d.linkUp attach link

/-- Whether a function answers an access at all: a physical one as soon as its link is up, a virtual one while its lot is reached (R354,
R355, R358, R359). -/
def Device.answers (d : Device) (f : Fn) : Bool :=
  match f.vf with
  | none => d.clocked && (d.attachment f.attach).link ≠ 0 && !(d.attachment f.attach).d3hot && !d.inFlr f
  | some _ => d.barOpen f

/-- A write of SEC_HELLO: HOST_VER, and with START the handshake of a physical function begins (R354, step 3; R378). -/
def Device.hello (d : Device) (f : Fn) (ver : Nat) (start : Bool) : Device :=
  if !d.answers f then d
  else
    match f.vf with
    | none =>
      let v := d.attachment f.attach
      d.setAttachment f.attach { v with hostVer := ver, started := if start && v.link = 1 then some d.time else v.started }
    | some _ =>
      let old := Tab.look (0, 0) d.hosts.vfSec f.key
      { d with hosts := { d.hosts with vfSec := Tab.put (0, 0) (ver, old.2) d.hosts.vfSec f.key } }

/-- SEC_HELLO_START. -/
def execSecHelloStart (fn : Fn) (hostVer : BitVec 8) (s : State) : Out := s.onAccess fn fun d => d.hello fn hostVer.toNat true

/-- DEV_VER (R378). -/
def devVer : Nat := 1

/-- What an attachment brings back when it is ATTACHED: held event records go to the rings, and unconsumed ones are signalled (R356,
R390). -/
def Device.hostBack (d : Device) (a : Nat) : Device :=
  ((d.hostedLots a).foldl (fun d t => (d.drainSpill t).resignal t) d).deliverAll

/-- ATTACH_READY: the device sets READY; where the major versions differ, REFUSED as well. At cold start the role goes to the board record's
attachment when it gets here (R354, R360). -/
def execAttachReady (attach : AttachId) (s : State) : Out :=
  s.onDev fun d =>
    let v := d.attachment attach
    if v.link ≠ 1 || v.started.isNone || !d.clocked || d.power.stage ≠ 7 then d
    else if v.hostVer ≠ devVer then
      (d.setAttachment attach { v with link := 3, ready := true, refused := true, started := none }).hostEvent attach 3
    else
      let d := d.setAttachment attach { v with link := 2, ready := true, started := none, detachedAt := none }
      let first := d.hosts.holder.isNone && !d.hosts.installed && d.hosts.boardMgmt = attach.val
      let d := if first then { d with hosts := { d.hosts with holder := some attach.val } } else d
      (d.hostEvent attach 0).hostBack attach

/-! ### Detach (R355, R357, R358) -/

/-- The effects of a detach of an attachment that is not DETACHED. `keep`: the attachment as it is afterwards. -/
def Device.detach (d : Device) (a : Nat) (keep : Attachment) : Device :=
  let d := (d.hostedLots a).foldl Device.closeHostQueues d
  let d := d.modHostRings 0 fun v => { v with replyHold := v.replyHold || v.ringHost = some a }
  let d := d.setAttachment a { keep with detachedAt := some d.time, ideFaults := (d.attachment a).ideFaults }
  ((d.hostedLots a).foldl Device.holdAll d).hostEvent a 1

/-- HOST_DETACH. -/
def execHostDetach (attach : AttachId) (cause : DetachCause) (s : State) : Out :=
  s.onDev fun d =>
    let v := d.attachment attach
    let perst := v.perst && cause ≠ .perst
    if v.link = 0 || !d.clocked then d.setAttachment attach { v with perst := perst }
    else d.detach attach { perst := perst, d3hot := v.d3hot }

/-- D3HOT_ENTRY: of a physical function as a detach, of a VF on its lot's queues only (R358). -/
def execD3hotEntry (fn : Fn) (s : State) : Out :=
  s.onClocked fun d =>
    let v := d.attachment fn.attach
    if v.link = 0 then d
    else
      match fn.vf with
      | none => d.detach fn.attach { perst := v.perst, d3hot := true }
      | some l => if (d.hostedLots fn.attach).contains l.val then (d.closeHostQueues l).holdAll l else d

/-- STANDBY_TAKEOVER: 10 ms after the detach of the holder, the role moves to a standby that is ATTACHED (R357). Assumption 97, DESIGN CHOICE. -/
def execStandbyTakeover (s : State) : Out :=
  s.onClocked fun d =>
    match d.hosts.holder, d.hosts.standby with
    | some h, some n =>
      match (d.attachment h).detachedAt with
      | some t => if !d.attached h && t + 1000000 ≤ d.time && d.attached n then d.moveRole n else d
      | none => d
    | _, _ => d

/-! ### Function-level reset (R359) -/

/-- Lots that a function-level reset acts on. Assumption 100, DESIGN CHOICE. -/
def Device.flrLots (d : Device) (f : Fn) : List Nat :=
  match f.vf with
  | none => d.hostedLots f.attach
  | some l => (d.hostedLots f.attach).filter fun t => t = l.val && t ≠ 0

/-- FUNCTION_LEVEL_RESET: its effects hold at once; the function answers again after 100 ms. -/
def execFunctionLevelReset (fn : Fn) (s : State) : Out :=
  s.onClocked fun d =>
    let lots := d.flrLots fn
    let d := lots.foldl (fun (d : Device) t => (d.closeQueues t).setEvq t { d.evq t with kindMask := 0, threshold := 0 }) d
    { d with hosts := { d.hosts with flr := Tab.insert (d.time + 10000000) d.hosts.flr fn.key } }

/-! ### SPDM, IDE and TDISP (R374 to R376) -/

/-- An answer leaves the device. -/
def Device.answer (d : Device) (a : Answer) : Device := { d with hosts := { d.hosts with answers := d.hosts.answers ++ [a] } }

/-- SPDM_REQUEST over the DOE mailbox of a physical function: up to 4 secured sessions (R374). -/
def execSpdmRequest (attach : AttachId) (kind : SpdmKind) (request : Bytes) (s : State) : Out :=
  s.onDev fun d =>
    let v := d.attachment attach
    if v.link = 0 || !d.clocked then d
    else
      let n := match kind with
        | .openSession => min 4 (v.sessions + 1)
        | .closeSession => v.sessions - 1
        | _ => v.sessions
      (d.setAttachment attach { v with sessions := n }).answer (.spdm (some attach.val) (Config.spdmAnswer request))

/-- IDE_KM_KEY_PROGRAM: inside a secured session of the attachment, an IDE stream enters the secure state (R375). -/
def execIdeKmKeyProgram (attach : AttachId) (stream : Fin 5) (s : State) : Out :=
  s.onClocked fun d =>
    let v := d.attachment attach
    if v.link = 0 || v.sessions = 0 || v.secure.contains stream.val then d
    else d.setAttachment attach { v with secure := v.secure ++ [stream.val] }

/-- IDE_STREAM_INSECURE: a stream leaves the secure state, with the effect of a detach on the lots that require IDE; `integrity`: after a failed
integrity check (R375, R378). Assumption 98, DESIGN CHOICE. -/
def execIdeStreamInsecure (attach : AttachId) (stream : Fin 5) (integrity : Bool) (s : State) : Out :=
  s.onClocked fun d =>
    let v := d.attachment attach
    if !v.secure.contains stream.val then d
    else
      let d := d.setAttachment attach { v with
        secure := v.secure.filter (· ≠ stream.val), ideFaults := satAdd 0xFFFF v.ideFaults (b2n integrity) }
      let d := if integrity then (List.range Config.lots).foldl (fun (d : Device) t =>
          let k := attach.val * 65 + t + 1
          let (ver, n) := Tab.look (0, 0) d.hosts.vfSec k
          { d with hosts := { d.hosts with vfSec := Tab.put (0, 0) (ver, satAdd 0xFFFF n 1) d.hosts.vfSec k } }) d else d
      ((d.hostedLots attach).filter fun t => (d.lot t).ideRequired).foldl (fun d t => (d.closeHostQueues t).holdAll t) d

/-- TDISP_REQUEST: LOCK and START of a lot's interface (R376). Assumption 106, DESIGN CHOICE. -/
def execTdispRequest (lot : Lot) (message : Tdisp) (s : State) : Out :=
  s.onClocked fun d =>
    let l := d.lotState lot
    if lot.val = 0 || d.lotDom lot ≠ .enabled then d
    else
      match message, l.tdi with
      | .lock, 0 => d.setLotState lot { l with tdi := 1 }
      | .start, 1 => d.setLotState lot { l with tdi := 2 }
      | _, _ => d

/-- STOP_INTERFACE: the interface is CONFIG_UNLOCKED and the lot's queues lose ENABLE (R376). -/
def execStopInterface (lot : Lot) (s : State) : Out :=
  s.onClocked fun d =>
    if lot.val = 0 || d.lotDom lot ≠ .enabled then d
    else (d.closeQueues lot).setLotState lot { d.lotState lot with tdi := 0 }

/-! ### MCTP and boundary scan (R456, R458) -/

/-- MCTP_MESSAGE: I3C answers from step 2 of cold start onward, and in BOOT_FAIL. -/
def execMctpMessage (message : Mctp) (s : State) : Out :=
  s.onDev fun d =>
    if !d.clocked || d.power.stage < 2 then d
    else
      match message with
      | .control => d.answer .control
      | .spdm b => d.answer (.spdm none (Config.spdmAnswer b))
      | .vendorRead ts =>
        d.answer (.vendor ts ((List.range Config.rails).map fun k => Tab.look 0 d.power.rails k) d.pwrState d.pwrBoot)

/-- Instructions that drive lands from the scan chain. -/
def Jtag.drives : Jtag → Bool
  | .extest | .clamp | .highz | .extestPulse | .extestTrain => true
  | _ => false

/-- IDCODE: stepping number, 0x2816, manufacturer code, and 1. Assumption 101, PRESUMED. -/
def idcode : Nat := 2 ^ 28 + 0x2816 * 2 ^ 12 + Config.manufacturerCode % 2 ^ 11 * 2 + 1

/-- JTAG_INSTRUCTION: while an attachment is ATTACHED, an instruction that drives lands acts as BYPASS; the private one is the halt request of
R403. -/
def execJtagInstruction (instruction : Jtag) (s : State) : Out :=
  let d := s.dev
  let busy := (List.range Config.attachments).any d.attached
  let i := if instruction.drives && busy then .bypass else instruction
  let d := { d with hosts := { d.hosts with scan := i } }
  let s := { s with dev := if i = .idcode then d.answer (.idcode idcode) else d }
  match i with
  | .halt core => .next (if d.clocked then s.wakeUnit (.core core) .scanHalt else s)
  | _ => .next s

end Sys2Proof.Machine
end

