-- ==== Sys2Proof/Machine/Observe.lean ====
section
/-!
DEFINITION. Performance counters and dumps (R422 to R429), conservation ledgers (R436 to R438), and SELVAGE_READ (R440, R442).
-/
namespace Sys2Proof.Machine

/-! ### PMON_CONFIG (R423) -/

/-- Whether SELECT names a core event (R424). -/
def coreSelectOk (v : Nat) : Bool := v < 1024 && (v ≤ 0x00F || (0x020 ≤ v && v ≤ 0x029))

/-- Whether SELECT names a cluster event with a qualifier of its table (R425). -/
def clusterSelectOk (v : Nat) : Bool :=
  let e := v % 1024
  let q := field v 15 11
  0x100 ≤ e && e ≤ 0x113 && (if e = 0x106 || e = 0x107 then q < 20 else if 0x111 ≤ e then q < 24 else q = 0)

/-- Whether a PMON_CONFIG is about cluster counters. A release is where its SELECT names a cluster event (assumption 33, DESIGN CHOICE). -/
def Entry.ofClusters (e : Entry) : Bool :=
  e.param 16 1 = 1 || (e.param 16 1 = 2 && 0x100 ≤ e.param 24 4 % 1024)

/-- The keys of the counters in the range of a PMON_CONFIG. -/
def Entry.counterKeys (e : Entry) : List Nat :=
  let lo := e.param 18 2
  let per := if e.ofClusters then 16 else 8
  (List.range (e.param 20 2 + 1 - lo)).map fun i => per * (lo + i) + e.param 22 1

/-- The counters of cores or of clusters. -/
def Device.counters (d : Device) (clusters : Bool) : Table Counter := if clusters then d.observe.clusters else d.observe.cores

/-- PMON_CONFIG. -/
def pmonConfigBody (e : Entry) (d : Device) : Res (Nat × Nat × Device) := do
  let action := e.param 16 1
  let flags := e.param 17 1
  check (action ≤ 4) .eParam d
  if action ≤ 2 then
    let c := e.ofClusters
    check (e.param 18 2 ≤ e.param 20 2 && e.param 20 2 < (if c then Config.clusters else Config.cores)
      && e.param 22 1 < (if c then 16 else 8)) .eParam d
    check (flags.testBit 0 || e.counterKeys.all fun k =>
      match (Tab.look {} (d.counters c) k).owner with
      | some o => o = e.lot
      | none => true) .ePermission d
    check (e.lot = 0 || flags % 4 = 0) .ePermission d
    check (if action = 2 then c || e.param 24 4 < 2 ^ 10 else if c then clusterSelectOk (e.param 24 4) else coreSelectOk (e.param 24 4))
      .eParam d
    pure (0, 0, d)
  else
    check (e.lot = 0 || flags % 4 = 0) .ePermission d
    if action = 3 then
      let (_, t) ← d.find e (e.param 28 4)
      check (t.fmt = .uint8 && 2 * 53312 ≤ t.count && 1 ≤ e.param 32 4 && e.param 32 4 ≤ 1000) .eParam d
      pure (0, 0, d)
    else pure (0, 0, d)

/-- The commit of a PMON_CONFIG. -/
def commitPmon (e : Entry) (d : Device) : Device :=
  let action := e.param 16 1
  let flags := e.param 17 1
  if action ≤ 2 then
    let t := e.counterKeys.foldl (fun (t : Table Counter) k =>
      let old := Tab.look {} t k
      let new : Counter := if action = 2 then {} else
        { value := if flags.testBit 2 then 0 else old.value, owner := some e.lot, any := flags.testBit 1, sel := e.param 24 4 }
      Tab.put {} new t k) (d.counters e.ofClusters)
    if e.ofClusters then { d with observe := { d.observe with clusters := t } } else { d with observe := { d.observe with cores := t } }
  else
    let old := Tab.look {} d.observe.dumps e.lot
    let new : Dump := if action = 3 then
        { running := true, ring := tensorKeyOf e.lot (e.param 28 4 % 2 ^ 24), period := e.param 32 4, sticky := old.sticky }
      else { old with running := false }
    { d with observe := { d.observe with dumps := Tab.put {} new d.observe.dumps e.lot } }

/-- PMON_CONFIG. -/
def execPmonConfig (stream : StreamId) (s : State) : Out := s.onDev fun d => d.runOp stream .pmonConfig pmonConfigBody

/-! ### Counts that depend on time (R422, R424 to R427) -/

/-- The key of a top-down total: lot, core, and 4·slot + class. -/
def topdownKey (lot core i : Nat) : Nat := (lot * 256 + core) * 16 + i

/-- Core events whose counts the model leaves free: they count cycles, or steps of an engine's work that the model does not follow. -/
def freeCoreEvents : List Nat := [0x003, 0x004, 0x007, 0x00B, 0x00E]

/-- At a kernel boundary: the cycles of the kernel and the counts that depend on them are free; the four classes of each slot sum to 64 units
a cycle, and the core adds them to the totals of its lot (R426, R427). Assumption 103, DESIGN CHOICE. -/
def Device.kernelCounts (d : Device) (core lot : Nat) : Device :=
  let (cycles, d) := d.fresh
  let d := d.countCore core 0x000 lot cycles
  let d := freeCoreEvents.foldl (fun (d : Device) ev =>
    let (n, d) := d.fresh
    d.countCore core ev lot n) d
  (List.range 4).foldl (fun (d : Device) slot =>
    let total := 64 * cycles
    let (a, d) := d.fresh
    let (b, d) := d.fresh
    let (c, d) := d.fresh
    let a := a % (total + 1)
    let b := b % (total - a + 1)
    let c := c % (total - a - b + 1)
    [a, b, c, total - a - b - c].zipIdx.foldl (fun (d : Device) x =>
      let k := topdownKey lot core (4 * slot + x.2)
      { d with observe := { d.observe with
          topdown := Tab.put 0 ((Tab.look 0 d.observe.topdown k + x.1) % 2 ^ 64) d.observe.topdown k } }) d) d

/-- Cluster events that hold for a number of cycles, or whose occurrences the model does not follow. -/
def freeClusterEvents : List Nat := [0x104, 0x105, 0x107, 0x109, 0x10A, 0x111, 0x112, 0x113]

/-- What a tick adds to the counters of such events is free. -/
def Device.tickCounters (d : Device) : Device :=
  (d.observe.clusters.filter fun e => e.2.owner.isSome && freeClusterEvents.contains (e.2.sel % 1024)).foldl (fun d e =>
    let (n, d) := d.fresh
    let c := Tab.look {} d.observe.clusters e.1
    { d with observe := { d.observe with
        clusters := Tab.put {} { c with value := (c.value + n) % 2 ^ 64 } d.observe.clusters e.1 } }) d

/-- A counter as a lot reads it (R12, R422). -/
def Counter.seenBy (c : Counter) (lot : Nat) : Nat := if c.owner = some lot then c.value else 0

/-- A top-down total of a core as a lot reads it. -/
def Device.topdownOf (d : Device) (lot core i : Nat) : Nat := Tab.look 0 d.observe.topdown (topdownKey lot core i)

/-! ### DUMP_TICK (R428, R429) -/

/-- Bytes of a dump record. -/
def dumpBytes : Nat := 53312

/-- The section of a unit in a record: its offset and its bytes. -/
def dumpSection (unit : Nat) : Nat × Nat := if unit < 256 then (64 + 192 * unit, 192) else (49216 + 128 * (unit - 256), 128)

/-- The section of a unit as it samples its counters. -/
def Device.sampleUnit (d : Device) (lot unit : Nat) : Bytes :=
  if unit < 256 then
    ((List.range 8).flatMap fun k => toLE 8 ((Tab.look {} d.observe.cores (8 * unit + k)).seenBy lot))
      ++ (List.range 16).flatMap fun i => toLE 8 (d.topdownOf lot unit i)
  else (List.range 16).flatMap fun k => toLE 8 ((Tab.look {} d.observe.clusters (16 * (unit - 256) + k)).seenBy lot)

/-- A dump record. A unit whose tick was lost keeps its section of the record before. Assumption 102, DEDUCED. -/
def Device.dumpRecord (d : Device) (lot : Nat) (v : Dump) (seq : Nat) (lost : List Nat) : Bytes :=
  let stale := ((List.range 288).map fun u => if lost.contains u then 2 ^ u else 0).sum
  let units := (List.range 288).flatMap fun u =>
    let (off, n) := dumpSection u
    if lost.contains u then fit n ((v.last.drop off).take n) else d.sampleUnit lot u
  toLE 8 seq ++ toLE 8 d.time ++ toLE 4 v.period ++ toLE 1 lot ++ toLE 1 (b2n v.overrun) ++ zeros 2 ++ toLE 36 stale ++ zeros 4 ++ units

/-- One dump tick of a lot. Whether the record before has been fully written is free: its time is not given. -/
def Device.dumpTick (d : Device) (lot : Nat) (lost : List Nat) : Device :=
  let v := Tab.look {} d.observe.dumps lot
  let put (d : Device) (v : Dump) : Device := { d with observe := { d.observe with dumps := Tab.put {} v d.observe.dumps lot } }
  let seq := v.seq + 1
  match d.tensor v.ring with
  | none => put d { v with running := false }
  | some t =>
    let (late, d) := d.fresh
    if v.last ≠ [] && late % 2 = 1 then put d { v with seq := seq, overrun := true, sticky := true }
    else
      let b := d.dumpRecord lot v seq lost
      let off := dumpBytes * (seq % (t.count / dumpBytes))
      let d := d.writeCommitted t off b lot 3
      put d { v with seq := seq, overrun := false, lastSeq := seq, offset := off, last := b }

/-- DUMP_TICK: TIME is a multiple of the period of a lot's dump. The dump-tick edge wake brings the units that did not lose it out of C2
(R403); a unit loses it where it is entering C2 or C3, which counts (R404). -/
def execDumpTick (lot : Lot) (lostUnits : List Nat) (s : State) : Out :=
  let v := Tab.look {} s.dev.observe.dumps lot
  if !s.dev.running || !v.running || s.dev.time % (100 * v.period) ≠ 0 then .next s
  else
    let before := s.dev.power.lostTicks
    let new := lostUnits.eraseDups.filter fun u => s.dev.unitAsleep u && !before.contains (u, s.dev.time)
    let s := new.foldl (fun s u => s.loseTick u) s
    let lost := (s.dev.power.lostTicks.filter fun u => u.2 = s.dev.time).map fun u => u.1
    let s := (List.finRange Config.clusters).foldl (fun s c =>
      if lost.contains (256 + c.val) then s else s.wakeUnit (.cluster c) .dumpTick) s
    let s := (List.finRange Config.cores).foldl (fun s n =>
      if lost.contains n.val then s else s.wakeUnit (.core n) .dumpTick) s
    .next { s with dev := s.dev.dumpTick lot lost }

/-! ### Ledgers (R436 to R438) -/

/-- Instances of each ledger: VCs of ports, lots in slices, the device and its lots, sources, queues, and the RETHREAD in progress. -/
def ledgerInstances (g : Nat) : Nat := [768, 2048, 65, 0x457, 64, 1].getD g 0

/-- A WATCH event about a ledger instance, and its selvage entry (R434, R439). Assumption 105, DESIGN CHOICE. -/
def Device.ledgerEvent (d : Device) (g inst kind : Nat) : Device :=
  (d.raiseMgmt srcWatch 0x0D (zeros 4 ++ toLE 1 (5 + kind) ++ toLE 1 g ++ toLE 2 inst)).raiseSelvage srcWatch 0x23 0
    (toLE 1 g ++ toLE 1 kind ++ toLE 2 inst)

/-- LEDGER_SRAM_ERROR: a single-bit error is corrected, a double-bit error makes its instance VOID (R437). -/
def execLedgerSramError (ledger : Fin 6) (inst : Nat) (double : Bool) (s : State) : Out :=
  s.onClocked fun d =>
      let o := d.observe
      if ledgerInstances ledger ≤ inst then d
      else if !double then { d with observe := { o with ledCorr := satAdd 0xFFFF o.ledCorr 1 } }
      else
        { d with observe := { o with
            ledUncorr := satAdd 0xFFFF o.ledUncorr 1 } }.voidLedger ledger inst |>.ledgerEvent ledger inst 0

/-- A finding of an audit: the totals of a VOID instance are not given. Assumption 104, DESIGN CHOICE. -/
def finding (d : Device) (v : Nat × Nat) : Bytes × Device :=
  let (a, d) := d.fresh
  let (b, d) := d.fresh
  (toLE 1 v.1 ++ [1] ++ toLE 2 v.2 ++ zeros 4 ++ toLE 4 a ++ toLE 4 b, d)

/-- LEDGER_AUDIT: instances that have passed their reset point are consistent again. The invariants hold at every instant (R437), so no
instance that is not VOID fails. -/
def ledgerAuditBody (e : Entry) (d : Device) : Res (Nat × Nat × Device) := do
  let mask := e.param 16 1
  let handle := e.param 20 4
  let (space, d) ← if handle = 0 then pure (0, d) else (do
    let (key, t) ← d.find e handle
    check (t.fmt = .uint8) .eParam d
    pure (t.count / 16, ← d.claim e [(key, 0, t.count)]))
  let beyond (v : Nat × Nat) : Bool := mask.testBit v.1 && d.observe.resetPoint.contains v
  let d := { d with observe := { d.observe with
    voids := d.observe.voids.filter fun v => !beyond v, resetPoint := d.observe.resetPoint.filter fun v => !beyond v } }
  let found := (List.range 6).flatMap fun g => d.observe.voids.filter fun v => v.1 = g && mask.testBit g
  let r0 := ((List.range 6).map fun g => if found.any fun v => v.1 = g then 2 ^ (8 + g) else 0).sum
  let (bytes, d) := (found.take space).foldl (fun (acc : Bytes × Device) v =>
    let (b, d) := finding acc.2 v
    (acc.1 ++ b, d)) ([], d)
  let d ← if bytes = [] then pure d else do
    let (key, _) ← d.find e handle
    d.putTensor e key 0 bytes
  pure (r0, found.length, d)

/-- The commit of a LEDGER_AUDIT: LAST of each audited ledger (R445). -/
def commitAudit (e : Entry) (d : Device) : Device :=
  (List.range 6).foldl (fun d g =>
    if (e.param 16 1).testBit g then
      { d with observe := { d.observe with
          lastAudit := Tab.put 0 (if e.result0.testBit (8 + g) then 3 else 1) d.observe.lastAudit g } }
    else d) d

/-- LEDGER_AUDIT. -/
def execLedgerAudit (stream : StreamId) (s : State) : Out := s.onDev fun d => d.runOp stream .ledgerAudit ledgerAuditBody

/-! ### SELVAGE_READ (R440, R442) -/

/-- The kept flush slot. -/
def Power.keptFlush (p : Power) : Option FlushSlot := p.kept.bind fun k => p.slots.getD k none

/-- The entries that a read copies, in order, with RESULT1. `held`: the oldest entry of the live log and the next sequence at the command's
dispatch; an entry overwritten since then ends the copy before it. -/
def Device.selvageEntries (d : Device) (source from_ count : Nat) (held : Nat × Nat) : Option (List (Bool × EventRec) × Nat) :=
  if source = 0 then
    let o := d.observe
    let start := max from_ held.1
    let es := o.log.filter fun (x : Nat × Bool × EventRec) => start ≤ x.1 && x.1 < min (from_ + count) held.2
    some (if start < o.nextLog - o.log.length then [] else es.map fun (x : Nat × Bool × EventRec) => (x.2.1, x.2.2), start)
  else d.power.keptFlush.map fun s => ((s.entries.drop from_).take count, s.serial)

/-- SELVAGE_READ. -/
def selvageReadBody (e : Entry) (d : Device) : Res (Nat × Nat × Device) := do
  let count := e.param 32 4
  let dest := e.param 40 8
  let host := (e.param 48 1).testBit 0
  check (e.param 16 1 ≤ 1 && 1 ≤ count && count ≤ 65536) .eParam d
  check (dest % 64 = 0) .eAlign d
  let (es, r1) ← need (d.selvageEntries (e.param 16 1) (e.param 24 8) count e.logAt) .eParam d
  let d ← if host then do
      check (d.hostReachable e.lot) .ePermission d
      pure d
    else do
      let d ← d.needAddr (srcLot e.lot) e.lot dest 32
      check (match d.tensorAt e.lot (dest / Config.extentBytes) with
        | some (_, t) => 32 * count ≤ t.size
        | none => true) .eParam d
      d.needAddr (srcLot e.lot) e.lot dest (32 * count)
  let bytes := es.flatMap fun x => x.2.bytes x.1
  let d ← if bytes = [] then pure d else d.writePlane e host dest bytes
  pure (es.length, r1, d)

/-- SELVAGE_READ. -/
def execSelvageRead (stream : StreamId) (s : State) : Out := s.onDev fun d => d.runOp stream .selvageRead selvageReadBody

end Sys2Proof.Machine
end

