-- ==== Sys2Proof/Machine/Registers.lean ====
section
/-!
DEFINITION. The registers of BAR0: where each lies (R10), what it reads as, which function sees it (R12, R13), what a read clears (R7) and
what a write does (R4, R8): IDENT, CMDQ, EVQ, DMA, PWR, PMON, NWATCH, SELV, LINK, LOT, SOLV, MEM and SEC.
-/
namespace Sys2Proof.Machine

/-- The registers of BAR0. `lot`, `q`, `w`, `x` and so on are the indices by which the manual numbers them. -/
inductive Reg where
  -- IDENT (R14)
  | identPart | identStep | identCap | identCfgver | identFunc
  -- CMDQ (R30)
  | sqBase (lot q : Nat) | sqCtl (lot q : Nat) | sqTail (lot q : Nat) | sqHead (lot q : Nat) | rqBase (lot q : Nat)
  | rqHead (lot q : Nat) | rqTail (lot q : Nat) | sqStat (lot q : Nat)
  -- EVQ (R395, R396)
  | evqBase (lot : Nat) | evqCtl (lot : Nat) | evqHead (lot : Nat) | evqTail (lot : Nat) | evqHoldoff (lot : Nat)
  | evqKindSet (lot : Nat) | evqKindClr (lot : Nat) | evqStat (lot : Nat)
  | evqMaskSet (w : Fin 128) | evqMaskClr (w : Fin 128) | evqPendSet (w : Fin 128) | evqPendClr (w : Fin 128)
  | evqActive (w : Fin 128) | evqPrio (w : Nat)
  -- DMA (R242)
  | dmaStat (x : ChannelId) | dmaCtl (x : ChannelId) | dmaHalt (x : ChannelId) | dmaBytes (x : ChannelId)
  -- PWR (R421)
  | pwrState | pwrBoot | pwrWakeSrc | pwrWakeTime | pwrWakeLost | pwrAvsStat | pwrRail (k : Nat) | pwrReset | pwrPower
  | pwrCluster (c : Nat) | pwrCore (n : Nat) | pwrStack (m : Nat)
  -- PMON (R443)
  | coreCnt (k : Nat) | coreTd (n i : Nat) | cluCnt (k : Nat) | coreSel (k : Nat) | cluSel (k : Nat)
  | dumpCtl (lot : Nat) | dumpPos (lot : Nat)
  -- NWATCH (R444)
  | nwatch (lot k : Nat) | nwatchUse (lot : Nat)
  -- SELV (R445)
  | selvHead | selvFlush | selvFlushTime | selvFlushSerial | selvEcc | selvLedgerEcc | selvLedger (g : Nat)
  -- LINK (R298)
  | linkDevice | linkSystem | linkPosition | linkCoordC | portStat (p : PortId) | portCtl (p : PortId) | portPeer (p : PortId)
  | portPeerPos (p : PortId) | portErr (p : PortId) | portCredit (p : PortId)
  -- LOT (R377)
  | lotStat (lot : Nat) | lotMem (lot : Nat) | lotHold (lot : Nat) | lotAttach (a : Nat) | lotCfg
  -- SOLV (R200)
  | unitStat (u : Nat) | unitSrc (u : Nat) | unitStart (u : Nat) | unitEcc (u : Nat) | solvLotCount (lot : Nat) | solvLotStat (lot : Nat)
  -- MEM (R226)
  | stackCtl (m : Nat) | stackEcc (m : Nat) | stackStat (m : Nat) | ueAddr | scrubCtl | scCtl
  | plqSel (lot : Nat) | plqSum (lot : Nat) | plqExt (lot : Nat) | plqCookie (lot : Nat) | lotEcc (lot : Nat)
  -- SEC (R378)
  | secHello | secIdeStat
  deriving DecidableEq, Repr

/-- Whether a register has 64 bits. -/
def Reg.wide : Reg → Bool
  | .sqBase _ _ | .rqBase _ _ | .evqBase _ | .evqStat _ | .dmaHalt _ | .dmaBytes _ | .pwrWakeTime | .coreCnt _ | .coreTd _ _ | .cluCnt _
  | .dumpPos _ | .selvHead | .selvFlushTime | .selvFlushSerial | .linkDevice | .linkSystem | .linkPosition | .portPeer _ | .portErr _
  | .portCredit _ | .lotMem _ | .unitStart _ | .solvLotCount _ | .stackEcc _ | .ueAddr | .plqSel _ | .plqSum _ | .plqExt _
  | .plqCookie _ => true
  | _ => false

/-! ### Offsets (R10) -/

/-- IDENT. -/
def identAt : Nat → Option Reg
  | 0x00 => some .identPart | 0x04 => some .identStep | 0x08 => some .identCap | 0x0C => some .identCfgver | 0x10 => some .identFunc
  | _ => none

/-- CMDQ: a set of 64 bytes for each queue of each lot. -/
def cmdqAt (o : Nat) : Option Reg :=
  let l := o / 0x400
  let q := o % 0x400 / 0x40
  match o % 0x40 with
  | 0x00 | 0x04 => some (.sqBase l q) | 0x08 => some (.sqCtl l q) | 0x0C => some (.sqTail l q) | 0x10 => some (.sqHead l q)
  | 0x18 | 0x1C => some (.rqBase l q) | 0x20 => some (.rqHead l q) | 0x24 => some (.rqTail l q) | 0x28 => some (.sqStat l q)
  | _ => none

/-- One set of event-queue registers. -/
def evqSetAt (l : Nat) : Nat → Option Reg
  | 0x00 | 0x04 => some (.evqBase l) | 0x08 => some (.evqCtl l) | 0x0C => some (.evqHead l) | 0x10 => some (.evqTail l)
  | 0x14 => some (.evqHoldoff l) | 0x18 => some (.evqKindSet l) | 0x1C => some (.evqKindClr l) | 0x20 | 0x24 => some (.evqStat l)
  | _ => none

/-- EVQ. -/
def evqAt (o : Nat) : Option Reg :=
  if o < 0x40 then none
  else if o < 0x1000 then evqSetAt (o / 0x40) (o % 0x40)
  else if o < 0x1040 then evqSetAt 0 (o % 0x40)
  else if o < 0x2000 then none
  else if h : o / 4 % 128 < 128 then
    let w : Fin 128 := ⟨o / 4 % 128, h⟩
    if o < 0x2200 then some (.evqMaskSet w) else if o < 0x2400 then some (.evqMaskClr w) else if o < 0x2600 then some (.evqPendSet w)
    else if o < 0x2800 then some (.evqPendClr w) else if o < 0x2A00 then some (.evqActive w)
    else if 0x3000 ≤ o && o < 0x3800 then some (.evqPrio (o % 0x800 / 4)) else none
  else none

/-- DMA: a set of 32 bytes for each channel. -/
def dmaAt (o : Nat) : Option Reg :=
  if h : o / 0x20 < 576 then
    let x : ChannelId := ⟨o / 0x20, h⟩
    match o % 0x20 with
    | 0x00 => some (.dmaStat x) | 0x04 => some (.dmaCtl x) | 0x08 | 0x0C => some (.dmaHalt x) | 0x10 | 0x14 => some (.dmaBytes x)
    | _ => none
  else none

/-- PWR. -/
def pwrAt (o : Nat) : Option Reg :=
  match o with
  | 0x00 => some .pwrState | 0x04 => some .pwrBoot | 0x10 => some .pwrWakeSrc | 0x18 | 0x1C => some .pwrWakeTime
  | 0x20 => some .pwrWakeLost | 0x30 => some .pwrAvsStat | 0x80 => some .pwrReset | 0x90 => some .pwrPower
  | _ =>
    if 0x40 ≤ o && o < 0x68 then some (.pwrRail ((o - 0x40) / 4))
    else if 0x100 ≤ o && o < 0x180 then some (.pwrCluster ((o - 0x100) / 4))
    else if 0x200 ≤ o && o < 0x600 then some (.pwrCore ((o - 0x200) / 4))
    else if 0x600 ≤ o && o < 0x650 then some (.pwrStack ((o - 0x600) / 4))
    else none

/-- PMON. -/
def pmonAt (o : Nat) : Option Reg :=
  if o < 0x4000 then some (.coreCnt (o / 8))
  else if o < 0xC000 then some (.coreTd ((o - 0x4000) / 0x80) (o % 0x80 / 8))
  else if o < 0xD000 then some (.cluCnt ((o - 0xC000) / 8))
  else if o < 0xF000 then some (.coreSel ((o - 0xD000) / 4))
  else if o < 0xF800 then some (.cluSel ((o - 0xF000) / 4))
  else if o < 0xFC00 then
    match o % 0x10 with
    | 0x0 => some (.dumpCtl ((o - 0xF800) / 0x10)) | 0x8 | 0xC => some (.dumpPos ((o - 0xF800) / 0x10)) | _ => none
  else none

/-- NWATCH. -/
def nwatchAt (o : Nat) : Option Reg :=
  if o < 0x1000 then
    let k := o % 0x40 / 4
    if k < 9 then some (.nwatch (o / 0x40) k) else if k = 9 then some (.nwatchUse (o / 0x40)) else none
  else none

/-- SELV. -/
def selvAt (o : Nat) : Option Reg :=
  match o with
  | 0x00 | 0x04 => some .selvHead | 0x08 => some .selvFlush | 0x10 | 0x14 => some .selvFlushTime | 0x18 | 0x1C => some .selvFlushSerial
  | 0x20 => some .selvEcc | 0x24 => some .selvLedgerEcc
  | _ => if 0x100 ≤ o && o < 0x118 then some (.selvLedger ((o - 0x100) / 4)) else none

/-- LINK. -/
def linkAt (o : Nat) : Option Reg :=
  match o with
  | 0x00 | 0x04 => some .linkDevice | 0x08 | 0x0C => some .linkSystem | 0x10 | 0x14 => some .linkPosition | 0x18 => some .linkCoordC
  | _ =>
    if h : 0x1000 ≤ o ∧ (o - 0x1000) / 0x40 < 96 then
      let p : PortId := ⟨(o - 0x1000) / 0x40, h.2⟩
      match o % 0x40 with
      | 0x00 => some (.portStat p) | 0x04 => some (.portCtl p) | 0x08 | 0x0C => some (.portPeer p) | 0x10 => some (.portPeerPos p)
      | 0x18 | 0x1C => some (.portErr p) | 0x20 | 0x24 => some (.portCredit p)
      | _ => none
    else none

/-- LOT. -/
def lotAt (o : Nat) : Option Reg :=
  if o < 0x800 then
    match o % 0x20 with
    | 0x00 => some (.lotStat (o / 0x20)) | 0x08 | 0x0C => some (.lotMem (o / 0x20)) | 0x10 => some (.lotHold (o / 0x20))
    | _ => none
  else if 0x1000 ≤ o && o < 0x1100 && o % 0x10 = 0 then some (.lotAttach ((o - 0x1000) / 0x10))
  else if o = 0x2000 then some .lotCfg
  else none

/-- SOLV. -/
def solvAt (o : Nat) : Option Reg :=
  if o < 0x800 then
    let u := o / 0x40
    match o % 0x40 with
    | 0x00 => some (.unitStat u) | 0x04 => some (.unitSrc u) | 0x08 | 0x0C => some (.unitStart u) | 0x10 => some (.unitEcc u)
    | _ => none
  else if 0x1000 ≤ o && o < 0x1400 then
    let l := (o - 0x1000) / 0x10
    match o % 0x10 with
    | 0x0 | 0x4 => some (.solvLotCount l) | 0x8 => some (.solvLotStat l) | _ => none
  else none

/-- MEM. -/
def memAt (o : Nat) : Option Reg :=
  if o < 0x280 then
    let m := o / 0x20
    match o % 0x20 with
    | 0x00 => some (.stackCtl m) | 0x08 | 0x0C => some (.stackEcc m) | 0x10 => some (.stackStat m) | _ => none
  else if 0x1000 ≤ o && o < 0x2000 then
    let l := (o - 0x1000) / 0x40
    match o % 0x40 with
    | 0x00 | 0x04 => some (.plqSel l) | 0x08 | 0x0C => some (.plqSum l) | 0x10 | 0x14 => some (.plqExt l)
    | 0x18 | 0x1C => some (.plqCookie l) | 0x20 => some (.lotEcc l)
    | _ => none
  else
    match o with
    | 0x400 | 0x404 => some .ueAddr | 0x408 => some .scrubCtl | 0x410 => some .scCtl | _ => none

/-- SEC. -/
def secAt : Nat → Option Reg
  | 0x00 => some .secHello | 0x04 => some .secIdeStat | _ => none

/-- The register that holds an offset of BAR0, a multiple of 4; none where the offset is reserved (R8, R10, R11). -/
def regAt (offset : Nat) : Option Reg :=
  let o := offset % 2 ^ 16
  match offset / 2 ^ 16 with
  | 0x0 => identAt o | 0x1 => cmdqAt o | 0x2 => evqAt o | 0x3 => dmaAt o | 0x4 => pwrAt o | 0x5 => pmonAt o | 0x6 => nwatchAt o
  | 0x7 => selvAt o | 0x8 => linkAt o | 0x9 => lotAt o | 0xA => solvAt o | 0xB => memAt o | 0xC => secAt o
  | _ => none

/-! ### Which function sees a register (R12, R13, R200, R226, R242, R354, R396, R421, R443) -/

/-- Whether a function sees a counter: while a lot that it stands for owns it. -/
def Device.seesCounter (d : Device) (f : Fn) (c : Counter) : Bool :=
  match c.owner with
  | some l => d.sees f l
  | none => false

/-- Whether a function sees a solver unit: a physical one always, a virtual one while the unit runs a solve of its lot. -/
def Device.seesUnit (d : Device) (f : Fn) (u : Nat) : Bool :=
  d.barOpen f && match f.vf with
    | none => true
    | some l => (d.unit u).busy && match d.solveOf (d.unit u).entry with
      | some s => s.lot = l.val
      | none => false

/-- Whether a function sees a register. -/
def Device.visible (d : Device) (f : Fn) : Reg → Bool
  | .identPart | .identStep | .identCap | .identCfgver | .identFunc | .secHello | .secIdeStat => d.answers f
  | .sqBase l _ | .sqCtl l _ | .sqTail l _ | .sqHead l _ | .rqBase l _ | .rqHead l _ | .rqTail l _ | .sqStat l _ => d.sees f l
  | .evqBase l | .evqCtl l | .evqHead l | .evqTail l | .evqHoldoff l | .evqKindSet l | .evqKindClr l | .evqStat l => d.sees f l
  | .dmaStat x | .dmaCtl x | .dmaHalt x | .dmaBytes x => d.ownsChannel f x
  | .pwrState => d.barOpen f
  | .pwrBoot => d.mgmtWrites f || (d.power.stage = 0xF && f.vf.isNone && d.answers f)
  | .pwrReset => d.resets f
  | .coreCnt k | .coreSel k => d.seesCounter f (Tab.look {} d.observe.cores k)
  | .cluCnt k | .cluSel k => d.seesCounter f (Tab.look {} d.observe.clusters k)
  | .coreTd _ _ => d.barOpen f && (f.vf.isSome || d.isMgmt f)
  | .dumpCtl l | .dumpPos l | .nwatch l _ | .nwatchUse l => d.sees f l
  | .unitStat u | .unitSrc u | .unitStart u | .unitEcc u => d.seesUnit f u
  | .solvLotCount l | .solvLotStat l => d.sees f l
  | .plqSel l | .plqSum l | .plqExt l | .plqCookie l | .lotEcc l => d.sees f l
  | _ => d.mgmtWrites f

/-! ### What a register reads as -/

/-- A mask of the sources of a word that a test accepts (R396). -/
def wordMask (w : Nat) (f : Nat → Bool) : Nat := ((List.range 32).map fun b => if f (32 * w + b) then 2 ^ b else 0).sum

/-- The layout of CMDQ_SQ_BASE, CMDQ_RQ_BASE and EVQ_BASE. -/
def baseWord (base : Nat) (loc : Bool) : Nat := base * 4096 + b2n loc

/-- The word of a power domain (R421). A core without a kernel, or a cluster whose cores are all idle and whose units do nothing, is in C1
(R400). -/
def Domain.word (v : Domain) (idle : Bool) : Nat :=
  v.state.code * 2 ^ 30 + b2n v.pendingBy.isSome * 2 ^ 29 + b2n v.faulty * 2 ^ 28 + (if v.cstate = 0 && idle then 1 else v.cstate) * 2 ^ 26

/-- PMON_CORE_SEL and PMON_CLU_SEL. -/
def Counter.selWord (c : Counter) : Nat :=
  b2n c.owner.isSome * 2 ^ 31 + b2n c.any * 2 ^ 30 + c.owner.getD 0 * 2 ^ 24 + c.sel % 2 ^ 19

/-- SOLV_UNIT_STAT of a unit that runs a blend or a solve (R200). -/
def Device.unitWord (d : Device) (u : Nat) : Nat :=
  let v := d.unit u
  match v.blend, d.solveOf v.entry with
  | some b, _ => 2 ^ 31 + 2 ^ 30 + b.lot * 2 ^ 24
  | none, some s =>
    if v.busy then
      let state := match d.entry v.entry with | some e => e.param 28 4 ≠ 0 | none => false
      2 ^ 31 + s.lot * 2 ^ 24 + s.priority * 2 ^ 20 + s.fn * 2 ^ 16 + s.done state % 2 ^ 16
    else 0
  | none, none => 0

/-- COORD of LINK_POSITION: 0xFFF while a spare. Assumption 112, DESIGN CHOICE. -/
def Links.coordWord (l : Links) : Nat := if l.coord % 2 ^ 10 = 0x3FF && l.role = 1 then 0xFFF else l.coord % 2 ^ 10

/-- The lot granted an auxiliary port. -/
def Device.auxLot (d : Device) (p : Nat) : Nat :=
  ((List.range Config.lots).find? fun l => (d.lot l).valid && p ≥ 92 && (d.lot l).auxPorts.testBit (p - 92)).getD 0

/-- LINK_PORT_STAT. -/
def Device.portWord (d : Device) (p : Nat) : Nat :=
  let v := d.port p
  let dim := match d.links.slotOf p with | some x => x.1 | none => 0
  v.state.code * 2 ^ 30 + b2n v.pendingBy.isSome * 2 ^ 29 + v.lstate * 2 ^ 26 + v.cause * 2 ^ 22 + d.auxLot p * 2 ^ 16
    + v.epoch * 2 ^ 8 + dim * 2 ^ 6

/-- LOT_STAT. -/
def Device.lotWord (d : Device) (l : Nat) : Nat :=
  let s := d.lotState l
  let e := d.lot l
  let opened := (d.streams.filter fun x => e.streamBase ≤ x.1 && x.1 < e.streamBase + e.streamCount && x.2.state ≠ .disabled).length
  if l ≠ 0 && d.lotDom l = .disabled then 0
  else
    (if l = 0 then 2 else (d.lotDom l).code) * 2 ^ 30 + b2n s.pendingBy.isSome * 2 ^ 29 + s.tdi * 2 ^ 27 + b2n (d.ideOk l) * 2 ^ 26
      + (d.hosting l).getD 0 * 2 ^ 22 + (if e.valid then opened else 0)

/-- LOT_HOLD: replies and events held for a host that is not ATTACHED (R355). Assumption 111, DESIGN CHOICE. -/
def Device.holdWord (d : Device) (l : Nat) : Nat :=
  let away := match d.hosting l with | some a => !d.attached a | none => true
  let held := ((List.range Config.queuesPerLot).map fun q => (d.queue l q).replies.length).sum + (d.evq l).spill.length
  d.journalUsed l / 2 ^ 20 * 2 ^ 16 + (if away then min 0xFFFF held else 0)

/-- LOT_ATTACH. -/
def Device.attachWord (d : Device) (a : Nat) : Nat :=
  let v := d.attachment a
  v.link * 2 ^ 30 + b2n (d.hosts.holder = some a) * 2 ^ 29 + b2n (v.secure.contains 4) * 2 ^ 28 + v.speed * 2 ^ 24 + v.width * 2 ^ 19
    + b2n v.flit * 2 ^ 18

/-- The tensor that MEM_PLQ_SEL names (R227). -/
def Device.plqTensor (d : Device) (l : Nat) : Option (Nat × Tensor) := d.lookup l (Tab.look 0 d.mem.plqHandle l)

/-- MEM_PLQ_SUM. -/
def Device.plqSum (d : Device) (l : Nat) : Nat :=
  match d.plqTensor l with
  | none => 0
  | some (key, t) =>
    let mask := ((List.range Config.memStacks).map fun m => if t.extents.any fun x => extentStack x = m then 2 ^ m else 0).sum
    t.planGen * 2 ^ 48 + mask * 2 ^ 28 + 2 ^ 27 + b2n t.pinned * 2 ^ 26 + b2n (d.mem.moves.any fun m => m.tensor = key) * 2 ^ 25
      + t.extents.length

/-- MEM_PLQ_EXT. -/
def Device.plqExt (d : Device) (l : Nat) : Nat :=
  match d.plqTensor l with
  | none => 0
  | some (_, t) =>
    match t.extents[Tab.look 0 d.mem.plqExtent l]? with
    | none => 0
    | some x => b2n (d.mem.moves.any fun m => m.from_ = x) * 2 ^ 63 + extentStack x * 2 ^ 48 + x * Config.extentBytes

/-- The top-down total that a function reads: of its lot; the management function's is that of lot 0, or of every lot while lot 0 counts
under ANY on that core. -/
def Device.topdownRead (d : Device) (f : Fn) (n i : Nat) : Nat :=
  let any := (List.range 8).any fun k =>
    let c := Tab.look {} d.observe.cores (8 * n + k)
    c.any && c.owner = some 0
  match f.vf with
  | some l => d.topdownOf l n i
  | none => if any then ((List.range Config.lots).map fun l => d.topdownOf l n i).sum % 2 ^ 64 else d.topdownOf 0 n i

/-- HOST_VER and IDE_FAULTS of a function's own copy (R378). Assumption 108, DESIGN CHOICE. -/
def Device.secOf (d : Device) (f : Fn) : Nat × Nat :=
  match f.vf with
  | none => ((d.attachment f.attach).hostVer, (d.attachment f.attach).ideFaults)
  | some _ => Tab.look (0, 0) d.hosts.vfSec f.key

/-- What a register reads as to a function that sees it. -/
def State.regValue (s : State) (f : Fn) (r : Reg) : Nat :=
  let d := s.dev
  match r with
  | .identPart => 0x00092816
  | .identStep => 0x4201
  | .identCap => 0x4010E0
  | .identCfgver => d.hosts.version
  | .identFunc => b2n (d.isMgmt f) * 2 ^ 31 + b2n f.vf.isSome * 2 ^ 30 + f.dye * 2 ^ 24 + f.attach
  | .sqBase l q => baseWord (d.queue l q).sqBase (d.queue l q).sqLoc
  | .sqCtl l q =>
    let v := d.queue l q
    b2n v.enable * 2 ^ 31 + b2n v.unsettled.isNone * 2 ^ 30 + b2n v.notify * 2 ^ 20 + v.depth * 2 ^ 16
  | .sqTail l q => (d.queue l q).tail
  | .sqHead l q => (d.queue l q).head
  | .rqBase l q => baseWord (d.queue l q).rqBase (d.queue l q).rqLoc
  | .rqHead l q => (d.queue l q).rqHead
  | .rqTail l q => b2n (d.queue l q).rqPhase * 2 ^ 16 + (d.queue l q).rqTail
  | .sqStat l q => (d.queue l q).stalls * 2 ^ 16 + (d.queue l q).rejects
  | .evqBase l => baseWord (d.evq l).base (d.evq l).loc
  | .evqCtl l =>
    let v := d.evq l
    b2n v.enable * 2 ^ 31 + b2n v.vectorFn * 2 ^ 30 + v.threshold * 2 ^ 20 + v.depth * 2 ^ 16
  | .evqHead l => (d.evq l).head
  | .evqTail l => b2n (d.evq l).phase * 2 ^ 16 + (d.evq l).tail
  | .evqHoldoff l => (d.evq l).holdoff
  | .evqKindSet l | .evqKindClr l => (d.evq l).kindMask
  | .evqStat l => (d.evq l).spill.length * 2 ^ 32 + (d.evq l).messages * 2 ^ 16 + (d.evq l).full
  | .evqMaskSet w | .evqMaskClr w => wordMask w fun x => (d.source x).masked
  | .evqPendSet w | .evqPendClr w => wordMask w d.pendingBit
  | .evqActive w => wordMask w fun x => d.events.consumers.any fun c => c.2.running.any fun y => y.1 = x
  | .evqPrio w => ((List.range 8).map fun i => d.prio (8 * w + i) * 16 ^ i).sum
  | .dmaStat x =>
    let c := d.channel x
    c.state.code * 2 ^ 30 + b2n c.pendingBy.isSome * 2 ^ 29 + b2n c.slot.isSome * 2 ^ 28 + b2n c.halted * 2 ^ 27
      + b2n (d.channelLot x).isSome * 2 ^ 26 + (d.channelLot x).getD 0 * 2 ^ 18 + c.done
  | .dmaCtl _ => 0
  | .dmaHalt x => (d.channel x).haltIndex % 2 ^ 16 * 2 ^ 48 + (d.channel x).haltAddr % 2 ^ 48
  | .dmaBytes x => (d.channel x).bytes
  | .pwrState => d.pwrState
  | .pwrBoot => d.pwrBoot
  | .pwrWakeSrc =>
    let p := d.power
    b2n p.wakeEdge * 2 ^ 31 + p.wakeKind * 2 ^ 24 + p.wakeUnit * 2 ^ 16 + p.wakeSource
  | .pwrWakeTime => d.power.wakeTime
  | .pwrWakeLost => d.power.wakeLost
  | .pwrAvsStat => b2n d.power.avsFail * 2 ^ 31 + d.power.avsRail * 2 ^ 27 + d.power.avsTarget
  | .pwrRail k => Tab.look 0 d.power.rails k
  | .pwrReset => 0
  | .pwrPower => d.power.policy.cap * 2 ^ 16 + d.power.watts
  | .pwrCluster c => (d.cluster c).word ((coresOf c).all s.coreIdle && d.clusterQuiet c)
  | .pwrCore n => (d.coreDom n).word (s.coreIdle n)
  | .pwrStack m => (d.stackDom m).word false
  | .coreCnt k => (Tab.look {} d.observe.cores k).value
  | .coreTd n i => d.topdownRead f n i
  | .cluCnt k => (Tab.look {} d.observe.clusters k).value
  | .coreSel k => (Tab.look {} d.observe.cores k).selWord
  | .cluSel k => (Tab.look {} d.observe.clusters k).selWord
  | .dumpCtl l =>
    let v := Tab.look {} d.observe.dumps l
    b2n v.running * 2 ^ 31 + b2n v.sticky * 2 ^ 30 + v.period
  | .dumpPos l => (Tab.look {} d.observe.dumps l).lastSeq % 2 ^ 32 * 2 ^ 32 + (Tab.look {} d.observe.dumps l).offset % 2 ^ 32
  | .nwatch l k => Tab.look 0 d.observe.nwatch (l * 16 + k)
  | .nwatchUse l => (d.observe.watches.filter fun w => tensorLot w.1 = l).length
  | .selvHead => d.observe.nextLog
  | .selvFlush => match d.power.keptFlush with | some x => 2 ^ 31 + x.entries.length | none => 0
  | .selvFlushTime => match d.power.keptFlush with | some x => x.time | none => 0
  | .selvFlushSerial => match d.power.keptFlush with | some x => x.serial | none => 0
  | .selvEcc => d.observe.logUncorr * 2 ^ 16 + d.observe.logCorr
  | .selvLedgerEcc => d.observe.ledUncorr * 2 ^ 16 + d.observe.ledCorr
  | .selvLedger g =>
    let n := (d.observe.voids.filter fun v => v.1 = g).length
    b2n (n ≠ 0) * 2 ^ 31 + Tab.look 0 d.observe.lastAudit g * 2 ^ 29 + n
  | .linkDevice => Config.deviceId % 2 ^ 64
  | .linkSystem => d.links.systemId
  | .linkPosition =>
    let l := d.links
    l.adoptGen * 2 ^ 48 + l.role * 2 ^ 40 + l.dims * 2 ^ 32 + l.log2.getD 0 0 * 2 ^ 24 + l.log2.getD 1 0 * 2 ^ 16
      + l.log2.getD 2 0 * 2 ^ 12 + l.coordWord
  | .linkCoordC => field d.links.coord 13 10
  | .portStat p => d.portWord p
  | .portCtl _ => 0
  | .portPeer p => (d.port p).peerId
  | .portPeerPos p =>
    let (off, copy) := match d.links.slotOf p with | some x => (x.2.1, x.2.2) | none => (0, 0)
    (d.port p).peerGen * 2 ^ 16 + off * 2 ^ 8 + copy
  | .portErr p =>
    let v := d.port p
    v.fecCorr * 2 ^ 32 + v.fecUncorr * 2 ^ 24 + v.replays * 2 ^ 12 + v.stale * 2 ^ 4 + v.tagDrop
  | .portCredit p => leNat ((d.port p).credits.map fun c => BitVec.ofNat 8 c)
  | .lotStat l => d.lotWord l
  | .lotMem l => d.pinnedExtents l * 2 ^ 40 + d.heldExtents l
  | .lotHold l => d.holdWord l
  | .lotAttach a => d.attachWord a
  | .lotCfg => b2n d.hosts.kept.isSome * 2 ^ 31 + b2n d.hosts.install.isSome * 2 ^ 30 + (match d.hosts.kept with | some k => k.1 | none => 0)
  | .unitStat u => d.unitWord u
  | .unitSrc u =>
    if (d.unit u).busy then (match d.solveOf (d.unit u).entry with | some x => x.stream | none => 0) else 0
  | .unitStart u => (d.unit u).start
  | .unitEcc u => (d.unit u).uncorr * 2 ^ 16 + (d.unit u).corr
  | .solvLotCount l =>
    let c := d.solveCounts l
    c.preempted * 2 ^ 48 + c.missed * 2 ^ 32 + c.unmeetable * 2 ^ 16 + c.admitted
  | .solvLotStat l => (d.solver.solves.filter fun x => x.lot = l && x.waits).length * 2 ^ 16 + d.solvesRunning l
  | .stackCtl m => (Tab.look {} d.mem.stackRegs m).thresh * 2 ^ 8 + b2n (Tab.look {} d.mem.stackRegs m).detect8
  | .stackEcc m =>
    let v := Tab.look {} d.mem.stackRegs m
    v.uncorr * 2 ^ 48 + v.scrubCorr * 2 ^ 32 + v.corr
  | .stackStat m =>
    let mine := d.mem.owners.filter fun o => extentStack o.1 = m
    (mine.filter fun o => o.2 = .retired).length * 2 ^ 16 + (Config.extentsPerStack - mine.length)
  | .ueAddr =>
    let u := d.mem.ue
    b2n u.valid * 2 ^ 63 + b2n u.scrub * 2 ^ 62 + u.kind * 2 ^ 60 + u.dye * 2 ^ 48 + u.addr
  | .scrubCtl => b2n d.mem.scrubOn * 2 ^ 31 + d.mem.scrubPeriod
  | .scCtl => d.mem.scratchWays
  | .plqSel l => Tab.look 0 d.mem.plqExtent l * 2 ^ 32 + Tab.look 0 d.mem.plqHandle l
  | .plqSum l => d.plqSum l
  | .plqExt l => d.plqExt l
  | .plqCookie l => match d.plqTensor l with | some t => t.2.cookie | none => 0
  | .lotEcc l => Tab.look 0 d.mem.lotEcc l
  | .secHello =>
    let v := d.attachment f.attach
    b2n v.ready * 2 ^ 30 + b2n v.refused * 2 ^ 29 + devVer * 2 ^ 8 + (d.secOf f).1
  | .secIdeStat =>
    let v := d.attachment f.attach
    ((List.range 4).map fun i => if v.secure.contains i then 2 ^ (28 + i) else 0).sum + b2n (v.secure.contains 4) * 2 ^ 27
      + v.sessions * 2 ^ 24 + (d.secOf f).2

/-! ### Fields that a read clears (R4, R6, R7) -/

/-- Whether the bits [hi:lo] of a register contain the field [b:a]. -/
def fieldWithin (hi lo b a : Nat) : Bool := lo ≤ a && b ≤ hi

/-- Clears the RC fields of a register that lie wholly in its bits [hi:lo]. -/
def Device.clearRc (d : Device) (f : Fn) (r : Reg) (hi lo : Nat) : Device :=
  let keep (b a v : Nat) : Nat := if fieldWithin hi lo b a then 0 else v
  match r with
  | .sqStat l q => d.setQueue l q { d.queue l q with stalls := keep 31 16 (d.queue l q).stalls, rejects := keep 15 0 (d.queue l q).rejects }
  | .evqStat l => d.setEvq l { d.evq l with messages := keep 31 16 (d.evq l).messages, full := keep 15 0 (d.evq l).full }
  | .dmaBytes x => d.setChannel x { d.channel x with bytes := keep 63 0 (d.channel x).bytes }
  | .pwrWakeLost => { d with power := { d.power with wakeLost := keep 31 0 d.power.wakeLost } }
  | .nwatch l k =>
    { d with observe := { d.observe with
        nwatch := Tab.put 0 (keep 31 0 (Tab.look 0 d.observe.nwatch (l * 16 + k))) d.observe.nwatch (l * 16 + k) } }
  | .selvEcc =>
    { d with observe := { d.observe with logUncorr := keep 31 16 d.observe.logUncorr, logCorr := keep 15 0 d.observe.logCorr } }
  | .selvLedgerEcc =>
    { d with observe := { d.observe with ledUncorr := keep 31 16 d.observe.ledUncorr, ledCorr := keep 15 0 d.observe.ledCorr } }
  | .portErr p =>
    let v := d.port p
    d.setPort p { v with
      fecCorr := keep 63 32 v.fecCorr, fecUncorr := keep 31 24 v.fecUncorr, replays := keep 23 12 v.replays, stale := keep 11 4 v.stale
      tagDrop := keep 3 0 v.tagDrop }
  | .unitEcc u => d.setUnit u { d.unit u with uncorr := keep 31 16 (d.unit u).uncorr, corr := keep 15 0 (d.unit u).corr }
  | .solvLotCount l =>
    d.modCounts l fun c => { c with
      preempted := keep 63 48 c.preempted, missed := keep 47 32 c.missed, unmeetable := keep 31 16 c.unmeetable
      admitted := keep 15 0 c.admitted }
  | .stackEcc m =>
    let v := Tab.look {} d.mem.stackRegs m
    { d with mem := { d.mem with
        stackRegs := Tab.put {} { v with
          uncorr := keep 63 48 v.uncorr, scrubCorr := keep 47 32 v.scrubCorr, corr := keep 31 0 v.corr } d.mem.stackRegs m } }
  | .lotEcc l => { d with mem := { d.mem with lotEcc := Tab.put 0 (keep 15 0 (Tab.look 0 d.mem.lotEcc l)) d.mem.lotEcc l } }
  | .secIdeStat =>
    match f.vf with
    | none => d.setAttachment f.attach { d.attachment f.attach with ideFaults := keep 15 0 (d.attachment f.attach).ideFaults }
    | some _ =>
      let v := Tab.look (0, 0) d.hosts.vfSec f.key
      { d with hosts := { d.hosts with vfSec := Tab.put (0, 0) (v.1, keep 15 0 v.2) d.hosts.vfSec f.key } }
  | _ => d

/-- A register as a function reads it. -/
def State.seen (s : State) (f : Fn) (r : Reg) : Nat := if s.dev.visible f r then s.regValue f r else 0

/-- Clears what a read by a function clears. -/
def State.clearSeen (s : State) (f : Fn) (r : Reg) (hi lo : Nat) : State :=
  if s.dev.visible f r then { s with dev := s.dev.clearRc f r hi lo } else s

/-- A 32-bit read: its value, and the state after it. A read of a low half latches the high half and clears all; a latched high half is
returned as it was (R7). -/
def State.read32 (s : State) (f : Fn) (offset : Nat) : Nat × State :=
  let latch := Tab.find s.dev.hosts.latches f.key
  let s := { s with dev := s.dev.dropLatch f }
  match regAt offset with
  | none => (0, s)
  | some r =>
    let v := s.seen f r
    if !r.wide then (v % 2 ^ 32, s.clearSeen f r 31 0)
    else if offset % 8 = 0 then
      let s := s.clearSeen f r 63 0
      let h := s.dev.hosts
      (v % 2 ^ 32, { s with dev := { s.dev with hosts := { h with latches := Tab.insert (offset, v / 2 ^ 32) h.latches f.key } } })
    else
      match latch with
      | some (o, high) => if o + 4 = offset then (high, s) else (v / 2 ^ 32, s.clearSeen f r 63 32)
      | none => (v / 2 ^ 32, s.clearSeen f r 63 32)

/-- A 64-bit read: of a 64-bit register, or of two 32-bit ones, the lower first (R7). -/
def State.read64 (s : State) (f : Fn) (offset : Nat) : Nat × State :=
  match regAt offset with
  | some r =>
    if r.wide then (s.seen f r, { s with dev := s.dev.dropLatch f }.clearSeen f r 63 0)
    else
      let (lo, s) := s.read32 f offset
      let (hi, s) := s.read32 f (offset + 4)
      (lo + hi * 2 ^ 32, s)
  | none =>
    let (lo, s) := s.read32 f offset
    let (hi, s) := s.read32 f (offset + 4)
    (lo + hi * 2 ^ 32, s)

/-- Whether an access is naturally aligned. -/
def accessAligned (offset : Nat) (wide : Bool) : Bool := offset % (if wide then 8 else 4) = 0

/-- Whether an access to a function's BAR0 completes with data: not where it completes with Unsupported Request (R355, R358, R359).
Assumption 119, DESIGN CHOICE. -/
def Device.completes (d : Device) (f : Fn) : Bool :=
  d.clocked && (d.attachment f.attach).link ≠ 0 && !(d.attachment f.attach).d3hot && !d.inFlr f

/-- REGISTER_READ_CLEAR (R4, R7, R11 to R13, R353): an access that does not complete gives no data; a virtual function that has no lot here, and an
access that is not naturally aligned, reads 0 (assumption 144, DESIGN CHOICE). -/
def execRegisterReadClear (fn : Fn) (offset : BitVec 20) (wide : Bool) (s : State) : Out :=
  if !s.dev.completes fn then .next s
  else
    let (v, s) := if !s.dev.answers fn || !accessAligned offset.toNat wide then (0, s)
      else if wide then s.read64 fn offset.toNat else s.read32 fn offset.toNat
    .next { s with dev := { s.dev with hosts := { s.dev.hosts with readData := BitVec.ofNat 64 v } } }

/-! ### Queue registers (R30 to R33, R65, R462) -/

/-- Whether a function writes a queue's registers: not during a warm reset (R65). -/
def Device.writesQueue (d : Device) (f : Fn) (l : Nat) : Bool := d.sees f l && d.power.stage ≠ 9

/-- The fields of CMDQ_SQ_CTL beside ENABLE: DEPTH_LOG2 is ignored while ENABLE is 1, and for 1 to 3. The indices keep the bits below n
(R30). -/
def SubQueue.setCtl (v : SubQueue) (x : Nat) : SubQueue :=
  let n := field x 19 16
  let w := { v with notify := x.testBit 20, depth := if v.enable || (1 ≤ n && n ≤ 3) then v.depth else n }
  { w with tail := w.tail % w.size, head := w.head % w.size, rqHead := w.rqHead % w.size, rqTail := w.rqTail % w.size }

/-- The rings of a queue in device memory, as addresses and lengths (R30). -/
def SubQueue.rings (v : SubQueue) : List (Nat × Nat) :=
  (if v.sqLoc then [(v.sqBase * 4096, 64 * v.size)] else []) ++ (if v.rqLoc then [(v.rqBase * 4096, 32 * v.size)] else [])

/-- Whether a queue may be enabled (R31, R462). -/
def Device.queueAllowed (d : Device) (l q : Nat) (v : SubQueue) : Bool :=
  q < (d.lot l).queues && d.lotDom l = .enabled && v.rings.all fun r => d.ringOk l r.1 r.2

/-- A write of CMDQ_SQ_CTL with ENABLE 1: ignored where the queue may not be enabled; else heads and tails are 0 and PHASE is 1. -/
def Device.sqEnable (d : Device) (f : Fn) (l q x : Nat) : Device :=
  let v := (d.queue l q).setCtl x
  if !d.writesQueue f l || !x.testBit 31 then d
  else if (d.queue l q).enable then d.setQueue l q v
  else if !d.queueAllowed l q v then d.judgeRings l v.rings
  else
    d.setQueue l q { v with
      enable := true, head := 0, tail := 0, rqHead := 0, rqTail := 0, rqPhase := true, replyHold := false, ringHost := none
      rung := false, paused := false }

/-- SQ_ENABLE_SET (R31). -/
def execSqEnableSet (fn : Fn) (lot : Lot) (queue : QueueIx) (value : BitVec 32) (s : State) : Out :=
  s.onAccess fn fun d => d.sqEnable fn lot queue value.toNat

/-- A write of CMDQ_SQ_CTL with ENABLE 0: fetching stops (R33). -/
def Device.sqDisable (d : Device) (f : Fn) (l q x : Nat) : Device :=
  if !d.writesQueue f l || x.testBit 31 then d else d.setQueue l q { (d.queue l q).setCtl x with enable := false }

/-- SQ_ENABLE_CLEAR (R33). -/
def execSqEnableClear (fn : Fn) (lot : Lot) (queue : QueueIx) (value : BitVec 32) (s : State) : Out :=
  s.onAccess fn fun d => d.sqDisable fn lot queue value.toNat

/-- A write of CMDQ_SQ_TAIL rings the doorbell, and fetching goes on after a pause (R30, R32, R65). -/
def Device.sqTail (d : Device) (f : Fn) (l q x : Nat) : Device :=
  if !d.writesQueue f l then d
  else
    let v := d.queue l q
    d.setQueue l q { v with tail := x % 2 ^ 16 % v.size, rung := true, paused := false }

/-- SQ_TAIL_WRITE (R32). -/
def execSqTailWrite (fn : Fn) (lot : Lot) (queue : QueueIx) (value : BitVec 32) (s : State) : Out :=
  s.onAccess fn fun d => d.sqTail fn lot queue value.toNat

/-- A write of CMDQ_RQ_HEAD: software has consumed replies (R30, R34). -/
def Device.rqHead (d : Device) (f : Fn) (l q x : Nat) : Device :=
  if !d.writesQueue f l then d
  else
    let v := d.queue l q
    d.setQueue l q { v with rqHead := x % 2 ^ 16 % v.size }

/-- RQ_HEAD_WRITE (R34). -/
def execRqHeadWrite (fn : Fn) (lot : Lot) (queue : QueueIx) (value : BitVec 32) (s : State) : Out :=
  s.onAccess fn fun d => d.rqHead fn lot queue value.toNat

/-! ### REGISTER_WRITE (R4, R7, R8, R13) -/

/-- The state that a command leaves which does not stop. -/
def Out.after (o : Out) (s : State) : State :=
  match o with
  | .next t => t
  | _ => s

/-- A 64-bit value with its low or high half, or all of it, replaced. -/
def mergeHalf (old : Nat) (half : Option Bool) (v : Nat) : Nat :=
  match half with
  | none => v % 2 ^ 64
  | some false => old / 2 ^ 32 * 2 ^ 32 + v % 2 ^ 32
  | some true => v % 2 ^ 32 * 2 ^ 32 + old % 2 ^ 32

/-- Whether RWL fields take a register write: before the first configuration commit after a cold reset (R4). -/
def Device.rwlOpen (d : Device) : Bool := !d.hosts.installed

/-- A write of EVQ_CTL. Assumption 113, DESIGN CHOICE. -/
def Device.evqCtl (d : Device) (f : Fn) (l v : Nat) : Device := if v.testBit 31 then d.evqEnable f l v else d.evqDisable f l v

/-- A write of EVQ_PRIO (R385, R396). -/
def Device.writePrio (d : Device) (w v : Nat) : Device :=
  (((List.range 8).map fun i => (8 * w + i, field v (4 * i + 3) (4 * i))).filter fun x => sourceAssigned x.1).foldl
    (fun d x => d.setSource x.1 { d.source x.1 with prio := some x.2 }) d

/-- A write of LINK_POSITION while its fields are open. -/
def Links.setPosition (l : Links) (v : Nat) : Links :=
  { l with
    role := field v 41 40, dims := field v 39 32, log2 := [field v 31 24, field v 23 16, field v 15 12]
    coord := putField l.coord 9 0 (field v 9 0) }

/-- A write of a register that a function sees, to fields that have an access code of R4 alone or whose command has no row of its own. For a
64-bit register, `half` says which half is written. -/
def Device.writePlain (d : Device) (f : Fn) (r : Reg) (half : Option Bool) (old v : Nat) : Device :=
  let x := if r.wide then mergeHalf old half v else v % 2 ^ 32
  match r with
  | .sqBase l q =>
    if d.writesQueue f l && !(d.queue l q).enable then d.setQueue l q { d.queue l q with sqBase := x / 4096, sqLoc := x.testBit 0 } else d
  | .rqBase l q =>
    if d.writesQueue f l && !(d.queue l q).enable then d.setQueue l q { d.queue l q with rqBase := x / 4096, rqLoc := x.testBit 0 } else d
  | .evqBase l => if (d.evq l).enable then d else d.setEvq l { d.evq l with base := x / 4096, loc := x.testBit 0 }
  | .evqHoldoff l => d.setEvq l { d.evq l with holdoff := min (x % 2 ^ 17) 100000 }
  | .evqKindSet l => d.setEvq l { d.evq l with kindMask := ((d.evq l).kindMask ||| x) &&& 0xFFFFFFF7 }
  | .evqKindClr l => d.setEvq l { d.evq l with kindMask := (d.evq l).kindMask &&& (0xFFFFFFFF - x) }
  | .evqPrio w => d.writePrio w x
  | .pwrAvsStat => if x.testBit 31 then { d with power := { d.power with avsFail := false } } else d
  | .dumpCtl l =>
    if x.testBit 30 then
      let u := Tab.look {} d.observe.dumps l
      { d with observe := { d.observe with dumps := Tab.put {} { u with sticky := false } d.observe.dumps l } }
    else d
  | .linkSystem => if d.rwlOpen then { d with links := { d.links with systemId := x } } else d
  | .linkPosition => if d.rwlOpen then { d with links := d.links.setPosition x } else d
  | .linkCoordC => if d.rwlOpen then { d with links := { d.links with coord := putField d.links.coord 13 10 (x % 16) } } else d
  | .stackCtl m =>
    if d.rwlOpen then
      let u := Tab.look {} d.mem.stackRegs m
      { d with mem := { d.mem with
          stackRegs := Tab.put {} { u with thresh := field x 15 8, detect8 := x.testBit 0 } d.mem.stackRegs m } }
    else d
  | .ueAddr => if half ≠ some false && x.testBit 63 then { d with mem := { d.mem with ue := { d.mem.ue with valid := false } } } else d
  | .scrubCtl => if d.rwlOpen then { d with mem := { d.mem with scrubOn := x.testBit 31, scrubPeriod := x % 2 ^ 16 } } else d
  | .scCtl =>
    if d.rwlOpen && x % 16 ≤ 12 then
      { d with mem := { d.mem with scratchWays := x % 16, cache := d.mem.cache.filter fun l => l.1 % 16 < 16 - x % 16 } }
    else d
  | .plqSel l =>
    { d with mem := { d.mem with
        plqHandle := Tab.put 0 (x % 2 ^ 32) d.mem.plqHandle l, plqExtent := Tab.put 0 (field x 51 32) d.mem.plqExtent l } }
  | .secHello => d.hello f (x % 256) (x.testBit 31)
  | _ => d

/-- Two writes of request bits, where not both are 1. -/
def State.requestBits (s : State) (v : Nat) (en dis : State → Out) : State :=
  if v.testBit 31 && v.testBit 30 then s
  else if v.testBit 31 then (en s).after s
  else if v.testBit 30 then (dis s).after s
  else s

/-- A write of one register, or of one half of a 64-bit one, at an offset. The fields whose writes have rows of their own act as those rows
do. -/
def State.writeReg (s : State) (f : Fn) (offset : Nat) (half : Option Bool) (v : Nat) : State :=
  let s := { s with dev := s.dev.dropLatch f }
  let mgmtBlock := [0x7, 0x8, 0x9].contains (offset / 2 ^ 16)
  if mgmtBlock && !s.dev.mgmtWrites f then { s with dev := s.dev.probe f offset }
  else
    match regAt offset with
    | none => s
    | some r =>
      if !s.dev.visible f r then s
      else
        let w := BitVec.ofNat 32 v
        let d := s.dev
        match r with
        | .sqCtl l q => { s with dev := if v.testBit 31 then d.sqEnable f l q (v % 2 ^ 32) else d.sqDisable f l q (v % 2 ^ 32) }
        | .sqTail l q => { s with dev := d.sqTail f l q v }
        | .rqHead l q => { s with dev := d.rqHead f l q v }
        | .evqCtl l => { s with dev := d.evqCtl f l (v % 2 ^ 32) }
        | .evqHead l => { s with dev := (d.evqHead f l v).deliverAll }
        | .evqMaskSet k => (execEvqMaskSet f k w s).after s
        | .evqMaskClr k => (execEvqMaskClr f k w s).after s
        | .evqPendSet k => (execEvqPendSet f k w s).after s
        | .evqPendClr k => (execEvqPendClr f k w s).after s
        | .dmaStat x => if v.testBit 27 then (execDmaHaltedClear f x s).after s else s
        | .dmaCtl x => s.requestBits v (execDmaEnReq f x) (execDmaDisReq f x)
        | .portCtl p =>
          let s := s.requestBits v (execLinkEnReq f p) (execLinkDisReq f p)
          if v.testBit 29 then (execRetrain f p s).after s else s
        | .pwrReset => s.pwrReset f (v % 2 ^ 32)
        | r => { s with dev := d.writePlain f r half (s.regValue f r) v }

/-- A 64-bit write: of a 64-bit register, or of two 32-bit ones, the lower first (R7). -/
def State.write64 (s : State) (f : Fn) (offset v : Nat) : State :=
  let isWide := match regAt offset with | some r => r.wide | none => false
  if isWide then s.writeReg f offset none v
  else (s.writeReg f offset (some false) (v % 2 ^ 32)).writeReg f (offset + 4) (some false) (v / 2 ^ 32)

/-- REGISTER_WRITE: a function that does not answer takes no write (R354, R358, R359), nor does an access that is not naturally aligned (assumption
144, DESIGN CHOICE). -/
def execRegisterWrite (fn : Fn) (offset : BitVec 20) (wide : Bool) (value : BitVec 64) (s : State) : Out :=
  if !s.dev.answers fn || !accessAligned offset.toNat wide then .next s
  else if wide then .next (s.write64 fn offset.toNat value.toNat)
  else .next (s.writeReg fn offset.toNat (some (offset.toNat % 8 ≠ 0)) (value.toNat % 2 ^ 32))

end Sys2Proof.Machine
end

