-- ==== Sys2Proof/Machine/Commit.lean ====
section
/-!
DEFINITION. Commit (R42, R61): the end of a launch, initialisation writes (R244), what each opcode's commit switches, and the final reply; and the
commands of the journal's own steps: fetch, mirror acknowledgement, dispatch, commit, reply, and the stream and tensor commands (R32 to R66).
-/
namespace Sys2Proof.Machine

/-! ### Initialisation writes (R244) -/

/-- The storage offset of byte `o` of a shard's master planes. -/
def storageOf : List (Nat × Nat) → Nat → Option Nat
  | [], _ => none
  | (off, n) :: t, o => if o < n then some (off + o) else storageOf t (o - n)

/-- Whether a range of a tensor meets one that a command has written. -/
def Entry.wrote (e : Entry) (key off n : Nat) : Bool :=
  e.written.any fun w => w.1 = key && w.2.1 < off + n && off < w.2.1 + w.2.2

/-- The compensation after an initialisation write: +0 for the elements written. -/
def Entry.initComp (e : Entry) (key : Nat) (t : Tensor) (p shard : Nat) (master comp : Bytes) : Bytes :=
  if t.master ≠ 1 then comp
  else
    let spans := t.masterSpans p shard
    (List.range (t.shardCount p)).flatMap fun i =>
      match (t.elemSlot p shard master i).bind (storageOf spans) with
      | some a => if e.wrote key a 2 then [0, 0] else (comp.drop (2 * i)).take 2
      | none => (comp.drop (2 * i)).take 2

/-- The staged state of a shard that a command has written as data. Assumption 115, DESIGN CHOICE. -/
def Device.initShard (d : Device) (e : Entry) (key : Nat) (t : Tensor) (shard : Nat) : StagedShard :=
  let p := d.partsOf key t
  let s := d.shardOf key shard
  let master := d.readPlanes (d.viewExtents e key t) (t.masterSpans p shard)
  let comp := e.initComp key t p shard master s.comp
  let v := nextVersion s.version
  { tensor := key, index := shard, acked := !d.needsAck key t shard
    shard := { s with
      version := v, flags := recordFlags false true s.version v, step := (d.job t.job).counter, comp := comp
      digest := shardDigest t master comp } }

/-- The PARAMETER shards that a command has written as data, each with its staged state (R244). -/
def Device.initShards (d : Device) (e : Entry) : List StagedShard :=
  ((e.written.map fun w => w.1).eraseDups).flatMap fun key =>
    match d.tensor key with
    | some t =>
      if !t.param then []
      else
        let p := d.partsOf key t
        ((d.ownedShards key t).filter fun i =>
          (t.masterSpans p i).any (fun s => e.wrote key s.1 s.2) && !e.shards.any fun x => x.tensor = key && x.index = i).map
          fun i => d.initShard e key t i
    | none => []

/-! ### The end of a launch (R53, R136, R137) -/

/-- The launch at the head of its stream has run: each core that ran it ends its kernel, and its results are staged. Assumption 114, DEDUCED. -/
def State.endLaunch (s : State) (e : Entry) : State :=
  let mine := (s.eng.cores.filter fun c => c.2.kernel = some e.id).map fun c => c.1
  let d := mine.foldl (fun (d : Device) n =>
    (d.kernelCounts n e.lot).setCoreDom n { d.coreDom n with idleSince := d.time }) s.dev
  { s with dev := d.stageOk e.id e.sticky 0, eng := s.eng.endKernel e.id }

/-- Whether an entry is a launch that its engines have been running, and that waits for nothing. -/
def Entry.launched (e : Entry) : Bool := (e.op = .opLaunch || e.op = .graphLaunch) && e.phase = .dispatched && e.ran && e.wait = .nothing

/-- Whether a launch may end: it waits for nothing, each of its dispatches has been made (R120), and each of its atomics performed (R221).
Assumption 114, DESIGN CHOICE. -/
def Device.launchDone (d : Device) (e : Entry) : Bool :=
  e.launched && (List.range e.decl.records.length).all (fun i => d.mem.structures.any fun x => x.entry = e.id && x.record = i)
    && d.mem.atomics.all fun a => a.entry ≠ e.id

/-- OP_LAUNCH and GRAPH_LAUNCH: the launch starts; a launch that runs, waits for nothing and has made its dispatches has come to its end, and is
STAGED. -/
def State.launch (s : State) (stream : Nat) (op : Opcode) (decl : CodeDecl) (params : Entry → Bool) : State :=
  match (if s.dev.running then s.dev.ready stream op else none) with
  | some e => if s.dev.launchDone e then s.endLaunch e else { s with dev := s.dev.runOp stream op (launchBody decl params) }
  | none => s

/-! ### What commits (R61, R244, R255) -/

/-- The counts of a SHARD_UPDATE (R247, R250, R444). Assumption 118, DESIGN CHOICE. -/
def Device.countUpdate (d : Device) (e : Entry) : Device :=
  let skipped := (e.shards.filter fun s => s.shard.flags.testBit 0).length
  let bare := (e.shards.filter fun s =>
    match d.tensor s.tensor with
    | some t => (e.param 52 1).testBit 0 && d.rootsFor s.tensor t (d.partsOf s.tensor t) s.index = (none, none)
    | none => false).length
  (d.addNwatch e.lot 2 skipped).addNwatch e.lot 1 bare

/-- A commit of a write of the whole tensor clears LOST; of a PARAMETER tensor, a write of every shard that this device holds (R349). Assumption 78,
DEDUCED. -/
def Device.clearLost (d : Device) (e : Entry) : Device :=
  ((e.written.map fun w => w.1).eraseDups).foldl (fun d key =>
    d.modTensor key fun t =>
      let whole := if t.param then (d.ownedShards key t).all fun i => e.shards.any fun s => s.tensor = key && s.index = i else e.wroteAll key t
      if t.lost && whole then { t with lost := false } else t) d

/-- What the commit of each opcode switches, beside its staged extents. -/
def Device.commitOp (d : Device) (e : Entry) (old : List (Nat × List (Nat × Bytes))) : Device :=
  match e.op with
  | .tensorCreate => commitCreate e d
  | .tensorFree => commitFree e d
  | .tensorHint => commitHint e d
  | .tensorPin => commitPin e d
  | .opLaunch | .graphLaunch => ((d.accumulate e).flipShards .init e.shards old).unpinLaunch e
  | .dmaCopy | .dmaReshuffle => commitDma e d
  | .mapDeclare => commitDeclare e d
  | .redraw => commitRedraw e d
  | .collective => if e.param 16 1 = 7 then commitGrad e d else d.flipShards .init e.shards old
  | .rethread => commitRethread e d
  | .shardUpdate => (d.countUpdate e).flipShards .update e.shards old
  | .stepCommit => (commitStep e old d).referSnapshots e.lot (d.stream e.stream).job (e.param 16 8)
  | .secureNow => commitSecure e old d
  | .diffStreamCtl => commitDiffCtl e d
  | .digestCheck => commitDigest e d
  | .statsConfig => commitStats e d
  | .solve => commitSolve e d
  | .precondInstall => commitPrecond e d
  | .hostRole => commitHostRole e d
  | .powerPolicy => commitPolicy e d
  | .pmonConfig => commitPmon e d
  | .watchConfig => commitWatch e d
  | .ledgerAudit => commitAudit e d
  | _ => d

/-- The arrivals of the matches of a job-wide command end with it, since ordinals start again at the next STREAM_OPEN (R302). Assumption 148, DESIGN
CHOICE. -/
def Device.dropArrivals (d : Device) (e : Entry) : Device :=
  { d with arrivals := d.arrivals.filter fun a => !(a.stream = e.stream && e.ordinal ≠ 0 && a.ordinal = e.ordinal) }

/-- The commit of a command that succeeded: its staging replaces the extent-map entries, its effects hold, and its final reply is decided. -/
def Device.commitGood (d : Device) (e : Entry) : Device :=
  let old := e.shards.map fun s => d.oldPlanes s.tensor s.index
  let d := if e.op = .tensorPin then d else d.commitStaging e.id
  let d := d.commitOp e old
  let d := ((d.countWritten e).clearLost e).dropScratch e.id
  let d := { d with links := { d.links with messages := d.links.messages.filter fun m => m.entry ≠ e.id } }
  let d := d.modEntry e.id fun x => { x with phase := .committed, staging := [], shards := [], twins := [], extents := [], reserved := 0 }
  (d.sweepOrphans.dropArrivals e).finalReply e

/-- A failed command at the head of its stream gives its final reply; a failed backward launch releases its pins (R56, R260). -/
def Device.commitBad (d : Device) (e : Entry) : Device :=
  ((d.unpinLaunch e).modEntry e.id fun x => { x with phase := .committed, reserved := 0 }).sweepOrphans.dropArrivals e |>.finalReply e

/-- The head of a stream: its first command without a final reply (R42). -/
def Device.headOf (d : Device) (stream : Nat) : Option Entry := (d.streamEntries stream).find? fun e => e.phase ≠ .committed

/-- Adds to a staged launch or collective the shards that it initialises. -/
def Device.withInits (d : Device) (e : Entry) : Device :=
  if e.op = .opLaunch || e.op = .graphLaunch || e.op = .collective then
    let new := d.initShards e
    d.modEntry e.id fun x => { x with shards := x.shards ++ new }
  else d

/-- Whether the twin holds what it needs of each staged shard: it has acknowledged its planes, and, where it mirrors the shard, its position is not
lost (R334, R335). -/
def Device.mirrored (d : Device) (e : Entry) : Bool :=
  e.shards.all fun x => x.acked &&
    match d.tensor x.tensor with
    | some t => !d.needsAck x.tensor t x.index || d.twinReached t.job
    | none => true

/-- Whether an uncorrectable error lies in the shadow slot of a SHARD_UPDATE (R256). -/
def Device.shadowSpoiled (d : Device) (e : Entry) : Bool :=
  e.op = .shardUpdate
    && d.spoiled ((e.staging.map fun s => s.extent) ++ (e.shards.filter fun s => !s.shard.flags.testBit 0).flatMap fun s => s.shard.extents)

/-- COMMAND_COMMIT: the command at the head of a stream commits once it is staged and the twins hold the shards of which they are mirrors
(R42, R61, R334); an update whose shadow slot has an uncorrectable error fails instead (R256). A launch at the head has run to its end. -/
def State.commit (s : State) (stream : Nat) : State :=
  if !s.dev.running then s
  else
    match s.dev.headOf stream with
    | none => s
    | some e =>
      let s := if s.dev.launchDone e then s.endLaunch e else s
      match s.dev.headOf stream with
      | none => s
      | some e =>
        if e.phase ≠ .staged then s
        else if !e.status.good then { s with dev := s.dev.commitBad e }
        else
          let d := s.dev.withInits e
          match d.entry e.id with
          | none => s
          | some e =>
            if !d.mirrored e then { s with dev := d }
            else if d.shadowSpoiled e then { s with dev := d.failEntry e.id .eMemUncorrectable }
            else { s with dev := d.commitGood e }

/-! ### The steps of the journal -/

/-- COMMAND_FETCH (R32, R36, R37, R60). The errors strike memory before it (R212). -/
def execCommandFetch (lot : Lot) (queue : QueueIx) (reads : MemoryReads) (s : State) : Out :=
  s.onDev fun d => if d.running then (d.strike reads.errors).fetch lot queue reads.returns else d

/-- JOURNAL_MIRROR_ACK (R66). -/
def execJournalMirrorAck (lot : Lot) (queue : QueueIx) (host : List HostReturn) (s : State) : Out :=
  s.onDev fun d => d.mirrorAcked lot queue host

/-- COMMAND_DISPATCH (R37, R38, R42, R58). -/
def execCommandDispatch (stream : StreamId) (s : State) : Out := s.onDev fun d => d.dispatch stream

/-- COMMAND_COMMIT (R42, R61). -/
def execCommandCommit (stream : StreamId) (s : State) : Out := .next (s.commit stream)

/-- REPLY_WRITE (R33 to R35). -/
def execReplyWrite (lot : Lot) (queue : QueueIx) (s : State) : Out := s.onClocked fun d => d.replyWrite lot queue

/-- STREAM_OPEN (R43). -/
def execStreamOpen (stream : StreamId) (s : State) : Out := s.onDev fun d => d.runOp stream .streamOpen streamOpenBody

/-- STREAM_CLOSE (R44). -/
def execStreamClose (stream : StreamId) (s : State) : Out := s.onDev fun d => d.runOp stream .streamClose streamCloseBody

/-- STREAM_FENCE (R45). -/
def execStreamFence (stream : StreamId) (s : State) : Out := s.onDev fun d => d.runMarked stream .streamFence streamFenceBody

/-- FENCE_TIMEOUT (R45). -/
def execFenceTimeout (stream : StreamId) (s : State) : Out := s.onDev fun d => d.fenceTimeout stream

/-- TENSOR_CREATE (R46 to R49, R205). -/
def execTensorCreate (stream : StreamId) (s : State) : Out := s.onDev fun d => d.runOp stream .tensorCreate tensorCreateBody

/-- TENSOR_FREE (R50). -/
def execTensorFree (stream : StreamId) (s : State) : Out := s.onDev fun d => d.runOp stream .tensorFree tensorFreeBody

/-- TENSOR_HINT (R51). -/
def execTensorHint (stream : StreamId) (s : State) : Out := s.onDev fun d => d.runOp stream .tensorHint tensorHintBody

/-- TENSOR_PIN (R52). -/
def execTensorPin (stream : StreamId) (s : State) : Out := s.onDev fun d => d.runOp stream .tensorPin tensorPinBody

/-- OP_LAUNCH (R53). -/
def execOpLaunch (stream : StreamId) (decl : CodeDecl) (s : State) : Out := .next (s.launch stream .opLaunch decl opLaunchParams)

/-- GRAPH_LAUNCH (R54): one command whose runs stage into one set of results. -/
def execGraphLaunch (stream : StreamId) (decl : CodeDecl) (s : State) : Out := .next (s.launch stream .graphLaunch decl graphLaunchParams)

/-- STORAGE_RETURN (R50, R204). -/
def execStorageReturn (lot : Lot) (index : Fin 16777216) (s : State) : Out := s.onClocked fun d => d.storageReturn lot index

/-- QUOTA_WAIT_DEADLINE (R61). -/
def execQuotaWaitDeadline (stream : StreamId) (s : State) : Out := s.onDev fun d => d.quotaDeadline stream

end Sys2Proof.Machine
end

