-- ==== Sys2Proof/Machine/Vector.lean ====
section
/-!
DEFINITION. The vector engine and the reduction unit: VECTOR_OPERATION, BROADCAST_LOAD, PERMUTE and SHUFFLE (R122 to R132, R138
to R142). The softmax and normalisation sequences of R143 and R144 are runs of these operations.
-/
namespace Sys2Proof.Machine

/-! ### Operands (R125) -/

/-- The indices of an iteration space, dimension 0 fastest. -/
def indexOf : List Nat → Nat → List Nat
  | [], _ => []
  | e :: t, lin => lin % e :: indexOf t (lin / e)

/-- Σ stride·index. -/
def dot : List Int → List Nat → Int
  | s :: st, i :: it => s * i + dot st it
  | _, _ => 0

/-- The address of an operand's element. -/
def Desc.addr (x : Desc) (ix : List Nat) : Int := x.base + dot x.strides ix * elemBytes x.fmt

/-- Whether every element of an operand lies in the local store (R130). -/
def Desc.inside (x : Desc) (space : List Nat) : Bool :=
  (List.range (prod space)).all fun lin => inStore (x.addr (indexOf space lin)) (elemBytes x.fmt)

/-- The pattern of an operand's element. -/
def Desc.get (x : Desc) (g : Engines) (core : Nat) (ix : List Nat) : Nat :=
  leNat (g.read core (x.addr ix).toNat (elemBytes x.fmt))

/-- Formats that the vector engine computes on (R125). -/
def vectorFmt (f : Format) : Bool := [Format.fp64, .fp32, .bf16, .fp16, .e4m3, .e5m2, .int32, .uint8].contains f

/-- Sources that an operation takes. -/
def VOp.arity : VOp → Nat
  | .fma => 3
  | .sqrt | .convert _ | .trans _ | .inot => 1
  | _ => 2

/-- Operations on integers. -/
def VOp.integer : VOp → Bool
  | .iadd | .iand | .ior | .ixor | .inot | .ishl | .ishr | .isar => true
  | _ => false

/-- Logic operations, which UINT8 has too (R123). -/
def VOp.logic : VOp → Bool
  | .iand | .ior | .ixor | .inot => true
  | _ => false

/-- Whether a descriptor has one of the forms of R125 over an iteration space. -/
def Desc.wf (x : Desc) (space : List Nat) : Bool :=
  vectorFmt x.fmt && x.base % elemBytes x.fmt = 0 && x.strides.length = space.length
    && x.strides.all fun s => -(2 ^ 31 : Int) ≤ s && s < 2 ^ 31

/-- Whether an iteration space has one of the forms of R125. -/
def spaceOk (space : List Nat) : Bool :=
  1 ≤ space.length && space.length ≤ 4 && space.all (fun e => 1 ≤ e && e ≤ 2 ^ 24) && prod space ≤ 2 ^ 24

/-- The index space of a channel's results (R139): one per row, or one per dimension-0 index. -/
def RedMode.space (m : RedMode) (space : List Nat) : List Nat :=
  match m, space with
  | .row, _ :: e :: t => e :: t
  | .row, _ => [1]
  | .column, e :: _ :: t => e :: t
  | _, _ => [1]

/-- The format of a function's results (R139). -/
def RedFn.fmt (f : RedFn) : Format :=
  match f with
  | .countZero | .countNonfinite | .isum => .int32
  | _ => .fp32

/-- Whether a function also gives an index (R139). -/
def RedFn.indexed (f : RedFn) : Bool := f = .argmax || f = .argmin

/-- Whether a reduction channel has one of the forms of R139. -/
def Channel.wf (c : Channel) (op : VectorOp) : Bool :=
  let out (x : Desc) (f : Format) : Bool := x.fmt = f && x.wf (c.mode.space op.dst.extents)
  let fmt := match c.input with
    | some i => (op.srcs.map fun x => x.fmt).getD i .code
    | none => op.dst.fmt
  vectorFmt fmt && fmt ≠ .fp64 && (match c.input with | some i => i < op.srcs.length | none => true)
    && (c.mode ≠ .column || 2 ≤ op.dst.extents.length) && (c.fn ≠ .isum || !floatFmt fmt)
    && (match c.mode with | .scalar _ => true | _ => out c.dst c.fn.fmt && (!c.fn.indexed || out c.ixDst .int32))
    && (!c.softmax || (c.fn = .max && c.mode = .row))

/-- Whether a vector operation has one of the forms of R123 to R139. -/
def VectorOp.wf (op : VectorOp) : Bool :=
  let fmts := op.dst.fmt :: op.srcs.map fun x => x.fmt
  spaceOk op.dst.extents && op.dst.wf op.dst.extents && op.srcs.all (fun x => x.wf op.dst.extents)
    && op.srcs.length = op.op.arity && op.channels.length ≤ 4 && op.channels.all (fun c => c.wf op)
    && (match op.op with
        | .trans _ => !fmts.contains .fp64 && fmts.all floatFmt
        | .convert _ | .cmp _ | .select => true
        | o =>
          if o.logic then fmts.all (fun f => !floatFmt f)
          else if o.integer then fmts.all (· = .int32)
          else fmts.all floatFmt)
    && (op.op ≠ .select || op.mask.isSome)

/-! ### One element (R80, R81, R123, R124) -/

/-- The layout in which an operation computes (R80): FP64 where an operand is FP64, the sub-lane format where every operand is
narrower than FP32, and FP32 otherwise. -/
def computeSpec (dst : Format) (srcs : List Format) : FSpec :=
  if (dst :: srcs).contains .fp64 then fp64
  else if (dst :: srcs).all fun f => f.bits ≤ 16 && floatFmt f then (dst.spec).getD fp32
  else fp32

/-- What one element gives: the result stream's value before narrowing, the pattern written, and the flags. -/
structure ElemOut where
  value : Val
  bits  : Nat
  flags : Nat
  deriving DecidableEq, Repr

/-- A floating-point result: one rounding in the compute format, then the narrowing on write (R80, R135). -/
def floatOut (dst : Format) (cs : FSpec) (exact : Flt) (ops : List Flt) : ElemOut :=
  let v := decodeF cs (encodeF cs exact)
  let f := resultFlags cs exact ops
  match dst.spec with
  | some sp => if sp = cs then ⟨.flt v, encodeF cs exact, f⟩ else ⟨.flt v, encodeF sp v, f ||| roundFlags sp v⟩
  | none => let r := encodeVal dst (.flt v); ⟨.flt v, r.1, f ||| r.2⟩

/-- Whether a comparison holds (R124). -/
def Cmp.holds (c : Cmp) (a b : Val) : Bool :=
  match a, b with
  | .int x, .int y =>
    match c with
    | .lt => x < y | .le => x ≤ y | .eq => x = y | .ne => x ≠ y | .ge => y ≤ x | .gt => y < x
  | a, b =>
    let x := a.toFlt
    let y := b.toFlt
    match c with
    | .lt => x.lt y
    | .le => x.lt y || x.eqv y
    | .eq => x.eqv y
    | .ne => !x.eqv y
    | .ge => y.lt x || x.eqv y
    | .gt => y.lt x

/-- An integer result of the destination's width. -/
def intOut (dst : Format) (v : Int) : ElemOut :=
  let w := dst.bits
  let p := ofInt w v
  ⟨decodeVal dst p, p, 0⟩

/-- A shift of a pattern; by its width or more the manual states no result, and it is a free value, the same for the same operands (R92,
assumption 3, DESIGN CHOICE). -/
def shiftOut (dst : Format) (operand amount : Nat) (v : Int) : ElemOut :=
  if amount < dst.bits then intOut dst v else intOut dst (Config.wideShift dst.bits operand amount % 2 ^ dst.bits : Nat)

/-- One element of an operation. `pred`: its predicate bit. -/
def elemOp (op : VOp) (dst : Format) (srcs : List (Format × Nat)) (pred : Bool) : ElemOut :=
  let vals := srcs.map fun p => decodeVal p.1 p.2
  let a := vals.getD 0 (.int 0)
  let b := vals.getD 1 (.int 0)
  let c := vals.getD 2 (.int 0)
  let x := a.toFlt
  let y := b.toFlt
  let z := c.toFlt
  let ops := vals.map Val.toFlt
  let cs := computeSpec dst (srcs.map fun p => p.1)
  let pa := (srcs.map fun p => p.2).getD 0 0
  let pb := (srcs.map fun p => p.2).getD 1 0
  match op with
  | .add => floatOut dst cs (x.add y) ops
  | .sub => floatOut dst cs (x.add y.neg) ops
  | .mul => floatOut dst cs (x.mul y) ops
  | .fma => floatOut dst cs ((x.mul y).add z) ops
  | .div =>
    let r := floatOut dst cs (x.div y) ops
    { r with flags := r.flags ||| flagIf (y.isZero && !x.isZero && !x.nonfinite) fDivZero }
  | .sqrt => floatOut dst cs x.sqrt ops
  | .min => floatOut dst cs (x.min y) ops
  | .max => floatOut dst cs (x.max y) ops
  | .cmp k =>
    let h := k.holds a b
    ⟨.int (b2n h), b2n h, operandFlags ops⟩
  | .select =>
    let v := if pred then a else b
    match v with
    | .int i => if floatFmt dst then floatOut dst cs (Flt.ofInt i) [] else intOut dst i
    | .flt f => floatOut dst cs f [f]
  | .convert toZero =>
    match a with
    | .int i => if floatFmt dst then floatOut dst cs (Flt.ofInt i) [] else
        let hi : Int := if dst = .uint8 then 255 else 2 ^ 31 - 1
        let lo : Int := if dst = .uint8 then 0 else -(2 ^ 31)
        let j := Max.max lo (Min.min hi i)
        { intOut dst j with flags := flagIf (j ≠ i) fSat }
    | .flt f =>
      if floatFmt dst then
        let sp := (dst.spec).getD fp32
        ⟨.flt (decodeF sp (encodeF sp f)), encodeF sp f, resultFlags sp f [f]⟩
      else
        let r := if dst = .uint8 then toIntRange toZero 0 255 f else toIntRange toZero (-(2 ^ 31)) (2 ^ 31 - 1) f
        { intOut dst r.1 with flags := operandFlags [f] ||| flagIf r.2 fSat }
  | .trans k =>
    let p := encodeF fp32 x
    let r := decodeF fp32 (transFp32 k p)
    let f := operandFlags ops ||| flagIf (r.isNan && !x.isNan) fInvalid ||| flagIf (r.isInf && !x.nonfinite) fOverflow
      ||| flagIf (match r with | .fin _ m _ => m ≠ 0 && fp32.low (encodeF fp32 r) | _ => false) fTiny
    match dst.spec with
    | some sp => ⟨.flt r, encodeF sp r, f ||| (if sp = fp32 then 0 else roundFlags sp r)⟩
    | none => ⟨.flt r, (encodeVal dst (.flt r)).1, f⟩
  | .iadd => intOut dst (a.toInt + b.toInt)
  | .iand => intOut dst (pa &&& pb : Nat)
  | .ior => intOut dst (pa ||| pb : Nat)
  | .ixor => intOut dst (pa ^^^ pb : Nat)
  | .inot => intOut dst (2 ^ dst.bits - 1 - (pa : Int) % 2 ^ dst.bits)
  | .ishl => shiftOut dst pa pb (pa * 2 ^ pb : Nat)
  | .ishr => shiftOut dst pa pb (pa / 2 ^ pb : Nat)
  | .isar => shiftOut dst pa pb (a.toInt / 2 ^ pb)

/-! ### The reduction unit (R139, R140) -/

/-- A node of a reduction: value, index (−1 for none) and integer. -/
structure Node where
  val : Nat
  ix  : Int
  int : Int
  deriving DecidableEq, Repr

/-- The FP32 pattern of a leaf's value. -/
def Val.fp32 (v : Val) : Nat := encodeF Machine.fp32 v.toFlt

/-- A leaf (R139). -/
def RedFn.leaf (f : RedFn) (v : Val) (ix : Nat) : Node :=
  let p := v.fp32
  match f with
  | .sumsq | .norm2 => ⟨fMul Machine.fp32 p p, ix, 0⟩
  | .amax => ⟨encodeF Machine.fp32 (decodeF Machine.fp32 p).abs, ix, 0⟩
  | .countZero => ⟨0, ix, b2n v.toFlt.isZero⟩
  | .countNonfinite => ⟨0, ix, b2n v.toFlt.nonfinite⟩
  | .isum => ⟨0, ix, v.toInt⟩
  | _ => ⟨p, ix, 0⟩

/-- ARGMAX and ARGMIN of two nodes, the first of lower index: the better value; among equal values, or NaNs, the lower index. -/
def argBest (maxi : Bool) (a b : Node) : Node :=
  let x := decodeF Machine.fp32 a.val
  let y := decodeF Machine.fp32 b.val
  if x.isNan then { a with val := 0x7FC00000 }
  else if y.isNan then { b with val := 0x7FC00000 }
  else if (if maxi then x.lt y else y.lt x) then b else a

/-- The combination of two nodes (R139). -/
def RedFn.combine (f : RedFn) (a b : Node) : Node :=
  match f with
  | .sum | .sumsq | .norm2 => ⟨fAdd Machine.fp32 a.val b.val, a.ix, 0⟩
  | .max | .amax => ⟨f32max a.val b.val, a.ix, 0⟩
  | .min => ⟨f32min a.val b.val, a.ix, 0⟩
  | .argmax => argBest true a b
  | .argmin => argBest false a b
  | .countZero | .countNonfinite => ⟨0, a.ix, a.int + b.int⟩
  | .isum => ⟨0, a.ix, toSigned 32 (ofInt 32 (a.int + b.int))⟩

/-- The identity of a function (R140). -/
def RedFn.identity (f : RedFn) : Node :=
  match f with
  | .max | .argmax => ⟨0xFF800000, -1, 0⟩
  | .min | .argmin => ⟨0x7F800000, -1, 0⟩
  | _ => ⟨0, -1, 0⟩

/-- Whether a function's result is an integer. -/
def RedFn.integer : RedFn → Bool
  | .countZero | .countNonfinite | .isum => true
  | _ => false

/-- A reduction of leaves in the canonical tree (R140): the 32-bit result, and the index of ARGMAX and ARGMIN. -/
def RedFn.reduce (f : RedFn) (xs : List (Val × Nat)) : Nat × Int :=
  let n := tree f.combine f.identity (xs.map fun p => f.leaf p.1 p.2)
  let v := if f.integer then ofInt 32 n.int
    else match f with
      | .sum | .sumsq => sumRoot n.val
      | .norm2 => fSqrt Machine.fp32 n.val
      | _ => n.val
  (v, n.ix)

/-- The groups that a channel reduces (R139): for each result, the linear indices of its elements and their logical indices. -/
def RedMode.groups (m : RedMode) (space : List Nat) : List (List (Nat × Nat)) :=
  let n := prod space
  let e0 := space.getD 0 1
  let e1 := space.getD 1 1
  match m with
  | .row => (List.range (n / e0)).map fun r => (List.range e0).map fun i => (r * e0 + i, i)
  | .column =>
    (List.range (n / (e0 * e1))).flatMap fun o => (List.range e0).map fun i =>
      (List.range e1).map fun j => (o * e0 * e1 + j * e0 + i, j)
  | .scalar _ => [(List.range n).map fun i => (i, i)]

/-! ### VECTOR_OPERATION -/

/-- The footprint of a source with a zero stride, for the broadcast store (R126): bytes, and whether it qualifies. -/
def Desc.footprint (x : Desc) (space : List Nat) : Option Nat :=
  let ds := x.strides.zip space
  let n := elemBytes x.fmt * prod ((ds.filter fun p => p.1 ≠ 0).map fun p => p.2)
  if ds.any (fun p => p.1 = 0 && p.2 > 1) && n ≤ 32768 then some n else none

/-- The lowest and highest addresses of an operand's elements. -/
def Desc.span (x : Desc) (space : List Nat) : Nat × Nat :=
  let ends := x.strides.zip space
  let lo := ends.foldl (fun (a : Int) p => if p.1 < 0 then a + p.1 * (p.2 - 1) * elemBytes x.fmt else a) x.base
  let hi := ends.foldl (fun (a : Int) p => if p.1 > 0 then a + p.1 * (p.2 - 1) * elemBytes x.fmt else a) x.base
  (lo.toNat, hi.toNat + elemBytes x.fmt)

/-- Makes room in the broadcast store, least recently used first (R126): at most 4 sources and 64 KiB. -/
def makeRoom (need : Nat) : List HeldSource → List HeldSource
  | [] => []
  | h :: t => if (h :: t).length < 4 && ((h :: t).map fun x => x.size).sum + need ≤ 65536 then h :: t else makeRoom need t

/-- Serves from the broadcast store a source that lies inside a held range, whatever its strides, or holds one whose footprint qualifies
(R126): the core, and whether a load was made. -/
def Core.holdRange (c : Core) (fmt : Format) (lo hi : Nat) (footprint : Option Nat) : Core × Bool :=
  match c.held.find? fun h => h.fmt = fmt && h.low ≤ lo && hi ≤ h.high with
  | some h => ({ c with held := c.held.filter (· ≠ h) ++ [h] }, false)
  | none =>
    match footprint with
    | none => (c, false)
    | some n => ({ c with held := makeRoom n c.held ++ [{ fmt := fmt, low := lo, high := hi, size := n }] }, true)

/-- Serves a source from the broadcast store, or loads it (R126). -/
def Core.hold (c : Core) (x : Desc) (space : List Nat) : Core × Bool :=
  let (lo, hi) := x.span space
  c.holdRange x.fmt lo hi (x.footprint space)

/-- Loads sources into the broadcast store and counts the loads (R126, R424). -/
def State.holdSources (s : State) (e : Entry) (core : Nat) (srcs : List Desc) (space : List Nat) : State :=
  srcs.foldl (fun s x =>
    let (c, loaded) := (s.eng.core core).hold x space
    { s with
      dev := if loaded then s.dev.countCore core 0x00C e.lot 1 else s.dev
      eng := s.eng.setCore core c }) s

/-- Writes the result of a channel (R138, R139, R142): to a destination in the store, or to a scalar summary register, whose high
half holds the index of ARGMAX and ARGMIN (assumption 13, DESIGN CHOICE). -/
def State.putChannel (s : State) (core : Nat) (ch : Channel) (space : List Nat) (results : List (Nat × Int)) : State :=
  match ch.mode with
  | .scalar reg =>
    let r := results.getD 0 (0, -1)
    let arg := ch.fn.indexed
    let c := s.eng.core core
    let v := if arg then r.1 + ofInt 32 r.2 * 2 ^ 32 else r.1
    { s with eng := s.eng.setCore core { c with scalars := Tab.put 0 v c.scalars reg } }
  | m =>
    let put (x : Desc) (s : State) (vals : List Nat) : State :=
      vals.zipIdx.foldl (fun s v => s.storeWrite core (x.addr (indexOf (m.space space) v.2)).toNat (toLE 4 v.1)) s
    let s := put ch.dst s (results.map fun r => r.1)
    if ch.fn.indexed then put ch.ixDst s (results.map fun r => ofInt 32 r.2) else s

/-- Whether every result that a channel writes lies in the local store (R130). -/
def Channel.inside (ch : Channel) (space : List Nat) : Bool :=
  match ch.mode with
  | .scalar _ => true
  | m => ch.dst.inside (m.space space) && (!ch.fn.indexed || ch.ixDst.inside (m.space space))

/-- VECTOR_OPERATION (R80, R123 to R130, R135, R139, R140): every source element is read before any is written. Assumption 46, DESIGN CHOICE. -/
def vectorBody (core : Nat) (op : VectorOp) (e : Entry) (s : State) : Except Status State := do
  if !op.wf then throw .eParam
  let space := op.dst.extents
  let n := prod space
  let c := s.eng.core core
  let isCmp := match op.op with | .cmp _ => true | _ => false
  let writes := !isCmp
  if !(op.srcs.all fun x => x.inside space) || (writes && !op.dst.inside space) then throw .eParam
  if !(op.channels.all fun ch => ch.inside space) then throw .eParam
  let preds := match op.mask with
    | some k => Tab.look [] c.masks k
    | none => []
  let masked (lin : Nat) : Bool := op.op ≠ .select && op.mask.isSome && !preds.getD lin false
  let outs := (List.range n).map fun lin =>
    let ix := indexOf space lin
    elemOp op.op op.dst.fmt (op.srcs.map fun x => (x.fmt, x.get s.eng core ix)) (preds.getD lin false)
  let live := (List.range n).filter fun lin => !masked lin
  let flags := live.foldl (fun f lin => f ||| (outs.getD lin ⟨.int 0, 0, 0⟩).flags) 0
  let stream (ch : Channel) (lin : Nat) : Val := match ch.input with
    | none => (outs.getD lin ⟨.int 0, 0, 0⟩).value
    | some i =>
      match op.srcs[i]? with
      | some x => decodeVal x.fmt (x.get s.eng core (indexOf space lin))
      | none => .int 0
  let fed (ch : Channel) : List (List (Val × Nat)) :=
    (ch.mode.groups space).map fun g => (g.filter fun p => !masked p.1).map fun p => (stream ch p.1, p.2)
  let emptyRow (ch : Channel) : Bool := (fed ch).any fun g => !g.isEmpty && g.all fun p => p.1.toFlt = .inf true
  let chans := op.channels.map fun ch => (ch, (fed ch).map ch.fn.reduce)
  let s := s.holdSources e core op.srcs space
  let s := if writes then
      live.foldl (fun s lin =>
        s.storeWrite core (op.dst.addr (indexOf space lin)).toNat
          (toLE (elemBytes op.dst.fmt) (outs.getD lin ⟨.int 0, 0, 0⟩).bits)) s
    else
      let old := Tab.look [] (s.eng.core core).masks op.maskOut
      let new := (List.range n).map fun lin =>
        if masked lin then old.getD lin false else (outs.getD lin ⟨.int 0, 0, 0⟩).bits = 1
      { s with eng := s.eng.setCore core { s.eng.core core with masks := Tab.put [] new (s.eng.core core).masks op.maskOut } }
  let s := chans.foldl (fun s p => s.putChannel core p.1 space p.2) s
  let s := s.raiseFlags e core (flags ||| flagIf (op.channels.any fun ch => ch.softmax && emptyRow ch) fEmptyRow)
  let s := match op.summary with
    | none => s
    | some reg =>
      let c := s.eng.core core
      { s with eng := s.eng.setCore core { c with scalars := Tab.put 0 c.sticky c.scalars reg } }
  let sat := if [Format.e4m3, .e5m2].contains op.dst.fmt then
      (live.filter fun lin => (outs.getD lin ⟨.int 0, 0, 0⟩).flags.testBit 5).length else 0
  let nf := match op.op, op.dst.fmt.spec with
    | .convert _, some sp => (live.filter fun lin => fNonfinite sp (outs.getD lin ⟨.int 0, 0, 0⟩).bits).length
    | _, _ => 0
  let s := { s with dev := (s.dev.noteSaturated e sat).addNwatch e.lot 7 nf }
  let d := (s.dev.countVector core e.lot n).countCore core 0x00A e.lot (n - live.length)
  pure { s with dev := d.countCore core 0x00D e.lot (chans.map fun p => p.2.length).sum }

/-- VECTOR_OPERATION. -/
def execVectorOperation (core : CoreId) (op : VectorOp) (s : State) : Out :=
  .next (s.onCore core (vectorBody core op))

/-- BROADCAST_LOAD: an operation that loads sources into the broadcast store without computing (R126). -/
def execBroadcastLoad (core : CoreId) (srcs : List Desc) (extents : List Nat) (s : State) : Out :=
  .next (s.onCore core fun e s =>
    if spaceOk extents && srcs.all fun x => x.wf extents && x.inside extents then .ok (s.holdSources e core srcs extents)
    else .error .eParam)

/-! ### PERMUTE and SHUFFLE (R131, R132) -/

/-- Element i of a byte string of `w`-byte elements. -/
def elemAt (w i : Nat) (b : Bytes) : Bytes := (b.drop (i * w)).take w

/-- PERMUTE within each slice of 128 bytes (R131). -/
def permuteBytes (w : Nat) (src index : Bytes) (broadcast : Bool) : Bytes :=
  let per := 128 / w
  (List.range (src.length / w)).flatMap fun e =>
    let k := (rd index (if broadcast then e % per else e) 1) % per
    elemAt w (e / per * per + k) src

/-- Serves a UINT8 source of consecutive bytes from the broadcast store, or loads it where it is broadcast (R126, R131). -/
def State.holdBytes (s : State) (e : Entry) (core lo n : Nat) (footprint : Option Nat) : State :=
  let (c, loaded) := (s.eng.core core).holdRange .uint8 lo (lo + n) footprint
  { s with
    dev := if loaded then s.dev.countCore core 0x00C e.lot 1 else s.dev
    eng := s.eng.setCore core c }

/-- Whether a permute has one of the forms of R131. -/
def PermuteOp.wf (op : PermuteOp) : Bool := [1, 2, 4].contains op.width && 1 ≤ op.groups

/-- PERMUTE. -/
def execPermute (core : CoreId) (op : PermuteOp) (s : State) : Out :=
  .next (s.onCore core fun e s =>
    let n := op.groups * 2048
    let entries := if op.broadcast then 128 / op.width else n / op.width
    if op.wf && spanOk op.src n && spanOk op.dst n && spanOk op.index entries then
      let out := permuteBytes op.width (s.eng.read core op.src n) (s.eng.read core op.index entries) op.broadcast
      let s := s.holdBytes e core op.index entries (if op.broadcast then some entries else none)
      let s := s.storeWrite core op.dst out
      .ok { s with dev := s.dev.countVector core e.lot (n / op.width) }
    else .error .eParam)

/-- The source element of result element e of a group of G elements (R132). `gen` is the general index vector. -/
def Shuffle.source (p : Shuffle) (g e : Nat) (gen : Nat) : Nat :=
  match p with
  | .rotate r => (e + r) % g
  | .exchange j => (e ^^^ 2 ^ j) % g
  | .reverse => g - 1 - e
  | .transpose => 32 * (e % 32 % 16) + 2 * (e / 32) + e % 32 / 16
  | .general _ => gen % g

/-- Whether a shuffle has one of the forms of R132. -/
def ShuffleOp.wf (op : ShuffleOp) : Bool :=
  [1, 2, 4, 8].contains op.width && 1 ≤ op.groups
    && (match op.pattern with
        | .exchange j => 2 ^ j < 2048 / op.width
        | .transpose => op.width = 4
        | _ => true)

/-- The general index vector of a shuffle: UINT8 entries cannot name every element of a group, so its entries are 16 bits wide
(assumption 14, DEDUCED). -/
def ShuffleOp.indexBytes (op : ShuffleOp) : Nat :=
  match op.pattern with
  | .general _ => 2 * (2048 / op.width)
  | _ => 0

/-- SHUFFLE, group by group (R132). -/
def execShuffle (core : CoreId) (op : ShuffleOp) (s : State) : Out :=
  .next (s.onCore core fun e s =>
    let n := op.groups * 2048
    let g := 2048 / op.width
    let ia := match op.pattern with | .general a => a | _ => 0
    if op.wf && spanOk op.src n && spanOk op.dst n && spanOk ia op.indexBytes then
      let src := s.eng.read core op.src n
      let index := s.eng.read core ia op.indexBytes
      let out := (List.range (op.groups * g)).flatMap fun i =>
        elemAt op.width (i / g * g + op.pattern.source g (i % g) (rd index (2 * (i % g)) 2)) src
      let s := s.storeWrite core op.dst out
      .ok { s with dev := s.dev.countVector core e.lot (n / op.width) }
    else .error .eParam)

end Sys2Proof.Machine
end

