-- ==== Sys2Proof/Machine/Dispatch.lean ====
section
/-! DEFINITION. The dispatch of every command to its meaning, one arm for each constructor of Instr. -/
namespace Sys2Proof.Machine

/-- The effect of a command on everything but the queue. -/
def exec (i : Instr) (s : State) : Host.Outcome State Fault Refusal :=
  match i with
  | .commandFetch lot queue reads => Sys2Proof.Machine.execCommandFetch lot queue reads s
  | .journalMirrorAck lot queue host => Sys2Proof.Machine.execJournalMirrorAck lot queue host s
  | .commandDispatch stream => Sys2Proof.Machine.execCommandDispatch stream s
  | .commandCommit stream => Sys2Proof.Machine.execCommandCommit stream s
  | .replyWrite lot queue => Sys2Proof.Machine.execReplyWrite lot queue s
  | .streamOpen stream => Sys2Proof.Machine.execStreamOpen stream s
  | .streamClose stream => Sys2Proof.Machine.execStreamClose stream s
  | .streamFence stream => Sys2Proof.Machine.execStreamFence stream s
  | .tensorCreate stream => Sys2Proof.Machine.execTensorCreate stream s
  | .tensorFree stream => Sys2Proof.Machine.execTensorFree stream s
  | .tensorHint stream => Sys2Proof.Machine.execTensorHint stream s
  | .tensorPin stream => Sys2Proof.Machine.execTensorPin stream s
  | .opLaunch stream decl => Sys2Proof.Machine.execOpLaunch stream decl s
  | .graphLaunch stream decl => Sys2Proof.Machine.execGraphLaunch stream decl s
  | .dmaCopy stream => Sys2Proof.Machine.execDmaCopy stream s
  | .dmaReshuffle stream => Sys2Proof.Machine.execDmaReshuffle stream s
  | .dmaDescriptor channel reads move => Sys2Proof.Machine.execDmaDescriptor channel reads move s
  | .mapDeclare stream => Sys2Proof.Machine.execMapDeclare stream s
  | .mapDeclareQuery stream => Sys2Proof.Machine.execMapDeclareQuery stream s
  | .redraw stream => Sys2Proof.Machine.execRedraw stream s
  | .collective stream peers linkLost => Sys2Proof.Machine.execCollective stream peers linkLost s
  | .gradDeliver stream peers peerNonfinite linkLost => Sys2Proof.Machine.execGradDeliver stream peers peerNonfinite linkLost s
  | .rethread stream input => Sys2Proof.Machine.execRethread stream input s
  | .releaseNotice job => Sys2Proof.Machine.execReleaseNotice job s
  | .shardUpdate stream => Sys2Proof.Machine.execShardUpdate stream s
  | .stepCommit stream input => Sys2Proof.Machine.execStepCommit stream input s
  | .secureNow stream => Sys2Proof.Machine.execSecureNow stream s
  | .secureNowRestore stream source => Sys2Proof.Machine.execSecureNowRestore stream source s
  | .diffStreamCtl stream => Sys2Proof.Machine.execDiffStreamCtl stream s
  | .diffRecordWrite job progress => Sys2Proof.Machine.execDiffRecordWrite job progress s
  | .snapshotShip stream => Sys2Proof.Machine.execSnapshotShip stream s
  | .snapshotPeerMatch stream peer => Sys2Proof.Machine.execSnapshotPeerMatch stream peer s
  | .snapshotPeerTimeout stream => Sys2Proof.Machine.execSnapshotPeerTimeout stream s
  | .digestCheck stream => Sys2Proof.Machine.execDigestCheck stream s
  | .spareAdopt stream input => Sys2Proof.Machine.execSpareAdopt stream input s
  | .adoptionNotice position gen rejoin => Sys2Proof.Machine.execAdoptionNotice position gen rejoin s
  | .statsConfig stream => Sys2Proof.Machine.execStatsConfig stream s
  | .solve stream => Sys2Proof.Machine.execSolve stream s
  | .solveStart unit => Sys2Proof.Machine.execSolveStart unit s
  | .solverStepBoundary unit errors => Sys2Proof.Machine.execSolverStepBoundary unit errors s
  | .solveDeadlineExpiry stream => Sys2Proof.Machine.execSolveDeadlineExpiry stream s
  | .blend lot factor expert peers => Sys2Proof.Machine.execBlend lot factor expert peers s
  | .precondInstall stream => Sys2Proof.Machine.execPrecondInstall stream s
  | .lotCreate stream host => Sys2Proof.Machine.execLotCreate stream host s
  | .lotDestroy stream => Sys2Proof.Machine.execLotDestroy stream s
  | .configApply stream host => Sys2Proof.Machine.execConfigApply stream host s
  | .configRollback stream => Sys2Proof.Machine.execConfigRollback stream s
  | .configInstall => Sys2Proof.Machine.execConfigInstall s
  | .drainLimitExpiry => Sys2Proof.Machine.execDrainLimitExpiry s
  | .hostRole stream => Sys2Proof.Machine.execHostRole stream s
  | .powerPolicy stream => Sys2Proof.Machine.execPowerPolicy stream s
  | .domainEnable stream => Sys2Proof.Machine.execDomainEnable stream s
  | .domainDisable stream => Sys2Proof.Machine.execDomainDisable stream s
  | .pmonConfig stream => Sys2Proof.Machine.execPmonConfig stream s
  | .watchConfig stream => Sys2Proof.Machine.execWatchConfig stream s
  | .ledgerAudit stream => Sys2Proof.Machine.execLedgerAudit stream s
  | .selvageRead stream => Sys2Proof.Machine.execSelvageRead stream s
  | .selftest stream faultCode => Sys2Proof.Machine.execSelftest stream faultCode s
  | .sqEnableSet fn lot queue value => Sys2Proof.Machine.execSqEnableSet fn lot queue value s
  | .sqEnableClear fn lot queue value => Sys2Proof.Machine.execSqEnableClear fn lot queue value s
  | .sqTailWrite fn lot queue value => Sys2Proof.Machine.execSqTailWrite fn lot queue value s
  | .rqHeadWrite fn lot queue value => Sys2Proof.Machine.execRqHeadWrite fn lot queue value s
  | .evqEnableSet fn lot value => Sys2Proof.Machine.execEvqEnableSet fn lot value s
  | .evqEnableClear fn lot value => Sys2Proof.Machine.execEvqEnableClear fn lot value s
  | .evqHeadWrite fn lot value => Sys2Proof.Machine.execEvqHeadWrite fn lot value s
  | .evqMaskSet fn word value => Sys2Proof.Machine.execEvqMaskSet fn word value s
  | .evqMaskClr fn word value => Sys2Proof.Machine.execEvqMaskClr fn word value s
  | .evqPendSet fn word value => Sys2Proof.Machine.execEvqPendSet fn word value s
  | .evqPendClr fn word value => Sys2Proof.Machine.execEvqPendClr fn word value s
  | .handlerCompletionWrite consumer => Sys2Proof.Machine.execHandlerCompletionWrite consumer s
  | .msixVectorUnmask fn entry => Sys2Proof.Machine.execMsixVectorUnmask fn entry s
  | .dmaEnReq fn channel => Sys2Proof.Machine.execDmaEnReq fn channel s
  | .dmaDisReq fn channel => Sys2Proof.Machine.execDmaDisReq fn channel s
  | .dmaHaltedClear fn channel => Sys2Proof.Machine.execDmaHaltedClear fn channel s
  | .linkEnReq fn port => Sys2Proof.Machine.execLinkEnReq fn port s
  | .linkDisReq fn port => Sys2Proof.Machine.execLinkDisReq fn port s
  | .retrain fn port => Sys2Proof.Machine.execRetrain fn port s
  | .pwrResetCold fn value => Sys2Proof.Machine.execPwrResetCold fn value s
  | .pwrResetWarm fn value => Sys2Proof.Machine.execPwrResetWarm fn value s
  | .secHelloStart fn hostVer => Sys2Proof.Machine.execSecHelloStart fn hostVer s
  | .attachReady attach => Sys2Proof.Machine.execAttachReady attach s
  | .registerWrite fn offset wide value => Sys2Proof.Machine.execRegisterWrite fn offset wide value s
  | .registerReadClear fn offset wide => Sys2Proof.Machine.execRegisterReadClear fn offset wide s
  | .powerOn => Sys2Proof.Machine.execPowerOn s
  | .coldStart input => Sys2Proof.Machine.execColdStart input s
  | .pwrgdFall => Sys2Proof.Machine.execPwrgdFall s
  | .warmReset input => Sys2Proof.Machine.execWarmReset input s
  | .fatalCondition stream => Sys2Proof.Machine.execFatalCondition stream s
  | .pwrWarnNAssert => Sys2Proof.Machine.execPwrWarnNAssert s
  | .powerFailFlushDone warnHigh railsInRange => Sys2Proof.Machine.execPowerFailFlushDone warnHigh railsInRange s
  | .railUndervoltage rail => Sys2Proof.Machine.execRailUndervoltage rail s
  | .railOvervoltage rail => Sys2Proof.Machine.execRailOvervoltage rail s
  | .thermalTrip => Sys2Proof.Machine.execThermalTrip s
  | .thermalThrottle celsius => Sys2Proof.Machine.execThermalThrottle celsius s
  | .pllLockLoss => Sys2Proof.Machine.execPllLockLoss s
  | .pllLockRetry locks => Sys2Proof.Machine.execPllLockRetry locks s
  | .powerTelemetry watts10ms watts100ms => Sys2Proof.Machine.execPowerTelemetry watts10ms watts100ms s
  | .avsbusAck rail => Sys2Proof.Machine.execAvsbusAck rail s
  | .avsbusTimeout rail => Sys2Proof.Machine.execAvsbusTimeout rail s
  | .dividerChange => Sys2Proof.Machine.execDividerChange s
  | .c2Entry unit edge => Sys2Proof.Machine.execC2Entry unit edge s
  | .c3Entry unit edge => Sys2Proof.Machine.execC3Entry unit edge s
  | .d0IdleEntry => Sys2Proof.Machine.execD0IdleEntry s
  | .wakeTimerExpiry => Sys2Proof.Machine.execWakeTimerExpiry s
  | .wakeNAssert => Sys2Proof.Machine.execWakeNAssert s
  | .wake unit source => Sys2Proof.Machine.execWake unit source s
  | .scanHaltRequest core => Sys2Proof.Machine.execScanHaltRequest core s
  | .perstNRelease attach link => Sys2Proof.Machine.execPerstNRelease attach link s
  | .hostLinkRetry attach link => Sys2Proof.Machine.execHostLinkRetry attach link s
  | .hostDetach attach cause => Sys2Proof.Machine.execHostDetach attach cause s
  | .standbyTakeover => Sys2Proof.Machine.execStandbyTakeover s
  | .d3hotEntry fn => Sys2Proof.Machine.execD3hotEntry fn s
  | .functionLevelReset fn => Sys2Proof.Machine.execFunctionLevelReset fn s
  | .spdmRequest attach kind request => Sys2Proof.Machine.execSpdmRequest attach kind request s
  | .ideKmKeyProgram attach stream => Sys2Proof.Machine.execIdeKmKeyProgram attach stream s
  | .ideStreamInsecure attach stream integrity => Sys2Proof.Machine.execIdeStreamInsecure attach stream integrity s
  | .tdispRequest lot message => Sys2Proof.Machine.execTdispRequest lot message s
  | .stopInterface lot => Sys2Proof.Machine.execStopInterface lot s
  | .mctpMessage message => Sys2Proof.Machine.execMctpMessage message s
  | .jtagInstruction instruction => Sys2Proof.Machine.execJtagInstruction instruction s
  | .flitReceive port flit fecBad corrected => Sys2Proof.Machine.execFlitReceive port flit fecBad corrected s
  | .replayReceive port seq => Sys2Proof.Machine.execReplayReceive port seq s
  | .identityReceive port record => Sys2Proof.Machine.execIdentityReceive port record s
  | .portLinkLoss port => Sys2Proof.Machine.execPortLinkLoss port s
  | .laserBiasDone port ok => Sys2Proof.Machine.execLaserBiasDone port ok s
  | .laneAdaptDone port outcome => Sys2Proof.Machine.execLaneAdaptDone port outcome s
  | .fecLock port locked => Sys2Proof.Machine.execFecLock port locked s
  | .identityResend port => Sys2Proof.Machine.execIdentityResend port s
  | .identityTimeout port => Sys2Proof.Machine.execIdentityTimeout port s
  | .portDownRetry port => Sys2Proof.Machine.execPortDownRetry port s
  | .portDisableTimeout port => Sys2Proof.Machine.execPortDisableTimeout port s
  | .cutPairNotice a b cut => Sys2Proof.Machine.execCutPairNotice a b cut s
  | .messageNack nack => Sys2Proof.Machine.execMessageNack nack s
  | .mirrorAck stream handle shard => Sys2Proof.Machine.execMirrorAck stream handle shard s
  | .commitNotice lot handle shard news => Sys2Proof.Machine.execCommitNotice lot handle shard news s
  | .jobDeadlineExpiry stream => Sys2Proof.Machine.execJobDeadlineExpiry stream s
  | .fenceTimeout stream => Sys2Proof.Machine.execFenceTimeout stream s
  | .phaseBoundary job => Sys2Proof.Machine.execPhaseBoundary job s
  | .shardGather stream slot shard gather dest => Sys2Proof.Machine.execShardGather stream slot shard gather dest s
  | .storageReturn lot index => Sys2Proof.Machine.execStorageReturn lot index s
  | .placementEpoch lines traffic => Sys2Proof.Machine.execPlacementEpoch lines traffic s
  | .extentMove extent errors => Sys2Proof.Machine.execExtentMove extent errors s
  | .extentRetire extent => Sys2Proof.Machine.execExtentRetire extent s
  | .patrolScrub addr badSymbols other => Sys2Proof.Machine.execPatrolScrub addr badSymbols other s
  | .ledgerSramError ledger inst double => Sys2Proof.Machine.execLedgerSramError ledger inst double s
  | .eventRecordAccept => Sys2Proof.Machine.execEventRecordAccept s
  | .holdoffTimerExpiry lot => Sys2Proof.Machine.execHoldoffTimerExpiry lot s
  | .dumpTick lot lostUnits => Sys2Proof.Machine.execDumpTick lot lostUnits s
  | .kernelEntry core stream => Sys2Proof.Machine.execKernelEntry core stream s
  | .matrixTile core tile => Sys2Proof.Machine.execMatrixTile core tile s
  | .vectorOperation core op => Sys2Proof.Machine.execVectorOperation core op s
  | .broadcastLoad core srcs extents => Sys2Proof.Machine.execBroadcastLoad core srcs extents s
  | .permute core op => Sys2Proof.Machine.execPermute core op s
  | .shuffle core op => Sys2Proof.Machine.execShuffle core op s
  | .mxUnpack core op => Sys2Proof.Machine.execMxUnpack core op s
  | .mxPack core op => Sys2Proof.Machine.execMxPack core op s
  | .sp24Pack core op => Sys2Proof.Machine.execSp24Pack core op s
  | .sp24Unpack core op => Sys2Proof.Machine.execSp24Unpack core op s
  | .bitsPack core op => Sys2Proof.Machine.execBitsPack core op s
  | .bitsUnpack core op => Sys2Proof.Machine.execBitsUnpack core op s
  | .interleave core op => Sys2Proof.Machine.execInterleave core op s
  | .deinterleave core op => Sys2Proof.Machine.execDeinterleave core op s
  | .shuttleDispatch stream task => Sys2Proof.Machine.execShuttleDispatch stream task s
  | .atomicAdd op => Sys2Proof.Machine.execAtomicAdd op s
  | .atomicMin op => Sys2Proof.Machine.execAtomicMin op s
  | .atomicMax op => Sys2Proof.Machine.execAtomicMax op s
  | .atomicAnd op => Sys2Proof.Machine.execAtomicAnd op s
  | .atomicOr op => Sys2Proof.Machine.execAtomicOr op s
  | .atomicXor op => Sys2Proof.Machine.execAtomicXor op s
  | .atomicSwap op => Sys2Proof.Machine.execAtomicSwap op s
  | .atomicCas op => Sys2Proof.Machine.execAtomicCas op s
  | .reductionContribution region line index values => Sys2Proof.Machine.execReductionContribution region line index values s
  | .stackRetrainDone stack => Sys2Proof.Machine.execStackRetrainDone stack s
  | .jobMatchArrival stream member ordinal digest => Sys2Proof.Machine.execJobMatchArrival stream member ordinal digest s
  | .srcCommitAck stream member => Sys2Proof.Machine.execSrcCommitAck stream member s
  | .quotaWaitDeadline stream => Sys2Proof.Machine.execQuotaWaitDeadline stream s

end Sys2Proof.Machine
end

