-- ==== Sys2Proof/Machine/Ticks.lean ====
section
/-!
DEFINITION. One tick of TIME (R23, R25): what happens to the device with the passing of time alone, while no command waits
(assumption 1, DESIGN CHOICE).
-/
namespace Sys2Proof.Machine

/-- Every DMA channel in motion (R241). -/
def Device.tickChannels (d : Device) : Device := d.dma.foldl (fun d c => d.setChannel c.1 (d.channel c.1).tick) d

/-- Every weft port (R285, R287). -/
def Device.tickPorts (d : Device) : Device := (d.links.ports.map fun p => p.1).foldl Device.tickPort d

/-- A core that runs a kernel, and a package with work, are not idle (R401, R402). -/
def State.tickIdle (s : State) : State :=
  let busy := (s.eng.cores.map fun c => c.1).filter fun n => !s.coreIdle n
  let d := busy.foldl (fun (d : Device) n => d.setCoreDom n { d.coreDom n with idleSince := d.time }) s.dev
  { s with dev := if d.packageIdle then d else { d with power := { d.power with idleSince := d.time } } }

/-- Ticks of TIME in a patrol-scrub period (R215). -/
def Memory.scrubTicks (m : Memory) : Nat := max 1 m.scrubPeriod * 3600 * 100000000

/-- At the end of a scrub period a new pass begins, and the corrected errors of each extent are counted afresh (R215, R216). Assumption 116, DESIGN
CHOICE. -/
def Device.tickScrub (d : Device) : Device :=
  if d.time % d.mem.scrubTicks = 0 then { d with mem := { d.mem with corrected := [], scrubPos := 0 } } else d

/-- Function-level resets that have had their 100 ms end: the vectors of their functions can be reached again, and unconsumed records are signalled
(R359, R390). -/
def Device.tickFlr (d : Device) : Device :=
  let ended := (d.hosts.flr.filter fun f => f.2 ≤ d.time).map fun f => f.1
  if ended.isEmpty then d
  else
    let d := { d with hosts := { d.hosts with flr := d.hosts.flr.filter fun f => d.time < f.2 } }
    let lots := (List.range Config.lots).filter fun l =>
      (d.vectorOf l).any fun v => ended.contains v.1.key || ended.contains ({ v.1 with vf := none } : Fn).key
    lots.foldl Device.resignal d

/-- Every slice with queued atomics performs a line operation (R220, R221). -/
def State.tickAtomics (s : State) : State :=
  if !s.dev.running then s
  else ((s.dev.mem.atomics.map IssuedAtomic.slice).eraseDups).foldl State.serveAtomic s

/-- One tick of TIME while the root PLL is locked. -/
def State.tick (s : State) : State :=
  if !s.dev.clocked then s
  else
    let d := { s.dev with time := (s.dev.time + 1) % 2 ^ 64 }
    let s := { s with dev := d.tickChannels.tickPorts.tickScrub.tickFlr }.tickDomains.tickIdle
    { s with dev := s.dev.tickCounters }.tickAtomics

end Sys2Proof.Machine
end

