-- ==== Sys2Proof/WellFormed.lean ====
section
/-!
DEFINITION. Well-formed commands: those whose operands have a shape that the device's interfaces can carry. The meaning of another one changes
nothing, or fails the launch that it works for (assumption 132, DEDUCED).
-/
namespace Sys2Proof

open Machine

/-- Whether an operator channel's move, and only its, stands with a DMA_DESCRIPTOR (R228). -/
def moveWf (channel : ChannelId) (move : Option OperatorMove) : Bool :=
  match move with
  | none => !operatorChannel channel
  | some m => operatorChannel channel && decide (m.core.val / 8 = channel.val / 16)

/-- Well-formed commands: natural alignment of register accesses (R7), the forms of atomics (R220), of engine operations (R97, R123 to R134),
of DMA moves (R228), records and flits of their full length (R278, R286), wakes that R403 lists, and ledger instances that exist (R436). Every
other operand is well-formed by its type. -/
def Instr.wf : Instr → Bool
  | .dmaDescriptor c _ m => moveWf c m
  | .registerWrite _ o w _ => accessAligned o.toNat w
  | .registerReadClear _ o w => accessAligned o.toNat w
  | .c2Entry u e => u.entryOk e
  | .c3Entry u e => u.entryOk e
  | .wake u w => u.wakes w
  | .flitReceive _ f _ _ => decide (f.bytes.length = 256)
  | .identityReceive _ r => decide (r.length = 64)
  | .ledgerSramError g i _ => decide (i < ledgerInstances g)
  | .matrixTile _ t => t.wf
  | .vectorOperation _ op => op.wf
  | .broadcastLoad _ srcs ext => spaceOk ext && srcs.all fun x => x.wf ext
  | .permute _ op => op.wf
  | .shuffle _ op => op.wf
  | .mxUnpack _ op | .mxPack _ op => op.wf
  | .sp24Pack _ op | .sp24Unpack _ op => op.wf
  | .interleave _ op | .deinterleave _ op => op.wf
  | .atomicAdd op => op.wf .add
  | .atomicMin op => op.wf .min
  | .atomicMax op => op.wf .max
  | .atomicAnd op => op.wf .band
  | .atomicOr op => op.wf .bor
  | .atomicXor op => op.wf .bxor
  | .atomicSwap op => op.wf .swap
  | .atomicCas op => op.wf .cas
  | .reductionContribution _ _ _ vs => decide (vs.length = 64)
  | _ => true

end Sys2Proof
end

