-- ==== Sys2Proof/Safety.lean ====
section
/-!
DEFINITION. The terms in which claims are stated: when a command is safe, what a well-formed memory is, and what it means that a command
of a submission queue has been executed, has failed, or waits.
-/
namespace Sys2Proof.Machine

/-- A command is safe in a state: it answers a next state. -/
def Safe (i : Instr) (s : State) : Prop := ∃ t, exec i s = .next t

/-- The canonical form of the device memory (R202, R204; assumption 2, DESIGN CHOICE). -/
def Memory.wf (m : Memory) : Bool := memWf m.cells

/-- The canonical form of the local stores of the cores (R122). -/
def Engines.wf (g : Engines) : Bool := memWf g.stores

/-- The command of an opcode that is first in its stream and dispatched, on a running device: the one that its row acts on (R42). -/
def Turn (s : State) (stream : Nat) (op : Opcode) (e : Entry) : Prop :=
  s.dev.running = true ∧ s.dev.ready stream op = some e

/-- A command has been executed: it is STAGED with a good status and its result words (R55, R60). -/
def Executed (d : Device) (id r0 r1 : Nat) : Prop :=
  ∃ e, d.entry id = some e ∧ e.phase = .staged ∧ e.status.good = true ∧ e.result0 = r0 ∧ e.result1 = r1

/-- The state in which a row leaves the block when its command is executed on the device `d` with result words. -/
def State.executed (s : State) (d : Device) (id r0 r1 : Nat) : State := { s with dev := d.stageOk id r0 r1 }

/-- The lot whose slice of a block a register belongs to, for the blocks that have a slice for each lot (R10, R12). -/
def Reg.lotOf : Reg → Option Nat
  | .sqBase l _ | .sqCtl l _ | .sqTail l _ | .sqHead l _ | .rqBase l _ | .rqHead l _ | .rqTail l _ | .sqStat l _ => some l
  | .evqBase l | .evqCtl l | .evqHead l | .evqTail l | .evqHoldoff l | .evqKindSet l | .evqKindClr l | .evqStat l => some l
  | .dumpCtl l | .dumpPos l | .nwatch l _ | .nwatchUse l | .lotStat l | .lotMem l | .lotHold l => some l
  | .solvLotCount l | .solvLotStat l | .plqSel l | .plqSum l | .plqExt l | .plqCookie l | .lotEcc l => some l
  | _ => none

/-- A core runs the kernel of a launch, on a running device: the state in which an operation of its engines has its effect (R17, R61). -/
def Runs (s : State) (core : CoreId) (e : Entry) : Prop := s.dev.running = true ∧ s.kernelOf core = some e

/-- What an operation of a core's engines leaves: the core still runs the launch, device memory and the other cores are unchanged, and so is every
byte of a local store outside the ranges that the operation writes in its own, each given by its first address and its length (R125, R130). -/
def EngineFrame (s t : State) (core : CoreId) (e : Entry) (ranges : List (Nat × Nat)) : Prop :=
  (∃ x, t.kernelOf core = some x ∧ x.id = e.id) ∧ t.dev.mem = s.dev.mem ∧ t.dev.tensors = s.dev.tensors ∧ t.pending = s.pending
    ∧ (∀ n, n ≠ core.val → t.eng.core n = s.eng.core n)
    ∧ ∀ a, (∀ r ∈ ranges, a < core * Config.localStoreBytes + r.1 ∨ core * Config.localStoreBytes + r.1 + r.2 ≤ a) →
        readByte t.eng.stores a = readByte s.eng.stores a

end Sys2Proof.Machine

namespace Sys2Proof

/-- The commands that can change a core's engines or local store: what a core or a shuttle unit executes, what moves data into or out of its store,
what ends its kernel, and what takes its power away (R62, R117, R136, R401, R411). -/
def Instr.reachesEngines : Instr → Bool
  | .commandCommit _ | .opLaunch _ _ | .graphLaunch _ _ | .shuttleDispatch _ _ | .dmaDescriptor _ _ _ | .shardGather _ _ _ _ _
  | .kernelEntry _ _ | .matrixTile _ _ | .vectorOperation _ _
  | .broadcastLoad _ _ _ | .permute _ _ | .shuffle _ _ | .mxUnpack _ _ | .mxPack _ _ | .sp24Pack _ _ | .sp24Unpack _ _ | .bitsPack _ _
  | .bitsUnpack _ _ | .interleave _ _ | .deinterleave _ _ | .atomicAdd _ | .atomicMin _ | .atomicMax _ | .atomicAnd _ | .atomicOr _
  | .atomicXor _ | .atomicSwap _ | .atomicCas _ | .c2Entry _ _ | .c3Entry _ _ | .pwrResetCold _ _ | .pwrResetWarm _ _
  | .domainDisable _ | .registerWrite _ _ _ _ | .powerOn | .warmReset _ | .pwrWarnNAssert | .railUndervoltage _ | .pllLockRetry _ => true
  | _ => false

/-- The commands of the device's interfaces beside the queues' work: registers of queues and events, hosts, security, power telemetry, wakes, the
collector and the scrub. None of them reaches a command in flight or the tables of tensors, shards and jobs (R30, R351, R374, R379, R399, R403). -/
def Instr.interfaceOnly : Instr → Bool
  | .sqEnableSet _ _ _ _ | .sqEnableClear _ _ _ _ | .sqTailWrite _ _ _ _ | .rqHeadWrite _ _ _ _ | .evqEnableSet _ _ _ | .evqEnableClear _ _ _
  | .evqHeadWrite _ _ _ | .evqMaskSet _ _ _ | .evqMaskClr _ _ _ | .evqPendSet _ _ _ | .evqPendClr _ _ _ | .handlerCompletionWrite _
  | .msixVectorUnmask _ _ | .secHelloStart _ _ | .attachReady _ | .thermalTrip | .thermalThrottle _ | .pllLockLoss | .powerTelemetry _ _
  | .avsbusAck _ | .avsbusTimeout _ | .dividerChange | .wakeNAssert | .wake _ _ | .scanHaltRequest _ | .perstNRelease _ _ | .hostLinkRetry _ _
  | .hostDetach _ _ | .standbyTakeover | .d3hotEntry _ | .functionLevelReset _ | .spdmRequest _ _ _ | .ideKmKeyProgram _ _
  | .ideStreamInsecure _ _ _ | .tdispRequest _ _ | .stopInterface _ | .mctpMessage _ | .jtagInstruction _ | .eventRecordAccept
  | .holdoffTimerExpiry _ | .patrolScrub _ _ _ | .ledgerSramError _ _ _ | .jobMatchArrival _ _ _ _ | .placementEpoch _ _ => true
  | _ => false

end Sys2Proof
end

