-- ==== Sys2Proof/Certificates/Slice0/Obligations.lean ====
section
/-!
DEFINITION. The statements of the model: what every command does, where it completes, what it leaves unchanged, and the invariants of a step.
Each docstring names the rules of spec/ on which its statement rests.
-/
open Sys2Proof Sys2Proof.Machine

/-- The step of a block with a command at the front of its queue is that command's effect on the state with the queue's rest. -/
def Obligations.StepRunsFront : Prop :=
  ∀ (c : Instr) (rest : List Instr) (s : State), step { s with pending := c :: rest } = exec c { s with pending := rest }

/-- Every command answers a next state and leaves the queue as it is. The model's choice (assumption 1): a step on an empty queue is one tick. The
queue stays empty, and TIME is one later modulo 2^64 where the root PLL supplies clocks, and the whole state is as before where it does not. -/
def Obligations.ExecAnswersAndIdleTicks : Prop :=
  (∀ (i : Instr) (s : State), ∃ t, exec i s = .next t ∧ t.pending = s.pending)
  ∧ (∀ s : State, s.pending = [] →
      (s.dev.clocked = true → ∃ t, step s = .next t ∧ t.pending = [] ∧ t.dev.time = (s.dev.time + 1) % 2 ^ 64)
      ∧ (s.dev.clocked = false → step s = .next s))

/-- Every step keeps the local stores of the cores in canonical form: cells strictly rising, and no byte listed that reads as a blank one does. -/
def Obligations.StoresStayCanonical : Prop :=
  ∀ s t : State, s.eng.wf = true → step s = .next t → t.eng.wf = true

/-- Every step keeps the device memory in canonical form: cells strictly rising, and no byte listed that reads as one that nothing has written does.
The canonical form is the model's (assumption 2). -/
def Obligations.MemoryStaysCanonical : Prop :=
  ∀ s t : State, s.dev.mem.wf = true → step s = .next t → t.dev.mem.wf = true

/-- In every floating-point format of R67 and in the array accumulator of R75, a word that is no NaN is the encoding of the value that it spells:
subnormals, infinities and both zeros among them; and the canonical NaN of a format is a NaN of it and the encoding of one (R67 to R69, R75). -/
def Obligations.FormatsRoundTrip : Prop :=
  ∀ f : FSpec, f ∈ [fp64, fp32, fp16, bf16, e4m3, e5m2, e2m3, e2m1, acc48] →
    (∀ w, w < 2 ^ (1 + f.ebits + f.mbits) → decodeF f w ≠ .nan → encodeF f (decodeF f w) = w)
    ∧ ∀ n, f.nan = some n → decodeF f n = .nan ∧ encodeF f .nan = n

/-- The reset state is a device held before its cold start: no command waits, memories are empty and in canonical form, the journal is empty, TIME is
0, the configuration version is 0, nothing runs, every stream is DISABLED and no submission or event queue has ENABLE 1. -/
def Obligations.ResetState : Prop :=
  State.reset.pending = [] ∧ State.reset.dev.mem.cells = [] ∧ State.reset.dev.mem.wf = true ∧ State.reset.eng.stores = []
    ∧ State.reset.eng.wf = true ∧ State.reset.dev.journal = []
    ∧ State.reset.dev.time = 0 ∧ State.reset.dev.hosts.version = 0 ∧ State.reset.dev.running = false
    ∧ (∀ i, (State.reset.dev.stream i).state = .disabled) ∧ (∀ l q, (State.reset.dev.queue l q).enable = false)
    ∧ (∀ l, (State.reset.dev.evq l).enable = false)

/-- COMMAND_FETCH of a queue that may be fetched from and whose turn it is, with its entry read, acts on the entry at HEAD. Where the lot's journal
share has no room for it, or another queue of the lot waits for room, fetching stalls, counted once. Else an entry that fails a header check is
rejected: HEAD passes it, it is counted in REJECTS, and its reply with that check's status is decided. One that passes the checks, of a stream
without MIRROR and no STREAM_OPEN, is accepted: HEAD passes it, the journal ends with its entry, ACCEPTED, which holds the packet, and the stream
expects the next SEQ. So is a STREAM_OPEN of a DISABLED stream, which opens it, and one of a DISABLING stream, which is pending from then on with
an interim reply, and makes an open pending before it fail with E_SUPERSEDED. An entry of a stream with MIRROR = 1 is held. A fetch of another
queue only lets the errors given with it strike memory, and of a device that does not run changes nothing; an entry with uncorrectable data
pauses its queue, with HEAD left at it (R32, R36, R37, R43, R57, R60, R66). JOURNAL_MIRROR_ACK: the entry held is checked again, and rejected or
accepted as above; where none is held nothing happens (R66). -/
def Obligations.FetchAcceptsOrRejects : Prop :=
  let taken (d : Device) (lot : Lot) (q : QueueIx) (p : Bytes) (op : Opcode) (t : State) (e : Entry) : Prop :=
    let v := d.queue lot q
    (t.dev.queue lot q).head = (v.head + 1) % v.size ∧ t.dev.journal = d.journal ++ [e] ∧ e.packet = p ∧ e.op = op ∧ e.phase = .accepted
      ∧ e.seq = rd p 8 4 ∧ e.lot = lot.val ∧ e.queue = q.val ∧ e.stream = rd p 4 4 % 2 ^ 18
  let rejected (d : Device) (lot : Lot) (q : QueueIx) (p : Bytes) (st : Status) (t : State) : Prop :=
    let v := d.queue lot q
    (t.dev.queue lot q).head = (v.head + 1) % v.size ∧ (t.dev.queue lot q).rejects = satAdd 0xFFFF v.rejects 1
      ∧ (∃ r, (t.dev.queue lot q).replies = v.replies ++ [r] ∧ r.status = st ∧ r.rejected = true ∧ r.seq = rd p 8 4)
      ∧ t.dev.journal = d.journal ∧ t.dev.streams = d.streams
  (∀ (s : State) (lot : Lot) (q : QueueIx) (reads : MemoryReads) (o : Option (Except Nat Bytes)) (d : Device),
      let i := Instr.commandFetch lot q reads
      let v := d.queue lot q
      (s.dev.running = false → exec i s = .next s)
      ∧ (s.dev.running = true → (s.dev.strike reads.errors).mayFetch lot q = false ∨ (s.dev.strike reads.errors).inTurn lot q = false →
        exec i s = .next { s with dev := s.dev.strike reads.errors })
      ∧ (s.dev.running = true → (s.dev.strike reads.errors).mayFetch lot q = true → (s.dev.strike reads.errors).inTurn lot q = true →
        Device.readEntry { s.dev.strike reads.errors with lastFetch := queueKey lot q } lot q reads.returns = (o, d) →
        (∀ a, o = some (.error a) → ∃ t, exec i s = .next t ∧ t.dev.queue lot q = { v with paused := true } ∧ t.dev.journal = d.journal)
        ∧ ∀ p, o = some (.ok p) →
          (d.journalFull lot (journalNeed p) = true ∨ d.journalHeld lot q = true → exec i s = .next { s with dev := d.setQueue lot q { v with
            stalled := journalNeed p, stalls := if v.stalled = 0 then satAdd 0xFFFF v.stalls 1 else v.stalls } })
          ∧ (d.journalFull lot (journalNeed p) = false → d.journalHeld lot q = false →
            (∀ st, d.headerCheck lot q p = some st → ∃ t, exec i s = .next t ∧ rejected d lot q p st t)
            ∧ ∀ op, d.headerCheck lot q p = none → Opcode.ofCode (rd p 0 2) = some op →
              let x := rd p 4 4 % 2 ^ 18
              let c := d.stream x
              (op ≠ .streamOpen → c.mirror = true →
                exec i s = .next { s with dev := d.setQueue lot q { v with unsettled := some p, stalled := 0 } })
              ∧ (op ≠ .streamOpen → c.mirror = false → ∃ t e, exec i s = .next t ∧ taken d lot q p op t e
                ∧ (t.dev.stream x).nextSeq = (c.nextSeq + 1) % 2 ^ 32
                ∧ (op ≠ .streamClose → (t.dev.stream x).state = c.state)
                ∧ (op = .streamClose → c.state = .enabled → (t.dev.stream x).state = .disabling))
              ∧ (op = .streamOpen → c.state = .disabled → ∃ t e, exec i s = .next t ∧ taken d lot q p op t e
                ∧ t.dev.stream x = c.opened lot q p)
              ∧ (op = .streamOpen → c.state ≠ .disabled → c.pendingOpen = none → ∃ t e, exec i s = .next t ∧ taken d lot q p op t e
                ∧ t.dev.stream x = { c with pendingOpen := some e.id }
                ∧ ∃ r, (t.dev.queue lot q).replies = v.replies ++ [r] ∧ r.status = .acceptedDeferred ∧ r.interim = true ∧ r.seq = e.seq)
              ∧ (∀ old o, op = .streamOpen → c.state ≠ .disabled → c.pendingOpen = some old → d.entry old = some o →
                ∃ t, exec i s = .next t ∧ (t.dev.stream x).pendingOpen = some (d.ctr.entry + 1)
                  ∧ ∃ r ∈ (t.dev.queue o.lot o.queue).replies, r.status = .eSuperseded ∧ r.seq = o.seq ∧ r.stream = o.stream))))
  ∧ (∀ (s : State) (lot : Lot) (q : QueueIx) (host : List HostReturn),
      let v := s.dev.queue lot q
      (s.dev.running = false ∨ v.unsettled = none → exec (.journalMirrorAck lot q host) s = .next s)
      ∧ ∀ p, s.dev.running = true → v.unsettled = some p →
        let d := s.dev.setQueue lot q { v with unsettled := none }
        (∀ st, d.headerCheck lot q p = some st → ∃ t, exec (.journalMirrorAck lot q host) s = .next t ∧ rejected d lot q p st t
          ∧ (t.dev.queue lot q).unsettled = none)
        ∧ ∀ op, d.headerCheck lot q p = none → Opcode.ofCode (rd p 0 2) = some op → op ≠ .streamOpen →
          ∃ t e, exec (.journalMirrorAck lot q host) s = .next t ∧ taken d lot q p op t e ∧ (t.dev.queue lot q).unsettled = none)

/-- COMMAND_DISPATCH. The next command of a stream that is not halted, while no installation drains or with CFG_ANY, under the version in force or
with CFG_ANY, with no reserved bit set, a job where its opcode needs one and its blocks read, is DISPATCHED: its record holds the TIME of its
dispatch, the tensors that its handles name, and the step after the counter of its job, and the package is in D0. A STREAM_CLOSE is dispatched
without those checks. A STREAM_FENCE whose entries are legal waits from then on, with the entries marked that final replies already given
satisfy. In a halted stream a command accepted after the one that halted it, and that does not ignore the halt, fails with E_PRIOR_FAILED and no
other record of the journal but its own changes. While an installation drains, a command without CFG_ANY waits. A command that fails a check
fails with that check's status: E_STALE_CONFIG, E_PARAM for a reserved bit or for a missing job, the status of its blocks, or that of the fence's
check. Where no command of the stream can be dispatched, or the device does not run, nothing happens (R9, R37, R38, R42, R45, R53, R58, R369,
R463). -/
def Obligations.DispatchDecides : Prop :=
  ∀ (s : State) (st : StreamId),
    let d := s.dev
    (d.running = false ∨ d.nextToDispatch st = none → exec (.commandDispatch st) s = .next s)
    ∧ ∀ e : Entry, d.running = true → d.nextToDispatch st = some e →
      let p := e.packet
      let any := (rd p 2 2).testBit 2
      let go (x : Entry) : Entry := { x with
        phase := .dispatched, wait := .nothing, dispatchedAt := d.time, order := d.ctr.order + 1
        step := (d.job (d.stream e.stream).job).counter + 1
        logAt := (d.observe.nextLog - d.observe.log.length, d.observe.nextLog)
        tensors := (e.handles.filterMap fun h => (d.lookup e.lot h).map fun y => y.1).eraseDups }
      let fails (c : Status) : Prop :=
        ∃ t x, exec (.commandDispatch st) s = .next t ∧ t.dev.entry e.id = some x ∧ x.phase = .staged ∧ x.status = c
      ((d.stream st).haltsEntry e = true → fails .ePriorFailed
        ∧ ∃ t, exec (.commandDispatch st) s = .next t ∧ ∀ k, k ≠ e.id → t.dev.entry k = d.entry k)
      ∧ ((d.stream st).haltsEntry e = false → any = false → d.hosts.install.isSome = true →
        exec (.commandDispatch st) s = .next { s with dev := d.modEntry e.id fun x => { x with wait := .drain } })
      ∧ ((d.stream st).haltsEntry e = false → (any = true ∨ d.hosts.install = none) →
        (e.op = .streamClose → ∃ t, exec (.commandDispatch st) s = .next t ∧ t.dev.entry e.id = (d.entry e.id).map go)
        ∧ (e.op ≠ .streamClose →
          (any = false → rd p 12 2 ≠ d.hosts.version → fails .eStaleConfig)
          ∧ ((any = true ∨ rd p 12 2 = d.hosts.version) →
            (reservedOk e.op p = false → fails .eParam)
            ∧ (reservedOk e.op p = true →
              (needsJob e.op p = true → (d.stream st).job = 0 → fails .eParam)
              ∧ (needsJob e.op p = false ∨ (d.stream st).job ≠ 0 →
                (e.blockStatus ≠ .ok → fails e.blockStatus)
                ∧ (e.blockStatus = .ok →
                  (e.op ≠ .streamFence → ∃ t, exec (.commandDispatch st) s = .next t ∧ t.dev.entry e.id = (d.entry e.id).map go
                    ∧ (∀ k, k ≠ e.id → t.dev.entry k = d.entry k) ∧ t.dev.power.d0Idle = false ∧ t.dev.tensors = d.tensors
                    ∧ t.dev.streams = d.streams ∧ t.dev.mem = d.mem ∧ t.eng = s.eng)
                  ∧ (e.op = .streamFence → d.fenceCheck e = none → ∃ t, exec (.commandDispatch st) s = .next t
                    ∧ t.dev.entry e.id = (d.entry e.id).map fun x => { go x with ran := true, wait := .fence }.markFence
                        (fun i q => (d.stream i).reached q) fun i q => (d.stream i).finals.any fun f => f.1 = q && f.2)
                  ∧ (∀ c, e.op = .streamFence → d.fenceCheck e = some c → fails c)))))))

/-- COMMAND_COMMIT. A command at the head of its stream that is STAGED and failed has its final reply decided, as the last of its queue, with its
status, SEQ and result words, and is committed. One that succeeded commits once the twins hold the shards that it stages, with those that it has
initialised as data, and no uncorrectable error lies in the shadow slot of an update: its staged extents and what its opcode switches take effect
as commitGood says, it is committed with nothing staged, and its final reply is decided likewise. Where the twins do not hold its shards it stays
staged, and where a shadow slot is spoiled it fails with E_MEM_UNCORRECTABLE. A launch at the head that has run to its end is staged first. A
command at the head that is not staged and no such launch stays as it is (R42, R55, R56, R61, R256, R334). REPLY_WRITE, while the root PLL
supplies clocks, of the first decided reply of a queue. One for a ring that cannot be reached, or that is held, holds the replies of its queue.
One for a full ring is kept. One that QUIET suppresses is only taken from those waiting. Any other has its 32 bytes written at TAIL, and no other
byte of device memory changes; TAIL advances by one modulo the ring's size and PHASE turns where TAIL wraps. With a final reply of an accepted
command its journal entry is retired (R33 to R35, R55, R64). -/
def Obligations.CommitAndReply : Prop :=
  (∀ (s : State) (st : StreamId),
      let answers (t : State) (e : Entry) : Prop :=
        ∃ rs r, (t.dev.queue e.lot e.queue).replies = rs ++ [r] ∧ r.status = e.status ∧ r.seq = e.seq ∧ r.stream = e.stream ∧ r.dye = e.lot
          ∧ r.result0 = e.result0 % 2 ^ 32 ∧ r.result1 = e.result1 % 2 ^ 64 ∧ r.interim = false ∧ r.entry = some e.id
      (s.dev.running = false ∨ s.dev.headOf st = none → exec (.commandCommit st) s = .next s)
      ∧ ∀ e : Entry, s.dev.running = true → s.dev.headOf st = some e →
        (s.dev.launchDone e = true → exec (.commandCommit st) s = exec (.commandCommit st) (s.endLaunch e))
        ∧ (s.dev.launchDone e = false → e.phase ≠ .staged → exec (.commandCommit st) s = .next s)
        ∧ (e.phase = .staged → e.status.good = false → ∃ t x, exec (.commandCommit st) s = .next t ∧ answers t e
          ∧ t.dev.entry e.id = some x ∧ x.phase = .committed)
        ∧ ∀ x, e.phase = .staged → e.status.good = true → (s.dev.withInits e).entry e.id = some x →
          let d := s.dev.withInits e
          (d.mirrored x = false → exec (.commandCommit st) s = .next { s with dev := d })
          ∧ (d.mirrored x = true → d.shadowSpoiled x = true → ∃ t y, exec (.commandCommit st) s = .next t ∧ t.dev.entry x.id = some y
            ∧ y.phase = .staged ∧ y.status = .eMemUncorrectable)
          ∧ (d.mirrored x = true → d.shadowSpoiled x = false → ∃ t y, exec (.commandCommit st) s = .next t
            ∧ t = { s with dev := d.commitGood x } ∧ answers t x
            ∧ t.dev.entry x.id = some y ∧ y.phase = .committed ∧ y.staging = [] ∧ y.shards = [] ∧ y.status = x.status))
  ∧ (∀ (s : State) (lot : Lot) (q : QueueIx) (r : Reply) (rest : List Reply),
      let v := s.dev.queue lot q
      let quiet := r.quiet && r.status = .ok && !r.interim && !r.rejected
      (s.dev.clocked = false ∨ v.replies = [] → exec (.replyWrite lot q) s = .next s)
      ∧ (s.dev.clocked = true → v.replies = r :: rest →
        (v.replyHold = true ∨ s.dev.ringReachable lot q = false →
          exec (.replyWrite lot q) s = .next { s with dev := s.dev.setQueue lot q { v with replyHold := true } })
        ∧ (v.replyHold = false → s.dev.ringReachable lot q = true →
          (v.ringFull = true → exec (.replyWrite lot q) s = .next s)
          ∧ (v.ringFull = false → ∃ t, exec (.replyWrite lot q) s = .next t ∧ (t.dev.queue lot q).replies = rest
            ∧ (∀ id, r.entry = some id → r.interim = false → r.rejected = false → t.dev.entry id = none)
            ∧ (quiet = true → (t.dev.queue lot q).rqTail = v.rqTail ∧ (t.dev.queue lot q).rqPhase = v.rqPhase ∧ t.dev.mem = s.dev.mem)
            ∧ (quiet = false → (t.dev.queue lot q).rqTail = (v.rqTail + 1) % v.size
              ∧ (t.dev.queue lot q).rqPhase = (if (v.rqTail + 1) % v.size = 0 then !v.rqPhase else v.rqPhase)
              ∧ (let a := v.rqBase * 4096 + 32 * v.rqTail
                 let b := r.bytes q v.rqPhase
                 let h := hostKey (v.ringHost.getD ((s.dev.hosting lot).getD 0)) a
                 (v.rqLoc = true → (∀ i, i < 32 → readByte t.dev.mem.cells (a + i) = b.getD i 0)
                   ∧ ∀ x, (x < a ∨ a + 32 ≤ x) → readByte t.dev.mem.cells x = readByte s.dev.mem.cells x)
                 ∧ (v.rqLoc = false → a + 32 ≤ 2 ^ 64 → t.dev.mem = s.dev.mem
                   ∧ (∀ i, i < 32 → readByte t.dev.hosts.hostMem (h + i) = b.getD i 0)
                   ∧ ∀ x, (x < h ∨ h + 32 ≤ x) → readByte t.dev.hosts.hostMem x = readByte s.dev.hosts.hostMem x)))))))

/-- STREAM_OPEN, STREAM_CLOSE and STREAM_FENCE complete in their turn. An open makes its stream ENABLED, or DISABLING where a close was accepted
meanwhile, and changes nothing else. A close, once every earlier command of the stream has its final reply, leaves the stream DISABLED, of no
queue and no job and not halted, where no STREAM_OPEN is pending on it; where one is, that open acts and the stream is ENABLING. Before that the
close waits (R43, R44). A fence whose entries are satisfied completes with the entries whose named command failed in RESULT0; with RESUME it
clears the halt flag, and it changes nothing else. One that is not satisfied stays dispatched, and only its record changes (R45). -/
def Obligations.StreamCommandsComplete : Prop :=
  ∀ (s : State) (st : StreamId) (e : Entry),
    (Turn s st .streamOpen e →
      let v := s.dev.stream e.stream
      exec (.streamOpen st) s = .next (s.executed
        (s.dev.setStream e.stream { v with state := if v.closing then .disabling else .enabled, closing := false }) e.id 0 0))
    ∧ (Turn s st .streamClose e →
      (∀ x, (s.dev.streamEntries st).head? = some x → x.id ≠ e.id →
        exec (.streamClose st) s = .next { s with dev := s.dev.modEntry e.id fun y => { y with wait := .nothing } })
      ∧ ((s.dev.streamEntries st).head? = some e →
        ((s.dev.stream st).pendingOpen = none → ∃ t, exec (.streamClose st) s = .next t ∧ Executed t.dev e.id 0 0
          ∧ (t.dev.stream st).state = .disabled ∧ (t.dev.stream st).queue = none ∧ (t.dev.stream st).job = 0
          ∧ (t.dev.stream st).haltedBy = none)
        ∧ (∀ id, (s.dev.stream st).pendingOpen = some id → (s.dev.entry id).isSome = true →
          ∃ t, exec (.streamClose st) s = .next t ∧ Executed t.dev e.id 0 0 ∧ (t.dev.stream st).state = .enabling
            ∧ (t.dev.stream st).pendingOpen = none ∧ (t.dev.stream st).haltedBy = none)))
    ∧ (Turn s st .streamFence e →
      (e.fenceDone = true → exec (.streamFence st) s = .next (s.executed
        (if (e.param 17 1).testBit 1 then s.dev.setStream e.stream { s.dev.stream e.stream with haltedBy := none } else s.dev)
        e.id (e.sticky % 32) 0))
      ∧ (e.fenceDone = false → s.dev.entry e.id = some e → ∃ t, exec (.streamFence st) s = .next t
        ∧ t.dev.entry e.id = some { e with wait := .fence } ∧ (∀ k, k ≠ e.id → t.dev.entry k = s.dev.entry k)
        ∧ t.dev.streams = s.dev.streams ∧ t.dev.tensors = s.dev.tensors ∧ t.dev.mem = s.dev.mem ∧ t.eng = s.eng))

/-- FENCE_TIMEOUT: a fence that waits, not satisfied, with a TIMEOUT that has passed since its dispatch fails with E_FENCE_TIMEOUT, and its stream
halts (R45, R58). QUOTA_WAIT_DEADLINE: the first command of a stream that waits for quota after its DEADLINE fails with E_DEADLINE_MISSED, and
its stream halts (R56, R61). JOB_DEADLINE_EXPIRY: the first command of a stream that waits at its match, with a DEADLINE that has passed, fails
with E_DEADLINE_MISSED, and its stream halts (R302). SOLVE_DEADLINE_EXPIRY: the first waiting or suspended solve of a stream whose deadline has
passed fails with E_DEADLINE_MISSED and its result words, is counted, and halts its stream (R189, R197, R200). Where nothing has run out of time,
none of the four changes anything. -/
def Obligations.DeadlinesFail : Prop :=
  ∀ (s : State) (st : StreamId),
    let quota := (s.dev.streamEntries st).find? fun x => x.phase = .dispatched && x.wait = .quota && x.deadline ≠ 0 && x.deadline ≤ s.dev.time
    let peers := (s.dev.streamEntries st).find? fun x => x.phase = .dispatched && x.wait = .peers
    let solve := s.dev.solver.solves.find? fun z => z.stream = st.val && z.waits && z.deadline ≠ 0 && z.deadline ≤ s.dev.time
    let fails (i : Instr) (e : Entry) (c : Status) : Prop :=
      ∃ t x, exec i s = .next t ∧ t.dev.entry e.id = some x ∧ x.phase = .staged ∧ x.status = c
        ∧ (t.dev.stream e.stream).haltedBy = some e.id
    (∀ e, s.dev.runningEntry st .streamFence = some e → s.dev.entry e.id = some e →
      let due := s.dev.running && e.ran && !e.fenceDone && e.param 20 4 ≠ 0 && e.dispatchedAt + e.param 20 4 ≤ s.dev.time
      (due = true → fails (.fenceTimeout st) e .eFenceTimeout) ∧ (due = false → exec (.fenceTimeout st) s = .next s))
    ∧ (∀ e, s.dev.running = true → quota = some e → s.dev.entry e.id = some e → fails (.quotaWaitDeadline st) e .eDeadlineMissed)
    ∧ (s.dev.running = false ∨ quota = none → exec (.quotaWaitDeadline st) s = .next s)
    ∧ (∀ e, peers = some e → s.dev.entry e.id = some e →
      (s.dev.running = true → e.deadline ≠ 0 → e.deadline ≤ s.dev.time → fails (.jobDeadlineExpiry st) e .eDeadlineMissed)
      ∧ (s.dev.running = false ∨ e.deadline = 0 ∨ s.dev.time < e.deadline → exec (.jobDeadlineExpiry st) s = .next s))
    ∧ (∀ (z : Solve) (e : Entry), s.dev.running = true → solve = some z → s.dev.entry z.entry = some e → e.op = .solve →
      fails (.solveDeadlineExpiry st) e .eDeadlineMissed
      ∧ ∃ t x, exec (.solveDeadlineExpiry st) s = .next t ∧ t.dev.entry e.id = some x
        ∧ (x.result0, x.result1) = z.abortWords (e.param 28 4 ≠ 0)
        ∧ (t.dev.solveCounts e.lot).missed = satAdd 0xFFFF (s.dev.solveCounts e.lot).missed 1)
    ∧ (s.dev.running = false ∨ solve = none → exec (.solveDeadlineExpiry st) s = .next s)

/-- TENSOR_CREATE in its turn: a descriptor that R46 to R48 accept, whose extents the lot's quota and the stacks can take, with those of the copies
of its shards where it is a PARAMETER tensor, and for which an index is free, reserves the tensor. RESULT0 is a handle of its index, with the
generation after the last one of that index, and RESULT1 its bytes; the tensor has the format, extents, options and size of the descriptor and is
of its stream's job; its handle names nothing before the commit, and no other tensor changes. A descriptor that they do not accept fails with
E_PARAM (R46 to R49, R205, R243). TENSOR_FREE and TENSOR_HINT in their turn complete where their handle names a tensor, TENSOR_HINT with a CLASS
of 0 to 3, and change nothing else before their commit (R50, R51). TENSOR_PIN in its turn completes as an unpin without STACK_MASK; as a pin
without one that the lot's pinned quota takes, which abandons the placement moves of the tensor; and as a pin with one, where besides room is in
its stacks, no other stream writes the tensor, and copies can be made of the extents outside them, which it stages (R52, R61, R62, R207). -/
def Obligations.TensorCommandsComplete : Prop :=
  (∀ (s : State) (st : StreamId) (e : Entry), Turn s st .tensorCreate e →
      (createOk e.packet = none → ∃ t x, exec (.tensorCreate st) s = .next t ∧ t.dev.entry e.id = some x ∧ x.phase = .staged
        ∧ x.status = .eParam)
      ∧ ∀ (fmt : Format) (dims : List Nat) (ix : Nat) (xs : List Nat) (d1 d2 : Device),
        let p := e.packet
        let layout := e.param 18 1
        let size := tensorBytes fmt dims (layout.testBit 2) (layout % 4)
        let key := tensorKeyOf e.lot ix
        let gen := nextSkip0 8 (Tab.look 0 s.dev.gens key)
        let job := (s.dev.stream e.stream).job
        let v : Tensor :=
          { gen := gen, fmt := fmt, dims := dims, param := layout.testBit 3, block16 := layout.testBit 2, sparsity := layout % 4
            shardDim := if rd p 19 1 = 0xFF then none else some (rd p 19 1), master := rd p 44 1, sketch := rd p 45 1
            rounding := rd p 46 1, working := rd p 47 1, cookie := rd p 48 8, job := job, key := tensorKey job (rd p 48 8), size := size }
        createOk p = some (fmt, dims) → s.dev.freeIndex e.lot (Config.tensorIndex e.id) = some ix →
        s.dev.heldExtents e.lot + (extentsOf size + s.dev.newCopyExtents key v) ≤ s.dev.quotaExtents e.lot →
        s.dev.placeNew e.lot (List.range Config.memStacks) (extentsOf size) none [] = some (xs, d1) → d1.newCopies key v = some d2 →
        ∃ t, exec (.tensorCreate st) s = .next t ∧ Executed t.dev e.id (gen * 2 ^ 24 + key % 2 ^ 24) size
          ∧ t.dev.tensor key = some { v with extents := xs } ∧ t.dev.lookup e.lot (gen * 2 ^ 24 + key % 2 ^ 24) = none
          ∧ (∀ k, k ≠ key → t.dev.tensor k = s.dev.tensor k) ∧ t.dev.mem = d2.mem ∧ t.dev.shards = d2.shards ∧ t.eng = s.eng)
  ∧ (∀ (s : State) (st : StreamId) (e : Entry) (key : Nat) (t : Tensor), s.dev.find e (e.param 16 4) = .ok (key, t) →
      (Turn s st .tensorFree e → exec (.tensorFree st) s = .next (s.executed s.dev e.id 0 0))
      ∧ (Turn s st .tensorHint e → e.param 21 1 ≤ 3 → exec (.tensorHint st) s = .next (s.executed s.dev e.id 0 0))
      ∧ (Turn s st .tensorPin e →
          (e.param 20 1 = 0 → e.param 24 4 = 0 → exec (.tensorPin st) s = .next (s.executed s.dev e.id 0 0))
          ∧ (e.param 20 1 = 1 → (t.pinned = true ∨
              (s.dev.pinnedExtents e.lot + s.dev.pinsStaged e.lot e.id + t.extents.length) * Config.extentBytes ≤ (s.dev.lot e.lot).pinQuota) →
            (e.param 24 4 = 0 → exec (.tensorPin st) s = .next (s.executed (s.dev.abandonMoves key) e.id 0 0))
            ∧ ∀ d1 d2, e.param 24 4 ≠ 0 →
              let stackIds := bitsOf Config.memStacks (e.param 24 4)
              (t.extents.filter fun x => !stackIds.contains (extentStack x)).length ≤ (stackIds.map s.dev.freeIn).sum →
              s.dev.claim e [(key, 0, t.extents.length * Config.extentBytes)] = .ok d1 →
              ((d1.abandonMoves key).modEntry e.id fun x => { x with ran := true }).pinMoves e key t stackIds = .ok d2 →
              exec (.tensorPin st) s = .next (s.executed d2 e.id 0 0))))

/-- What the commit of a tensor command switches. The handle of a created tensor becomes valid; that of a freed one invalid; a hint is held; a pin
that staged no copy is held with its mask, and an unpin clears both (R49 to R52). STORAGE_RETURN, while the root PLL supplies clocks: the storage
of a freed tensor that no command in flight and no version pin reaches returns, its extents FREE where nothing refers to them and none is due to
be retired, and its index is free; no other tensor changes; otherwise nothing happens (R49, R50, R204). -/
def Obligations.TensorCommitsAndStorage : Prop :=
  (∀ (d : Device) (e : Entry) (key : Nat) (t : Tensor), d.tensor key = some t →
      (e.tensors = [key] → (commitCreate e d).tensor key = some { t with committed := true })
      ∧ (key = tensorKeyOf e.lot (e.param 16 4 % 2 ^ 24) →
          (commitFree e d).tensor key = some { t with live := false }
          ∧ (∀ h, h % 2 ^ 24 = e.param 16 4 % 2 ^ 24 → (commitFree e d).lookup e.lot h = none)
          ∧ (commitHint e d).tensor key = some { t with phases := e.param 20 1, cls := some (e.param 21 1), reuse := some (e.param 22 2) }
          ∧ (e.param 20 1 = 0 → (commitPin e d).tensor key = some { t with pinned := false, mask := 0 })
          ∧ (e.param 20 1 = 1 → e.staging = [] → (commitPin e d).tensor key = some { t with pinned := true, mask := e.param 24 4 })))
  ∧ (∀ (s : State) (lot : Lot) (ix : Fin 16777216) (t : Tensor),
      let key := tensorKeyOf lot ix
      s.dev.tensor key = some t →
      (s.dev.clocked = true → t.live = false → t.committed = true → s.dev.inUse key = false →
        ∃ u, exec (.storageReturn lot ix) s = .next u ∧ u.dev.tensor key = none
          ∧ (∀ k, k ≠ key → u.dev.tensor k = s.dev.tensor k)
          ∧ (∀ x ∈ t.extents, s.dev.referenced x = false → s.dev.mem.retireWait.contains x = false → u.dev.owner x = .free))
      ∧ (s.dev.clocked = false ∨ t.live = true ∨ t.committed = false ∨ s.dev.inUse key = true →
        exec (.storageReturn lot ix) s = .next s))

/-- OP_LAUNCH and GRAPH_LAUNCH in their turn. One that has not started, on a code object that is not LOST, with its parameters in range and its
tensor slots as R101, R147, R310 and R349 ask, no other stream writing what it writes, and a code object that declares no tap, no region and no
dispatch record: it runs from now on with what its code object declares, and nothing else changes but what it claims to write. One whose code
object declares any of these starts as launchStart says. One whose parameters are out of range fails with E_PARAM. One that runs and waits for
nothing, with its dispatches made and its atomics performed, is staged as endLaunch says; any other that runs stays as it is (R53, R54, R61, R62,
R120, R221). -/
def Obligations.LaunchesStart : Prop :=
  ∀ (s : State) (st : StreamId) (e : Entry) (decl : CodeDecl) (op : Opcode) (i : Instr) (params : Entry → Bool),
    (op, i, params) ∈ [(Opcode.opLaunch, Instr.opLaunch st decl, opLaunchParams), (.graphLaunch, .graphLaunch st decl, graphLaunchParams)] →
    Turn s st op e →
    (s.dev.launchDone e = true → exec i s = .next (s.endLaunch e))
    ∧ (e.ran = true → s.dev.launchDone e = false →
      exec i s = .next { s with dev := s.dev.modEntry e.id fun x => { x with wait := e.wait } })
    ∧ (e.ran = false →
      (params e = false → ∃ t x, exec i s = .next t ∧ t.dev.entry e.id = some x ∧ x.phase = .staged ∧ x.status = .eParam)
      ∧ (params e = true →
        (∀ d1, launchStart e decl true s.dev = .ok d1 →
          exec i s = .next { s with dev := d1.modEntry e.id fun x => { x with wait := .nothing } })
        ∧ ∀ (kk : Nat) (k : Tensor) (d1 : Device),
          let mine := (List.range e.slots).filterMap fun j =>
            if (decl.slot j).writes then (s.dev.lookup e.lot (e.slotHandle j)).map fun x => (x.1, 0, x.2.size) else none
          decl.fp64Stage = false → s.dev.find e (e.param 16 4) = .ok (kk, k) → k.fmt = .code → k.lost = false →
          s.dev.tapped e decl = [] → decl.records = [] → decl.regions = [] →
          (∀ j, j < e.slots → s.dev.checkSlot { e with decl := decl } decl false j = .ok ()) → s.dev.claim { e with decl := decl } mine = .ok d1 →
          let d2 := d1.modEntry e.id fun x => { x with decl := decl, taps := [], ran := true }
          exec i s = .next { s with dev := d2.modEntry e.id fun x => { x with wait := .nothing } }))

/-- KERNEL_ENTRY: a core that is enabled and awake and runs no other kernel starts the kernel of a stream's running launch, with its sticky summary
0; other cores, every local store, memory and the journal are unchanged. On any other core it changes nothing (R136, R407). SHUTTLE_DISPATCH of a
dispatch record. Its selection, with a cluster to serve it and its scores read, leaves the structure that the selection gives on the committed
scores in the scratch of the launch, and in the tensor of LIST_SLOT where the record names one; no other record of the journal and no engine
changes. With no cluster the launch waits (R111 to R116, R119, R120). A gather of one row on a core that runs the launch, once the dispatch is
made, leaves in the core's local store the elements and the scales of the token's row that stands at that place of the expert's list, +0 in a
padding row, and changes nothing where the expert has no such row (R117). A combine acts as shuttleCombine says, and both have no effect on a
core that does not run the launch (R118). -/
def Obligations.KernelAndShuttle : Prop :=
  (∀ (s : State) (core : CoreId) (st : StreamId) (e : Entry),
      s.dev.launchOf st = some e →
      (s.dev.running = false ∨ s.dev.coreReady core = false ∨ (∃ k, s.kernelOf core = some k ∧ k.id ≠ e.id) → exec (.kernelEntry core st) s = .next s)
      ∧ (s.dev.running = true → s.dev.coreReady core = true → (∀ k, s.kernelOf core = some k → k.id = e.id) →
        ∃ t, exec (.kernelEntry core st) s = .next t ∧ (t.eng.core core).kernel = some e.id ∧ (t.eng.core core).sticky = 0
        ∧ t.eng.stores = s.eng.stores ∧ (∀ n, n ≠ core.val → t.eng.core n = s.eng.core n) ∧ t.dev.mem = s.dev.mem
        ∧ t.dev.journal = s.dev.journal))
  ∧ (∀ (s : State) (st : StreamId) (i : Nat) (e : Entry) (r : ShuttleRecord),
      s.dev.running = true → s.dev.launchOf st = some e → i < e.decl.records.length → e.shuttle i = some r →
      (s.dev.servingCluster = none →
        exec (.shuttleDispatch st { record := i }) s = .next { s with dev := s.dev.modEntry e.id fun x => { x with wait := .shuttle } })
      ∧ (∀ (c key : Nat) (t : Tensor) (raw : Bytes) (d1 d2 : Device),
        let n := 4 * r.tokens * r.experts
        let scores := (List.range r.tokens).map fun t => (List.range r.experts).map fun x => rd raw (4 * (t * r.experts + x)) 4
        let bytes := structureBytes r scores (select r scores)
        s.dev.servingCluster = some c → s.dev.find e (e.slotHandle r.score) = .ok (key, t) →
        s.dev.fetchExtents e.lot t.extents 0 n 0 = .ok (raw, d1) → d1.scratchOwned e = true →
        (if r.list = 0xFF then .ok d1 else d1.putTensor e (tensorKeyOf e.lot (e.slotHandle r.list % 2 ^ 24)) 0 bytes) = .ok d2 →
        ∃ u, exec (.shuttleDispatch st { record := i }) s = .next u ∧ u.eng = s.eng ∧ u.dev.mem.cells = d2.mem.cells
          ∧ (∃ x, u.dev.dispatched e i = some x ∧ x.bytes = bytes) ∧ ∀ k, k ≠ e.id → u.dev.entry k = d2.entry k)
      ∧ (∀ (core : CoreId) (z : ShuttleResult), s.dev.dispatched e i = some z →
        let waits (u : State) : State := { u with dev := u.dev.modEntry e.id fun x => { x with wait := .nothing } }
        ((∀ k, s.kernelOf core = some k → k.id ≠ e.id) →
          (∀ a b c d f g, exec (.shuttleDispatch st { record := i, work := .gather a b c d core f g }) s = .next (waits s))
          ∧ ∀ a b c d f, exec (.shuttleDispatch st { record := i, work := .combine core a b c d f }) s = .next (waits s))
        ∧ ((∃ k, s.kernelOf core = some k ∧ k.id = e.id) →
          (∀ (token tokens x out y : Nat) (u : State), shuttleCombine r z core token tokens x out y e s = .ok u →
            exec (.shuttleDispatch st { record := i, work := .combine core token tokens x out y }) s = .next (waits u))
          ∧ ∀ (expert slot first a b key : Nat) (t : Tensor) (bs : Bytes × Bytes) (d1 : Device),
            let n := (t.rowSpans 0).1.2
            let m := (t.rowSpans 0).2.2
            expert < r.experts → slot < e.slots → s.dev.find e (e.slotHandle slot) = .ok (key, t) → t.rowsOk = true →
            spanOk a n = true → spanOk b m = true → (a + n ≤ b ∨ b + m ≤ a ∨ m = 0) →
            let i : Instr := .shuttleDispatch st { record := i, work := .gather expert slot first 1 core a b }
            (listRow r z.bytes expert first = none → exec i s = .next (waits s))
            ∧ (listRow r z.bytes expert first = some none → ∃ u, exec i s = .next u
              ∧ u.eng.read core a n = zeros n ∧ u.eng.read core b m = zeros m ∧ u.dev.mem = s.dev.mem)
            ∧ (∀ tok, listRow r z.bytes expert first = some (some tok) → s.dev.rowBytes e key t tok = .ok (bs, d1) →
              ∃ u, exec i s = .next u
                ∧ u.eng.read core a bs.1.length = bs.1 ∧ u.eng.read core b bs.2.length = bs.2 ∧ u.dev.mem = d1.mem))))

/-- DMA_COPY and DMA_RESHUFFLE in their turn. On a channel that is not granted to their lot they fail with E_PERMISSION. On one that is, with a COUNT
of 1 to 65,535 and an inline form that is legal, once their chain is read and they claim what they write: where the channel is ENABLED and free
and no earlier command waits for it, they take its slot, with its counts at 0, and no other channel, no byte of memory and no engine changes;
where it is halted they fail with E_ALIGN and RESULT0 2^31; and where it is not free they wait for it (R230, R233, R234, R241). The register
requests of a DMA channel, by a function that owns it. An enable makes a DISABLED channel ENABLING, and waits in the pending slot of a DISABLING
one; a disable makes an ENABLED one, and an ENABLING one that no command enables, DISABLING; HALTED is cleared. In other states, and by a
function that does not own the channel, no channel changes (R234, R241, R406). -/
def Obligations.DmaChannelsAct : Prop :=
  (∀ (s : State) (st : StreamId) (e : Entry) (op : Opcode) (i : Instr),
      (op, i) ∈ [(Opcode.dmaCopy, Instr.dmaCopy st), (.dmaReshuffle, .dmaReshuffle st)] → Turn s st op e → s.dev.entry e.id = some e →
      let x := e.channel
      let c := s.dev.channel x
      let legal := x < Config.channels ∧ operatorChannel x = false ∧ s.dev.channelLot x = some e.lot
      let fails (code : Status) (r0 : Nat) : Prop :=
        ∃ t y, exec i s = .next t ∧ t.dev.entry e.id = some y ∧ y.phase = .staged ∧ y.status = code ∧ y.result0 = r0
      c.slot ≠ some e.id →
      (¬ legal → e.sticky = 0 → fails .ePermission 0)
      ∧ ∀ d1, legal → 1 ≤ e.param 20 4 → e.param 20 4 ≤ 65535 → (e.inline = true → e.param 20 4 = 1 ∧ e.param 24 8 = 0) →
        (if e.ran then (.ok s.dev : Res Device) else s.dev.dmaDispatch e) = .ok d1 →
        let free := c.state = .enabled ∧ c.slot = none ∧ s.dev.channelQueue x e = false
        (free → c.halted = false → ∃ t, exec i s = .next t ∧ t.dev.channel x = { c with slot := some e.id, done := 0, index := 0, moved := 0 }
          ∧ (∀ y, y ≠ x → t.dev.channel y = s.dev.channel y) ∧ t.dev.mem = d1.mem ∧ t.eng = s.eng)
        ∧ (free → c.halted = true → fails .eAlign (2 ^ 31))
        ∧ (¬ free → ∃ t y, exec i s = .next t ∧ t.dev.dma = s.dev.dma ∧ t.dev.mem = d1.mem ∧ t.dev.entry e.id = some y
          ∧ y.phase = .dispatched ∧ y.wait = .channel))
  ∧ (∀ (s : State) (f : Fn) (x : ChannelId),
      let c := s.dev.channel x
      let to_ (v : DmaChannel) : Host.Outcome State Fault Refusal := .next { s with dev := (s.dev.dropLatch f).setChannel x v }
      (s.dev.ownsChannel f x = true →
        (c.state = .disabled → exec (.dmaEnReq f x) s = to_ { c with state := .enabling, enabler := none })
        ∧ (c.state = .disabling → (c.pendingBy = none ∨ c.pendingBy = some none) →
          exec (.dmaEnReq f x) s = to_ { c with pendingBy := some none })
        ∧ (c.state = .enabled ∨ c.state = .enabling → exec (.dmaEnReq f x) s = to_ c)
        ∧ (c.state = .enabled ∨ (c.state = .enabling ∧ c.enabler = none) →
          exec (.dmaDisReq f x) s = to_ { c with state := .disabling, enabler := none })
        ∧ (c.state = .disabled ∨ c.state = .disabling → exec (.dmaDisReq f x) s = to_ c)
        ∧ exec (.dmaHaltedClear f x) s = to_ { c with halted := false })
      ∧ (s.dev.ownsChannel f x = false → ∀ i : Instr, i ∈ [Instr.dmaEnReq f x, .dmaDisReq f x, .dmaHaltedClear f x] →
        exec i s = .next { s with dev := s.dev.dropLatch f }))

/-- DMA_DESCRIPTOR of a granted channel with a command in its slot. A data descriptor of its chain, of a form that its command, its channel and its
mode allow and whose addresses the lot may name, reads its source planes and then writes its destination planes with what its mode makes of them.
Where it is the last of its command, the command is staged with RESULT0 the descriptors done and RESULT1 the bytes moved, and gives the channel
back; where it is not, the channel goes on to the next. A JUMP moves nothing. One of MODE 0 within device memory, where no error lies in memory
and no placement move leaves its destination, copies its bytes and no other: each byte of the destination reads as the byte of the source did,
and every other byte of memory as before (R231 to R240). DMA_DESCRIPTOR of an operator channel: a move of bytes of a tensor slot, that the launch
of a core of its cluster reads, into the core's local store puts them there, and changes no other byte of a local store; a move to a slot that
the launch writes puts the bytes of the local store into the tensor, and changes no engine (R117, R228). -/
def Obligations.DmaMoves : Prop :=
  (∀ (s : State) (x : ChannelId) (reads : MemoryReads) (e : Entry) (item : ChainItem),
      let d := s.dev.strike reads.errors
      let c := s.dev.channel x
      let v := descriptorOf item.bytes
      s.dev.running = true → c.slot = some e.id → s.dev.entry e.id = some e → e.chain[c.index]? = some item → item.stop = none →
      v.fieldsOk item.bytes = true →
      (v.mode = 15 → (512 ≤ x.val ∨ v.flags = 0) → c.index - c.done < 64 → v.src % 64 = 0 →
        exec (.dmaDescriptor x reads none) s = .next { s with dev := d.setChannel x { c with index := c.index + 1 } })
      ∧ ∀ (srcs : List Bytes) (d1 d2 : Device), v.mode ≠ 15 → v.runs e.op x = true →
        d.readPlaneList e reads.returns (v.flags.testBit 0) v.srcPlanes = .ok (srcs, d1) →
        (v.dstPlanes.zip (v.move srcs)).foldlM (fun d p => d.writePlane e (v.flags.testBit 1) p.1.1 p.2) d1 = .ok d2 →
        ∃ t, exec (.dmaDescriptor x reads none) s = .next t ∧ t.dev.mem.cells = d2.mem.cells
          ∧ t.dev.hosts.hostMem = d2.hosts.hostMem ∧ t.eng = s.eng
          ∧ (c.done + 1 = e.param 20 4 → Executed t.dev e.id (c.done + 1) (c.moved + v.length) ∧ (t.dev.channel x).slot = none)
          ∧ (c.done + 1 ≠ e.param 20 4 → t.dev.channel x = { c with index := c.index + 1, done := c.done + 1, moved := c.moved + v.length })
          ∧ (reads.errors = [] → s.dev.mem.faulty = [] → (∀ m ∈ s.dev.mem.moves, m.from_ ∉ addrExtents v.dst v.length) → v.mode = 0 → v.flags = 0 →
            (∀ i, i < v.length → readByte t.dev.mem.cells (v.dst + i) = readByte s.dev.mem.cells (v.src + i))
            ∧ ∀ a, (a < v.dst ∨ v.dst + v.length ≤ a) → readByte t.dev.mem.cells a = readByte s.dev.mem.cells a))
  ∧ (∀ (s : State) (x : ChannelId) (reads : MemoryReads) (m : OperatorMove) (e : Entry) (key : Nat) (t : Tensor) (d1 : Device),
      let s1 := { s with dev := s.dev.strike reads.errors }
      operatorChannel x = true → m.core.val / 8 = x.val / 16 → s.dev.running = true → s.kernelOf m.core = some e → e.stream = m.stream →
      s1.dev.find e (e.slotHandle m.slot) = .ok (key, t) → m.slot < e.slots → m.offset + m.length ≤ t.size → spanOk m.store m.length = true →
      (∀ b, m.toTensor = false → (e.decl.slot m.slot).reads = true → s1.dev.fetchTensor e key m.offset m.length = .ok (b, d1) →
        ∃ u, exec (.dmaDescriptor x reads (some m)) s = .next u ∧ u.eng.read m.core m.store b.length = b
          ∧ (∀ a, (a < m.core * Config.localStoreBytes + m.store ∨ m.core * Config.localStoreBytes + m.store + b.length ≤ a) →
              readByte u.eng.stores a = readByte s.eng.stores a)
          ∧ u.dev.mem.cells = d1.mem.cells)
      ∧ (m.toTensor = true → (e.decl.slot m.slot).writes = true →
        s1.dev.putTensor e key m.offset (s.eng.read m.core m.store m.length) = .ok d1 →
        ∃ u, exec (.dmaDescriptor x reads (some m)) s = .next u ∧ u.dev.mem.cells = d1.mem.cells ∧ u.eng = s.eng))

/-- The match of R302. JOB_MATCH_ARRIVAL, while the root PLL supplies clocks, notes a member's match once. A command is matched where every arrival
of its ordinal carries its own digest and every other member has one: with a route to each of them, or its messages sent already, the match is
complete and changes no byte of memory, no tensor, no shard and no job. While a member has none it waits, and an arrival with another digest
fails it (R292, R302). RETHREAD in its turn completes with what its receipt gives; of one PARAMETER tensor that a pending REDRAW of the optimiser
entry reaches and whose step has come, that no other command in flight updates, on a device that has nothing to send and nothing to receive, once
the ledgers of all others are complete, it completes with both result words 0. Its commit puts a received shard in place (R316, R327, R328).
RELEASE_NOTICE ends the holdings that a RETHREAD has left, and only those (R328). -/
def Obligations.MatchAndRethread : Prop :=
  (∀ (s : State) (st : StreamId) (m n g : Nat),
    let known := s.dev.arrivals.any fun x => x.stream = st.val && x.ordinal = n && x.member = m
    (s.dev.clocked = true → known = false → exec (.jobMatchArrival st m n g) s
      = .next { s with dev := { s.dev with arrivals := s.dev.arrivals ++ [{ stream := st, ordinal := n, member := m, digest := g }] } })
    ∧ (s.dev.clocked = false ∨ known = true → exec (.jobMatchArrival st m n g) s = .next s))
  ∧ (∀ (d : Device) (e : Entry) (members : List Nat),
    let mine := d.arrivals.filter fun a => a.stream = e.stream && a.ordinal = e.ordinal
    let j : Job := if e.op = .mapDeclare then { origin := (boxOf e.packet).1, log2 := (boxOf e.packet).2 } else d.job (d.stream e.stream).job
    ((∀ a ∈ mine, a.digest = e.matchDigest) →
      ((∀ m ∈ members, ∃ a ∈ mine, a.member = m) →
        ((∃ m ∈ d.links.messages, m.entry = e.id) ∨ ∀ m ∈ members, (d.routeTo (j.posOf m) 1).isSome = true) →
        ∃ d1, matchGroup e members d = .ok d1 ∧ d1.mem = d.mem ∧ d1.tensors = d.tensors ∧ d1.shards = d.shards ∧ d1.jobs = d.jobs)
      ∧ ((∃ m ∈ members, ∀ a ∈ mine, a.member ≠ m) → matchGroup e members d = .error (.wait .peers d)))
    ∧ ((∃ a ∈ mine, a.digest ≠ e.matchDigest) → ∃ d1, matchGroup e members d = .error (.fail .eParam d1)))
  ∧ (∀ (s : State) (st : StreamId) (e : Entry) (input : RethreadInput), Turn s st .rethread e →
    (∀ r0 r1 d1, rethreadBody input e s.dev = .ok (r0, r1, d1) → exec (.rethread st input) s = .next (s.executed d1 e.id r0 r1))
    ∧ ∀ (key : Nat) (t : Tensor) (p : PendingMap) (d1 : Device),
      let job := (s.dev.stream e.stream).job
      let j := s.dev.job job
      let busy (x : Entry) : Bool := x.id ≠ e.id && x.inFlight && x.shards.any fun y => y.tensor = key
      e.param 16 4 ≠ 0 → e.param 24 8 = 0 → e.param 32 2 = 0 → s.dev.find e (e.param 16 4) = .ok (key, t) →
      j.pendingMap = some p → p.mask.testBit 4 = true → p.entries.getD 4 0 ≠ j.entries.getD 4 0 → t.param = true → t.job = job →
      j.rethreaded.contains key = false → t.cutOk (cutsOf (p.entries.getD 4 0)) = true → p.fromStep ≤ j.counter + 1 → p.fromStep ≤ j.jobStep + 1 →
      s.dev.journal.any busy = false → j.size ≤ input.complete + 1 → s.dev.rethreadPlan j t = ([], []) →
      matchGroup e (othersOf j.size (s.dev.rank j)) s.dev = .ok d1 → input.linkLost = false → input.diffs = 0 → input.byteDiffs = 0 →
      ∃ u, exec (.rethread st input) s = .next u ∧ Executed u.dev e.id 0 0 ∧ u.dev.mem = d1.mem ∧ u.dev.shards = d1.shards)
  ∧ (∀ (d : Device) (e : Entry) (x : StagedShard) (t : Tensor), e.shards = [x] → d.tensor x.tensor = some t → x.roots = none → x.contexts = [] →
    (commitRethread e d).shard x.tensor x.index = some x.shard)
  ∧ ∀ (s : State) (job : Nat),
    (s.dev.clocked = false → exec (.releaseNotice job) s = .next s)
    ∧ (s.dev.clocked = true → ∃ u, exec (.releaseNotice job) s = .next u ∧ (u.dev.job job).releasing = []
      ∧ (∀ k i, u.dev.shard k i =
          if ((s.dev.job job).releasing.any fun x => x.2.any fun y => shardKey x.1 y = shardKey k i) then none else s.dev.shard k i)
      ∧ u.dev.tensors = s.dev.tensors ∧ u.dev.journal = s.dev.journal)

/-- MAP_DECLARE, MAP_DECLARE_QUERY and REDRAW complete in their turn. A declaration of a job not yet declared, of a box that fits the network and
contains the device, with entries that divide it, completes with its match, and the row of the query leaves it. A query, whose record can be
staged in the tensor that it names, completes by itself, and the row of the declaration leaves it. A REDRAW of a declared job whose entries
divide the box and keep the owner counts of every tensor, which started its match already or finds no REDRAW pending and names a step two beyond
the counter or later, completes with its match (R303, R305, R314 to R316). The commits of the mapping: a declaration gives the job its box, its
entries and map generation 1; a REDRAW gives it the next map generation, where the entries it replaces stay in force until the step that it names
(R305, R306, R315). -/
def Obligations.MappingActs : Prop :=
  (∀ (s : State) (st : StreamId) (e : Entry) (d1 d2 : Device),
      let p := e.packet
      let job := (s.dev.stream e.stream).job
      let j := s.dev.job job
      (Turn s st .mapDeclare e →
        (let box : Job := { origin := (boxOf p).1, log2 := (boxOf p).2 }
         rd p 16 1 = 0 → rd p 44 4 = 0 → s.dev.links.boxFits box.origin box.log2 = true →
         ((entriesAt p 24).zipIdx.all fun x => entryOk box.log2.sum x.2 x.1) = true → j.declared = false →
         box.contains s.dev.links.coord = true → matchGroup e (othersOf box.size (box.rankOf s.dev.links.coord)) s.dev = .ok d1 →
         exec (.mapDeclare st) s = .next (s.executed d1 e.id 0 0) ∧ exec (.mapDeclareQuery st) s = .next s)
        ∧ (∀ key t, rd p 16 1 = 1 → s.dev.find e (rd p 44 4) = .ok (key, t) → t.fmt = .uint8 → 256 ≤ t.count →
          s.dev.claim e [(key, 0, 256)] = .ok d1 → d1.putTensor e key 0 (d1.laydownRecord (d1.stream e.stream).job) = .ok d2 →
          exec (.mapDeclareQuery st) s = .next (s.executed d2 e.id 0 0) ∧ exec (.mapDeclare st) s = .next s))
      ∧ (Turn s st .redraw e → (let new := redrawEntries j p
          let o := cutsOf (j.entries.getD 4 0)
          let n := cutsOf (new.getD 4 0)
          j.declared = true → (e.ran = true ∨ (j.pendingMap = none ∧ j.counter + 2 ≤ rd p 40 8)) →
          (new.zipIdx.all fun x => entryOk j.log2.sum x.2 x.1) = true → n.t + n.k = o.t + o.k → n.e = o.e →
          matchGroup e (othersOf j.size (s.dev.rank j)) s.dev = .ok d1 →
          exec (.redraw st) s = .next (s.executed d1 e.id 0 0))))
  ∧ (∀ (d : Device) (e : Entry),
      let job := (d.stream e.stream).job
      (rd e.packet 16 1 = 0 → ((commitDeclare e d).job job).declared = true ∧ ((commitDeclare e d).job job).mapGen = 1
        ∧ ((commitDeclare e d).job job).entries = entriesAt e.packet 24 ∧ ((commitDeclare e d).job job).origin = (boxOf e.packet).1
        ∧ ((commitDeclare e d).job job).log2 = (boxOf e.packet).2 ∧ ∀ k, k ≠ job → (commitDeclare e d).job k = d.job k)
      ∧ ((d.job job).counter + 1 < rd e.packet 40 8 →
        ((commitRedraw e d).job job).mapGen = nextSkip0 16 (d.job job).mapGen ∧ ((commitRedraw e d).job job).entries = (d.job job).entries
        ∧ ((commitRedraw e d).job job).pendingMap =
            some { mask := rd e.packet 16 1, entries := redrawEntries (d.job job) e.packet, fromStep := rd e.packet 40 8 }))

/-- COLLECTIVE completes in its turn once its match is complete and no link is lost: a barrier with RESULT0 the members of its group; each other
function, whose tensors fit, with no other stream writing DST, and whose data has arrived, with its result staged in DST and references on SRC
until the members acknowledge: an all-reduce and a reduce-scatter with the canonical tree over the members' data in contributor order, a
broadcast with the sender's data, an all-gather and an all-to-all with the members' pieces in contributor order (R317 to R319, R324).
GRAD_DELIVER completes in its turn once its match is complete and no link is lost, on an FP32 SRC of the work slice's size and a PARAMETER tensor
of the job as DST that awaits no RETHREAD: the reduced gradient of each shard that the device owns and that is not at the step yet is staged as
retained, the copies that it keeps for its twin beside them, and RESULT0 is the number of devices (R321 to R324). -/
def Obligations.CollectivesComplete : Prop :=
  (∀ (s : State) (st : StreamId) (sent : List PeerData) (e : Entry),
      let peers := firstOf sent
      let fn := e.param 16 1
      let op := e.param 17 1
      let j := s.dev.job (s.dev.stream e.stream).job
      let c := cutsOf (j.entryFor (e.param 19 1) e.step)
      let me := s.dev.rank j
      let group := groupOf c (e.param 18 1) j.size me
      let n := group.length
      let q := contributor c (e.param 18 1) me
      Turn s st .collective e → fn ≠ 7 → collectiveParams e = true → j.declared = true → (fn = 4 → e.param 28 2 < n) →
      (∀ d1, fn = 6 → matchGroup e (group.filter (· ≠ me)) s.dev = .ok d1 → exec (.collective st sent false) s = .next (s.executed d1 e.id n 0))
      ∧ ∀ (sk dk : Nat) (src dst : Tensor) (mine : Bytes) (d0 d1 d2 d3 : Device),
          let spans (ss : List (Nat × Nat)) : Bytes := ss.flatMap fun s => (mine.drop s.1).take s.2
          let part (own : Bytes) (m : Nat) : Option Bytes := if m = q then some own else (peers.find? fun p => p.member = m).map fun p => p.data
          let all (own : Bytes) : Option (List Bytes) := (List.range n).mapM fun m => part own m
          let used (m : Nat) : Bool := m ≠ q && m < n && (fn ≠ 4 || m = e.param 28 2)
          let done (os : List ((Nat × Nat) × Bytes)) : Prop := os.foldlM (fun d o => d.putTensor e dk o.1.1 o.2) d2 = .ok d3 →
            exec (.collective st sent false) s = .next (s.executed (d3.refSource e (group.filter (· ≠ me)) src) e.id n
              ((peers.filter fun p => used p.member).map fun p => p.data.length).sum)
          fn ≠ 6 → s.dev.find e (e.param 20 4) = .ok (sk, src) → s.dev.find e (e.param 24 4) = .ok (dk, dst) →
          collectiveFits fn op n src dst = true → src.lost = false → s.dev.claim e [(dk, 0, dst.size)] = .ok d0 →
          matchGroup e (group.filter (· ≠ me)) d0 = .ok d1 → d1.fetchTensor e sk 0 src.size = .ok (mine, d2) →
          (∀ bs, fn = 1 → all mine = some bs → done [((0, 0), reduceBytes src.fmt op src.count bs)])
          ∧ (∀ bs, fn = 2 → all (spans (pieceSpans src n q)) = some bs → done [((0, 0), reduceBytes src.fmt op dst.count bs)])
          ∧ (∀ bs, fn = 3 → all (spans (planesOf src.fmt src.dims src.block16 src.sparsity)) = some bs →
            done (bs.zipIdx.flatMap fun b => collectiveBody.cut b.1 (pieceSpans dst n b.2)))
          ∧ (∀ b, fn = 4 → part mine (e.param 28 2) = some b → done [((0, 0), b)])
          ∧ ∀ bs, fn = 5 → all (spans (pieceSpans src n q)) = some bs →
            done (bs.zipIdx.flatMap fun b => collectiveBody.cut b.1 (pieceSpans dst n b.2)))
  ∧ (∀ (s : State) (st : StreamId) (sent : List PeerData) (pnf : Bool) (e : Entry) (sk dk : Nat) (src dst : Tensor) (mine : Bytes)
      (rs ts : List (Nat × Bytes)) (d1 d2 d3 d4 : Device),
      let peers := firstOf sent
      let job := (s.dev.stream e.stream).job
      let j := s.dev.job job
      let step := e.param 32 8
      let c := cutsOf (j.entryFor 1 e.step)
      let o := cutsOf (j.optEntry dk)
      let me := s.dev.rank j
      let nf := pnf || (List.range src.count).any fun i => fNonfinite fp32 (rd mine (4 * i) 4)
      let data (r : Nat) : Option Bytes := if r = me then some mine else (peers.find? fun p => p.member = r).map fun p => p.data
      let reduce (i : Nat) : Option (Nat × Bytes) := (dst.reduceShard c j.size (dst.parts o) i data).map fun b => (i, b)
      Turn s st .collective e → e.param 16 1 = 7 → collectiveParams e = true → j.declared = true →
      s.dev.find e (e.param 20 4) = .ok (sk, src) → s.dev.find e (e.param 24 4) = .ok (dk, dst) → dst.param = true →
      dst.job = job → src.fmt = .fp32 → dst.cutOk o = true → (dst.shardDim = none ∨ dst.shardExtent % 2 ^ c.t = 0) →
      (dst.expert = true → dst.dims.getD 2 1 % 2 ^ c.e = 0) → src.count = prod (dst.sliceDims c) → src.lost = false →
      matchGroup e (othersOf j.size me) s.dev = .ok d1 → d1.awaitsRethread dk dst step = false →
      d1.fetchTensor e sk 0 (4 * src.count) = .ok (mine, d2) →
      (((d2.ownedShards dk dst).filter fun i => (d2.shardOf dk i).step < step || (d2.shardOf dk i).version = 0).mapM reduce) = some rs →
      (d2.twinShards dk dst).mapM reduce = some ts →
      rs.foldlM (fun d r => d.stageRetained e dk dst r.1 { step := step, data := r.2, nonfinite := nf }) d2 = .ok d3 →
      ts.foldlM (fun d r => d.stageTwin e dk r.1 { step := step, data := r.2, nonfinite := nf }) d3 = .ok d4 →
      exec (.gradDeliver st sent pnf false) s = .next (s.executed (d4.refSource e (othersOf j.size me) src) e.id j.size
        ((peers.filter fun p => p.member ≠ me).map fun p => p.data.length).sum))

/-- SRC_COMMIT_ACK, while the root PLL supplies clocks: the references of a SRC that wait for a member of a stream wait for one member less, and end
with the last; without such references, or without clocks, nothing happens (R324). MIRROR_ACK, with clocks, marks the staged planes of a shard of
the first command of a stream in flight that waits for them, and changes no other command; without such a command nothing happens (R322, R334).
COMMIT_NOTICE, with clocks: planes that fit the lot's quota are staged in place of earlier ones of the shard, then the staged mirror of the shard
takes the place of the mirror, with the version that an update replaces as its held version, and none after a restore or a rollback; the gradient
copies up to that step end with an update, and every other mirror and gradient copy stays; without clocks nothing happens (R61, R264, R322,
R334). -/
def Obligations.PeerNoticesAct : Prop :=
  (∀ (s : State) (st : StreamId) (m : Nat),
      let found := s.dev.srcRefs.find? fun r => r.stream = st.val && r.members.contains m
      (s.dev.clocked = false ∨ found = none → exec (.srcCommitAck st m) s = .next s)
      ∧ ∀ r, s.dev.clocked = true → found = some r →
        let left := r.members.filter (· ≠ m)
        ∃ t, exec (.srcCommitAck st m) s = .next t
          ∧ t.dev.srcRefs = (if left = [] then s.dev.srcRefs.erase r else s.dev.srcRefs.erase r ++ [{ r with members := left }])
          ∧ t.dev.journal = s.dev.journal ∧ t.dev.tensors = s.dev.tensors ∧ t.dev.shards = s.dev.shards)
  ∧ (∀ (s : State) (st : StreamId) (h i : Nat),
      let mine (e : Entry) (x : StagedShard) : Bool := !x.acked && x.index = i && x.tensor = tensorKeyOf e.lot (h % 2 ^ 24)
      let found := (s.dev.streamEntries st).find? fun e => e.inFlight && e.shards.any (mine e)
      (s.dev.clocked = false ∨ found = none → exec (.mirrorAck st h i) s = .next s)
      ∧ ∀ e, s.dev.clocked = true → found = some e → s.dev.entry e.id = some e →
        ∃ t x, exec (.mirrorAck st h i) s = .next t ∧ t.dev.entry e.id = some x ∧ (∀ y ∈ x.shards, mine e y = false)
          ∧ x = { e with shards := x.shards } ∧ x.shards.map (fun y => y.shard) = e.shards.map (fun y => y.shard)
          ∧ (∀ k, k ≠ e.id → t.dev.entry k = s.dev.entry k) ∧ t.dev.shards = s.dev.shards)
  ∧ (∀ (d : Device) (lot : Lot) (i : ShardImage) (xs : List Nat) (d1 : Device),
      let n := i.master.length + i.comp.length + i.moment.length + i.sketch.length
      let key := tensorKeyOf lot (i.handle % 2 ^ 24)
      (d.quotaExtents lot < d.heldExtents lot + extentsOf n → d.stageMirror lot i = d)
      ∧ (d.heldExtents lot + extentsOf n ≤ d.quotaExtents lot → d.placeCopy lot n = some (xs, d1) →
        ∃ m, (d.stageMirror lot i).mirrorStaged = (d1.mirrorStaged.filter fun x => !(x.handle = key && x.shard = i.shard)) ++ [m]
          ∧ m.handle = key ∧ m.shard = i.shard ∧ m.version = i.version ∧ m.step = i.step ∧ m.master = i.master ∧ m.comp = i.comp
          ∧ m.moment = i.moment ∧ m.sketch = i.sketch ∧ m.extents = xs))
  ∧ ∀ (s : State) (lot : Lot) (h i step : Nat) (kind : NoticeKind) (planes : List ShardImage),
      let key := tensorKeyOf lot (h % 2 ^ 24)
      let hit (x : ShardImage) : Bool := x.handle = key && x.shard = i
      let d := planes.foldl (fun d x => d.stageMirror lot x) s.dev
      let old := d.mirrors.find? hit
      let held := match kind with
        | .update => old.map fun o => o.toHeld (d.tensor key)
        | .init => old.bind fun o => o.held
        | .rewind => none
      (s.dev.clocked = false → exec (.commitNotice lot h i { step := step, kind := kind, planes := planes }) s = .next s)
      ∧ (s.dev.clocked = true → ∃ t, exec (.commitNotice lot h i { step := step, kind := kind, planes := planes }) s = .next t
        ∧ t.dev.mirrorStaged = d.mirrorStaged.filter (fun x => !hit x)
        ∧ t.dev.mirrors = (match d.mirrorStaged.find? hit with
          | some n => d.mirrors.filter (fun x => !hit x) ++ [{ n with held := held }]
          | none => d.mirrors)
        ∧ (∀ g, g ∈ t.dev.twinGrads ↔ g ∈ s.dev.twinGrads ∧ ¬ (kind = .update ∧ g.1 = key ∧ g.2.1 = i ∧ g.2.2.step ≤ step))
        ∧ t.dev.journal = s.dev.journal ∧ t.dev.tensors = s.dev.tensors ∧ t.dev.shards = s.dev.shards)

/-- SHARD_GATHER. Which version a gather at an owner is served: one that belongs to no step gets the current version; a forward gather of the step
that follows the shard's own, from a shard that awaits no RETHREAD, gets the current version, and one of the shard's own step the held version; a
backward gather of a slot marked for it gets the bits of the pin buffer of the version that it names. A SPLIT shard fails with E_DIGEST_SPLIT,
one never written with E_SHARD_UNWRITTEN, a step that is past with E_STALE_SHARD, and a gather ahead of the shard waits (R259, R260, R340). A
launch's gather of a shard that this device owns, or the copy that another owner sends and that answers it, puts the working copy, widened, into
the local store of the core that asked for it and runs the launch, and changes no other byte of a local store; an owner's refusal ends the launch
(R85, R258, R259). Another user of the box that this owner serves is sent its copy, and its release takes one reference off each pin of the
tensor that it and the step hold, and changes no other shard. A device that does not run does nothing (R60, R258, R260). -/
def Obligations.ShardGatherServes : Prop :=
  (∀ (d : Device) (l : Option Entry) (g : GatherRequest) (key : Nat) (t : Tensor),
      let v := d.shardOf key g.shard
      let id := l.map fun e => e.id
      let copy (n : Nat) (c : Int × Bytes) : WorkingCopy :=
        { handle := g.handle, shard := g.shard, version := n, scale := c.1, bits := c.2 }
      (v.split = true → gatherBody l g key t d = .error (.fail .eDigestSplit d))
      ∧ (v.split = false → v.version = 0 → gatherBody l g key t d = .error (.fail .eShardUnwritten d))
      ∧ (v.split = false → v.version ≠ 0 →
        (∀ m d1, (g.phase = 0xFF ∨ t.job ≠ g.job ∨ t.job = 0) → d.fetchMaster g.lot key g.shard 1 = .ok (m, d1) →
          let r := d1.serve g.lot id key t g.shard { version := v.version, step := v.step, master := m, comp := v.comp }
          gatherBody l g key t d = .ok (copy v.version r.1, r.2))
        ∧ (g.phase ≠ 0xFF → t.job = g.job → t.job ≠ 0 →
          (∀ b d1, g.phase = 1 → g.regather = true → versionNear g.version v.version = true →
            v.pins.find? (fun b => b.version = g.version) = some b → d.readCopy b.extents = .ok d1 →
            gatherBody l g key t d = .ok (copy b.version (b.scale, b.bits), d1))
          ∧ ((g.phase ≠ 1 ∨ g.regather = false) →
            (d.awaitsRethread key t g.step = true ∨ v.step + 1 < g.step → gatherBody l g key t d = .error (.wait .gather d))
            ∧ (d.awaitsRethread key t g.step = false → g.step < v.step → gatherBody l g key t d = .error (.fail .eStaleShard d))
            ∧ (d.awaitsRethread key t g.step = false → (g.phase ≠ 0 ∨ g.regather = false) →
              (∀ m d1, v.step + 1 = g.step → d.fetchMaster g.lot key g.shard 1 = .ok (m, d1) →
                let r := d1.serve g.lot id key t g.shard { version := v.version, step := v.step, master := m, comp := v.comp }
                gatherBody l g key t d = .ok (copy v.version r.1, r.2))
              ∧ ∀ h d1, v.step = g.step → v.held = some h → d.readCopy h.extents = .ok d1 →
                let r := d1.serve g.lot id key t g.shard { version := h.version, step := h.step, master := h.master, comp := h.comp }
                gatherBody l g key t d = .ok (copy h.version r.1, r.2))
            ∧ ∀ m d1 d2, d.awaitsRethread key t g.step = false → g.phase = 0 → g.regather = true → v.step + 1 = g.step →
              d.fetchMaster g.lot key g.shard 1 = .ok (m, d1) →
              let r := d1.serve g.lot id key t g.shard { version := v.version, step := v.step, master := m, comp := v.comp }
              r.2.pin g l key v.version r.1 = .ok d2 → gatherBody l g key t d = .ok (copy v.version r.1, d2)))))
  ∧ (∀ (s : State) (st : StreamId) (slot shard a key : Nat) (core : CoreId) (e k : Entry) (t : Tensor) (c : WorkingCopy) (d1 : Device),
      let g := s.dev.askOf e (Fin.ofNat 64 e.lot) key t slot shard
      let lands (i : Instr) (d : Device) : Prop :=
        let out := t.widen (d.partsOf key t) c.scale c.bits
        spanOk a out.length = true → ∃ u, exec i s = .next u ∧ u.eng.read core a out.length = out
          ∧ (∀ b, (b < core * Config.localStoreBytes + a ∨ core * Config.localStoreBytes + a + out.length ≤ b) →
            readByte u.eng.stores b = readByte s.eng.stores b)
          ∧ u.dev.mem = d.mem ∧ u.dev.shards = d.shards
      s.dev.running = true → s.dev.launchOf st = some e → s.dev.gathersFrom e slot = some (key, t) →
      ((s.dev.ownedShards key t).contains shard = true → gatherBody (some e) g key t s.dev = .ok (c, d1) →
        ({ s with dev := d1 } : State).kernelOf core = some k → k.id = e.id →
        lands (.shardGather st slot shard .own (core, a)) d1)
      ∧ ((s.dev.ownedShards key t).contains shard = false →
        (c.handle = g.handle → c.shard = shard → (g.phase ≠ 1 ∨ g.regather = false ∨ c.version = g.version) →
          s.kernelOf core = some k → k.id = e.id → lands (.shardGather st slot shard (.remote (.copy c)) (core, a)) s.dev)
        ∧ (exec (.shardGather st slot shard (.remote .lost) (core, a)) s = .next (s.failLaunch e.id .eLinkLost))
        ∧ (∀ r, exec (.shardGather st slot shard (.remote (.refused r)) (core, a)) s = .next (s.failLaunch e.id r.status))
        ∧ exec (.shardGather st slot shard (.remote .waiting) (core, a)) s
          = .next { s with dev := s.dev.modEntry e.id fun x => { x with wait := .gather } }))
  ∧ (∀ (s : State) (st : StreamId) (slot shard key p vc : Nat) (dest : CoreId × Nat) (g : GatherRequest) (t : Tensor) (c : WorkingCopy) (d1 : Device),
      let j := s.dev.job t.job
      s.dev.running = true → s.dev.lookup g.lot g.handle = some (key, t) → t.param = true → g.user ≠ s.dev.rank j →
      s.dev.servesShard key t g.shard = true → s.dev.routeTo (j.posOf g.user) 2 = some (p, vc) → (s.dev.port p).canSend vc = true →
      gatherBody none g key t s.dev = .ok (c, d1) →
      exec (.shardGather st slot shard (.serve g) dest) s = .next { s with
        dev := d1.sendOn p vc (.working (.copy c)) g.lot (if vc = 2 then 0 else j.posOf g.user) (some c.bits.length) })
  ∧ ∀ (s : State) (st : StreamId) (slot shard user step h : Nat) (lot : Lot) (gather : Gather) (dest : CoreId × Nat),
      (s.dev.running = false → exec (.shardGather st slot shard gather dest) s = .next s)
      ∧ (s.dev.running = true → ∃ u, exec (.shardGather st slot shard (.release lot user step h) dest) s = .next u
        ∧ u.dev.shards = s.dev.shards.map (fun x => if x.1 / 2 ^ 32 = tensorKeyOf lot (h % 2 ^ 24) then
            (x.1, { x.2 with pins := (x.2.pins.map fun b => { b with users := b.users.erase (user, step) }).filter fun b => b.users ≠ [] }) else x)
        ∧ u.dev.tensors = s.dev.tensors ∧ u.dev.journal = s.dev.journal ∧ u.eng = s.eng)

/-- SHARD_UPDATE, in its turn, with hyperparameters in range, of a shard that the device owns or of all that it owns, of a PARAMETER tensor of its
job that awaits no RETHREAD, where no other stream writes them: every shard is written and is at the step or the one before. It then updates each
of them that is not at the step yet, and completes. For one shard RESULT0 is its version and RESULT1 its digest; for all of them RESULT0 is how
many were updated, and RESULT1 the digest where that is one, else 0 (R251, R257). The update of one shard at the step before, whose retained
gradient is of the step, whose root blocks are aligned and whose copies can be read: its next version is staged, with the step, the version
before as the held one with its planes, no retained gradient, and the norms. Where the update is finite, its new master planes are staged in
fresh extents, updates is one more, and the compensation, moment and sketch are new; where it is not, and option 2 is clear, updates,
compensation, moment and sketch stay, and no plane is written (R246, R250 to R253, R255, R256, R264). -/
def Obligations.ShardUpdateCompletes : Prop :=
  (∀ (s : State) (st : StreamId) (e x : Entry) (h : Hyper) (key : Nat) (t : Tensor) (d1 d2 : Device),
    let all := e.param 20 4 = 0xFFFFFFFF
    let step := e.param 24 8
    let owned := s.dev.ownedShards key t
    let mine := if all then owned else [e.param 20 4]
    let only := match x.shards with | y :: _ => y.shard | [] => d2.shardOf key (e.param 20 4)
    Turn s st .shardUpdate e → hyperOf e = some h → s.dev.find e (e.param 16 4) = .ok (key, t) → t.param = true →
    t.job = (s.dev.stream e.stream).job → (all ∨ owned.contains (e.param 20 4) = true) →
    s.dev.claim e (s.dev.masterRanges key t mine) = .ok d1 → (∀ i ∈ mine, (s.dev.shardOf key i).version ≠ 0) →
    (∀ i ∈ mine, (s.dev.shardOf key i).step ≤ step ∧ step ≤ (s.dev.shardOf key i).step + 1) → s.dev.awaitsRethread key t step = false →
    mine.foldlM (fun d i => d.updateShard e h key t step i) d1 = .ok d2 → d2.entry e.id = some x →
    (all → exec (.shardUpdate st) s = .next (s.executed d2 e.id x.shards.length (match x.shards with | [y] => y.shard.digest | _ => 0)))
    ∧ (¬ all → exec (.shardUpdate st) s = .next (s.executed d2 e.id only.version only.digest)))
  ∧ ∀ (d d1 d2 : Device) (e cur : Entry) (h : Hyper) (key i step : Nat) (t : Tensor) (g : Retained) (master : Bytes),
    let v := d.shardOf key i
    let p := d.partsOf key t
    let roots := if (e.param 52 1).testBit 0 then d.rootsFor key t p i else (none, none)
    let u := t.update h ((e.param 52 1).testBit 1) p i step roots v g master
    let staged (b r : Device) (n : StagedShard) : Prop :=
      (∀ x, b.entry e.id = some x → ∃ y, r.entry e.id = some y ∧ y.shards = x.shards ++ [n]) ∧ n.tensor = key ∧ n.index = i
      ∧ n.shard.version = nextVersion v.version ∧ n.shard.step = step ∧ n.shard.retained = none ∧ n.shard.norms = u.norms
      ∧ n.shard.flags = recordFlags u.bad false v.version (nextVersion v.version)
      ∧ n.shard.held.map (fun o => (o.version, o.step, o.master, o.comp)) = some (v.version, v.step, master, v.comp)
      ∧ n.shard.pins = v.pins ∧ n.shard.frozen = v.frozen
    d.entry e.id = some cur → (cur.shards.any fun x => x.tensor = key && x.index = i) = false → v.step ≠ step → v.retained = some g →
    g.step = step → t.rootAligned p i roots = true → d.readCopy (g.extents ++ v.extents) = .ok d1 →
    d1.fetchMaster e.lot key i e.op.traffic = .ok (master, d2) →
    (u.bad = true → (e.param 52 1).testBit 2 = false → ∃ r n, d.updateShard e h key t step i = .ok r ∧ staged d2 r n
      ∧ n.shard.updates = v.updates ∧ n.shard.comp = v.comp ∧ n.shard.moment = v.moment ∧ n.shard.sketch = v.sketch
      ∧ n.shard.digest = shardDigest t master v.comp ∧ r.mem = d2.mem)
    ∧ (u.bad = true → (e.param 52 1).testBit 2 = true → d.updateShard e h key t step i = .error (.fail .eNonfinite d2))
    ∧ ∀ d3 xs d4, u.bad = false → d2.putMaster e key i u.master = .ok d3 →
      d3.takeCopy e (u.comp.length + u.moment.length + u.sketch.length) = .ok (xs, d4) →
      ∃ r n, d.updateShard e h key t step i = .ok r ∧ staged d4 r n ∧ n.shard.updates = v.updates + 1 ∧ n.shard.comp = u.comp
        ∧ n.shard.moment = u.moment ∧ n.shard.sketch = u.sketch ∧ n.shard.digest = shardDigest t u.master u.comp ∧ n.shard.extents = xs
        ∧ r.mem = d4.mem

/-- STEP_COMMIT in its turn: of another step than the one after the job's counter it fails with E_STEP_ORDER; while a shard that the device owns is
not at that step, or the counters of the other devices are not all given, it waits; else it compares the digests that are due, and completes
where none is split, with RESULT0 the shards that the device owns and RESULT1 how many of them were skipped; where one is split it fails with
E_DIGEST_SPLIT. A comparison of a shard without a majority splits it, and one whose majority is its own digest leaves all as it is. The commit
makes the job's step counter that step, and the job's committed step the least of the counters of the box, never less than before (R263, R264,
R266, R267). DIGEST_CHECK in its turn: a new period, a forced comparison and a query complete, on all the job's tensors or on a PARAMETER tensor
of the job; a query returns the shards repaired in RESULT0 and the last step compared in RESULT1; another ACTION, or a period above 65535, fails
with E_PARAM. Its commit sets the period of the job, or forces the tensors named to be compared (R266). -/
def Obligations.StepAndDigestComplete : Prop :=
  (∀ (s : State) (st : StreamId) (input : StepInput) (e cur : Entry),
      let job := (s.dev.stream e.stream).job
      let j := s.dev.job job
      let step := e.param 16 8
      let mine := s.dev.jobShards e.lot job
      let fails (c : Status) : Prop := ∃ t x, exec (.stepCommit st input) s = .next t ∧ t.dev.entry e.id = some x ∧ x.phase = .staged ∧ x.status = c
      let waits (w : Wait) : Prop :=
        exec (.stepCommit st input) s = .next { s with dev := s.dev.modEntry e.id fun x => { x with wait := w } }
      let behind := mine.any fun x => (s.dev.shardOf x.1 x.2.2).step < step
      let due := if cur.ran then [] else mine.filterMap fun x =>
        if j.digestDue x.1 step then
          (input.replicas.find? fun r => r.1 = x.2.1.handle x.1 && r.2.1 = x.2.2).map fun r => (x, r.2.2)
        else none
      let compared : Res (Device × List (Nat × Tensor × Nat)) :=
        due.foldlM (fun (acc : Device × List (Nat × Tensor × Nat)) x => do
          let r ← acc.1.compareShard e x.1.1 x.1.2.2 x.2
          pure (r.1, if r.2 then acc.2 ++ [x.1] else acc.2)) (s.dev, [])
      Turn s st .stepCommit e → s.dev.entry e.id = some cur →
      (step ≠ j.counter + 1 → fails .eStepOrder)
      ∧ (step = j.counter + 1 →
        (behind = true → waits .gradient)
        ∧ (behind = false → input.counters.length + 1 < j.size → waits .peers)
        ∧ (behind = false → j.size ≤ input.counters.length + 1 →
          (∀ d1, compared = .ok (d1, []) →
            exec (.stepCommit st input) s = .next (s.executed (d1.modEntry e.id fun x => { x with stepInput := input, ran := true }) e.id
              mine.length (mine.filter fun x => (d1.shardOf x.1 x.2.2).flags.testBit 0).length))
          ∧ ∀ d1 l, compared = .ok (d1, l) → l ≠ [] → fails .eDigestSplit)))
  ∧ (∀ (d : Device) (e : Entry) (key shard : Nat) (rs : List ReplicaDigest),
      let own := (d.shardOf key shard).digest
      (majority (own :: rs.map fun r => r.digest) = none → d.compareShard e key shard rs = .ok (d, true))
      ∧ ((∀ r ∈ rs, r.digest = own) → d.compareShard e key shard rs = .ok (d, false)))
  ∧ (∀ (d : Device) (e : Entry) (old : List (Nat × List (Nat × Bytes))),
      let job := (d.stream e.stream).job
      ((commitStep e old d).job job).counter = e.param 16 8
      ∧ ((commitStep e old d).job job).jobStep = max (d.job job).jobStep (e.stepInput.counters.foldl min (e.param 16 8)))
  ∧ (∀ (s : State) (st : StreamId) (e : Entry),
      let job := (s.dev.stream e.stream).job
      let j := s.dev.job job
      let keys := digestKeys e s.dev
      let named := e.param 16 4 = 0 ∨ ∃ k t, s.dev.find e (e.param 16 4) = .ok (k, t) ∧ t.param = true ∧ t.job = job
      let act := e.param 24 1
      Turn s st .digestCheck e →
      (named → act = 0 → e.param 20 4 ≤ 65535 → exec (.digestCheck st) s = .next (s.executed s.dev e.id 0 0))
      ∧ (named → act = 1 → exec (.digestCheck st) s = .next (s.executed s.dev e.id 0 0))
      ∧ (named → act = 2 → exec (.digestCheck st) s = .next (s.executed s.dev e.id
          ((keys.map fun k => Tab.look 0 j.repaired k).sum % 2 ^ 32) ((keys.map fun k => Tab.look 0 j.compared k).foldl max 0)))
      ∧ (2 < act ∨ (act = 0 ∧ 65535 < e.param 20 4) →
        ∃ t x, exec (.digestCheck st) s = .next t ∧ t.dev.entry e.id = some x ∧ x.phase = .staged ∧ x.status = .eParam))
  ∧ ∀ (d : Device) (e : Entry),
      let job := (d.stream e.stream).job
      (e.param 24 1 = 0 → e.param 16 4 = 0 → ((commitDigest e d).job job).digestPeriod = e.param 20 4 ∧ ((commitDigest e d).job job).digestOf = [])
      ∧ (e.param 24 1 = 1 → ∀ k ∈ digestKeys e d, k ∈ ((commitDigest e d).job job).digestForce)

/-- PHASE_BOUNDARY: a job passes through the phases forward (0), backward, curvature, solve and optimiser (4), in that order, and from the optimiser
phase of a step into the forward phase of the next. Either the boundary leaves the phase and the step of the job as they are, or the phase is the
next one, and the step is one more exactly where that is forward. On a running device it moves on, where the phase has ended and, in the
curvature phase, no blend is under way and no part waits for its PARTNER; while a launch of the phase runs, while a SOLVE of the solve phase is
not admitted, and while a SHARD_UPDATE of the step is not committed in the optimiser phase, it does not. No other job, no shard, no memory and no
command in flight changes (R27). That the next forward gather needs the shards of every SHARD_UPDATE of the step is the model's reading
(assumption 130). -/
def Obligations.PhaseBoundaryAdvances : Prop :=
  ∀ (s : State) (job : Nat),
    let j := s.dev.job job
    let ofJob (key : Nat) : Bool := match s.dev.tensor key with | some t => t.job = job | none => false
    let next := (j.phase + 1) % 5
    ∃ t, exec (.phaseBoundary job) s = .next t
      ∧ (((t.dev.job job).phase = j.phase ∧ (t.dev.job job).phaseStep = j.phaseStep)
        ∨ ((t.dev.job job).phase = next ∧ (t.dev.job job).phaseStep = (if next = 0 then j.phaseStep + 1 else j.phaseStep)))
      ∧ (s.dev.running = true → s.dev.phaseEnded job = true →
        (j.phase = 2 → s.dev.blending ofJob = false ∧ s.dev.heldParts ofJob = []) → (t.dev.job job).phase = next)
      ∧ ((s.dev.running = false ∨ ∃ e ∈ s.dev.journal, (s.dev.stream e.stream).job = job ∧ e.status.good = true
          ∧ (((e.op = .opLaunch ∨ e.op = .graphLaunch) ∧ e.phase = .dispatched ∧ e.ran = true ∧ e.phaseByte = j.phase)
            ∨ (j.phase = 3 ∧ e.op = .solve ∧ e.phase = .dispatched ∧ e.ran = false)
            ∨ (j.phase = 4 ∧ e.op = .shardUpdate ∧ e.phase ≠ .committed ∧ e.param 24 8 = j.phaseStep))) →
        (t.dev.job job).phase = j.phase ∧ (t.dev.job job).phaseStep = j.phaseStep)
      ∧ (∀ k, k ≠ job → t.dev.job k = s.dev.job k)
      ∧ t.dev.mem = s.dev.mem ∧ t.dev.shards = s.dev.shards ∧ t.dev.journal = s.dev.journal

/-- SECURE_NOW in its turn. ACTION 4 answers the securing interval with the failures in RESULT0, and the secured step in RESULT1. ACTION 0, with a
difference stream, ACTION 1, with values in range, ACTION 2, on a PARAMETER tensor of the job, and ACTION 3, on another tensor of at most 4096
bytes, complete with their match (R302, R338). Their commits note that the next step is to be secured, the RECOVERY and the device MTBF, the
METHOD of the tensor, and whether it is a data cursor (R338). SECURE_NOW_RESTORE, in its turn, of the whole job or of the SPLIT shards of one
tensor, from a secured step after the last RETHREAD, with an image for each shard, a frozen copy where it is mirrored and its records else: it
completes once each shard, and for the whole job each data cursor, is staged, and the row of SECURE_NOW leaves it. A restored shard is a new
version of the step with INIT, with the planes of the image. The commit of a restore of the whole job takes its step counter back to the secured
step (R339, R340). -/
def Obligations.SecuringActs : Prop :=
  (∀ (s : State) (st : StreamId) (e : Entry) (d1 : Device),
      let job := (s.dev.stream e.stream).job
      let j := s.dev.job job
      let done := exec (.secureNow st) s = .next (s.executed d1 e.id 0 0)
      Turn s st .secureNow e →
      (e.param 16 1 = 4 → e.param 17 1 = 0 → e.param 18 1 = 0 → exec (.secureNow st) s = .next (s.executed s.dev e.id
          (j.tau % 2 ^ 16 + min j.failures 0xFFFF * 2 ^ 16) (j.secured.getD 0)))
      ∧ (secureMatch e s.dev = .ok d1 →
        (e.param 16 1 = 0 → e.param 17 1 = 0 → e.param 18 1 = 0 → j.diff.isSome = true → done)
        ∧ (e.param 16 1 = 1 → e.param 17 1 = 0 → e.param 18 1 ≤ 1 → e.param 24 4 ≤ 10000000 → (e.param 18 1 = 0 → j.size ≠ 1) → done)
        ∧ ∀ key t, s.dev.find e (e.param 20 4) = .ok (key, t) → e.param 18 1 = 0 →
          (e.param 16 1 = 2 → t.param = true → t.job = job → e.param 17 1 ≤ 2 →
            (e.param 17 1 = 1 → j.nextRecovery.getD j.recovery ≠ 1) → done)
          ∧ (e.param 16 1 = 3 → t.param = false → t.size ≤ 4096 → e.param 17 1 ≤ 1 →
            (e.param 17 1 = 0 ∨ key ∈ j.cursors ∨ j.cursors.length < 16) → done)))
  ∧ (∀ (d : Device) (e : Entry) (old : List (Nat × List (Nat × Bytes))),
      let job := (d.stream e.stream).job
      let key := tensorKeyOf e.lot (e.param 20 4 % 2 ^ 24)
      let j := (commitSecure e old d).job job
      (e.param 16 1 = 0 → j.secureNext = true)
      ∧ (e.param 16 1 = 1 → j.nextRecovery = some (e.param 18 1)
        ∧ j.devMtbf = if e.param 24 4 = 0 then (d.job job).devMtbf else e.param 24 4)
      ∧ (e.param 16 1 = 2 → e.param 17 1 ≠ 0 → Tab.find j.methods key = some (e.param 17 1))
      ∧ (e.param 16 1 = 3 → (key ∈ j.cursors ↔ e.param 17 1 ≠ 0))
      ∧ (e.param 16 1 = 5 → e.param 20 4 = 0 → j.counter = (d.job job).secured.getD 0 ∧ j.jobStep = (d.job job).secured.getD 0))
  ∧ (∀ (s : State) (st : StreamId) (image : Bytes) (others : Bool) (e : Entry) (one : List (Nat × Tensor)) (step : Nat)
        (is : List (Nat × Tensor × ShardImage)) (d1 d2 d3 d4 : Device),
      let job := (s.dev.stream e.stream).job
      let j := s.dev.job job
      let source := e.param 32 8
      let whole := e.param 20 4 = 0
      let todo := if whole then d1.jobShards e.lot job
        else one.flatMap fun t => ((d1.ownedShards t.1 t.2).filter fun i => (d1.shardOf t.1 i).split).map fun i => (t.1, t.2, i)
      let cursors := if whole then j.frozen.filter fun f => f.1 = step else []
      Turn s st .secureNow e → e.param 16 1 = 5 → e.param 17 1 = 0 → e.param 18 1 = 0 → (whole → one = [] ∧ others = true) →
      (¬ whole → ∃ t, s.dev.find e (e.param 20 4) = .ok t ∧ t.2.param = true ∧ t.2.job = job ∧ one = [t]) →
      (source.testBit 63 = true → s.dev.positionCheck e.lot source = none) →
      (source.testBit 63 = false → source % 64 = 0 ∧ (source = 0 ∨ s.dev.hostReachable e.lot = true)) →
      j.secured = some step → (∀ c, j.lastRethread = some c → c < step) → image.length ≤ e.param 40 8 →
      (whole → secureMatch e s.dev = .ok d1) → (¬ whole → d1 = s.dev) →
      ((∀ x ∈ todo, d1.isMirror x.1 x.2.1 = true) ∨ ∃ r ∈ recordsOf image, r.1.kind = 5 ∧ r.1.step = step) →
      (todo.mapM fun x => (d1.restoreImage (recordsOf image) x.1 x.2.1 x.2.2 step).map fun i => (x.1, x.2.1, i)) = some is →
      d1.claim e ((is.flatMap fun x => d1.masterRanges x.1 x.2.1 [x.2.2.shard]) ++ cursors.map fun f => (f.2.1, 0, f.2.2.length)) = .ok d2 →
      is.foldlM (fun d x => d.stageRestore e x.1 x.2.1 x.2.2 step) d2 = .ok d3 →
      cursors.foldlM (fun d f => d.putTensor e f.2.1 0 f.2.2) d3 = .ok d4 →
      exec (.secureNowRestore st { bytes := image, others := others }) s = .next (s.executed d4 e.id 0 0) ∧ exec (.secureNow st) s = .next s)
  ∧ ∀ (d d1 d2 : Device) (e cur : Entry) (key step : Nat) (t : Tensor) (i : ShardImage) (xs : List Nat),
      let v := d1.shardOf key i.shard
      d.entry e.id = some cur → (cur.shards.any fun s => s.tensor = key && s.index = i.shard) = false →
      d.putMaster e key i.shard i.master = .ok d1 → d1.takeCopy e (i.comp.length + i.moment.length + i.sketch.length) = .ok (xs, d2) →
      ∃ r n, d.stageRestore e key t i step = .ok r ∧ n.tensor = key ∧ n.index = i.shard ∧ n.shard.version = nextVersion v.version
        ∧ n.shard.step = step ∧ n.shard.flags.testBit 1 = true ∧ n.shard.updates = i.updates ∧ n.shard.comp = i.comp ∧ n.shard.moment = i.moment
        ∧ n.shard.sketch = i.sketch ∧ n.shard.split = false ∧ n.shard.extents = xs ∧ r.mem = d2.mem
        ∧ ∀ x, d2.entry e.id = some x → ∃ y, r.entry e.id = some y ∧ y.shards = x.shards ++ [n]

/-- DIFF_STREAM_CTL completes in its turn: a stop, a start on an auxiliary port of the lot, and a start on an aligned host ring of whole pages and 1
MiB or more. Its commit starts a stream at once, and notes a change or the stop of a running one for the next STEP_END (R268). DIFF_RECORD_WRITE,
on a running device: it takes note of what the sink has stored; then the next record, numbered, with a PAD before it where it would cross the
ring's end, is written to a host ring that can be reached and has room, PRODUCER passing it, or is sent on an auxiliary port with a credit; else
nothing is written. Without that stream, or on a device that does not run, nothing happens (R271, R295). SNAPSHOT_SHIP in its turn, with its
memory reserved: of a closed step, to an aligned host buffer that can be reached and is large enough it writes the image there and completes; to
a peer it takes its references and waits; of a step not closed yet, and where it is to receive, it waits. SNAPSHOT_PEER_MATCH completes a sender
whose peer accepts it, and a receiver whose image agrees with its digests and fits the tensor, with RESULT1 its bytes. SNAPSHOT_PEER_TIMEOUT
fails a sender with E_SHIP_PEER when its time has passed (R272 to R274). -/
def Obligations.RecordsShip : Prop :=
  (∀ (s : State) (st : StreamId) (e : Entry), Turn s st .diffStreamCtl e →
      let v := diffSettings e.packet
      (e.param 16 1 = 0 ∧ e.param 17 1 = 0)
        ∨ ((e.param 16 1 = 1 ∨ e.param 16 1 = 2) ∧ 64 ≤ v.backlog ∧ v.backlog ≤ 65536
          ∧ ((∃ w, v.port = some w ∧ 92 ≤ w ∧ w ≤ 95 ∧ v.ring = 0 ∧ (s.dev.lot e.lot).auxPorts.testBit (w - 92) = true)
            ∨ (v.port = none ∧ e.param 17 1 = 0 ∧ v.ringBytes % 4096 = 0 ∧ 2 ^ 20 ≤ v.ringBytes ∧ v.ring % 64 = 0))) →
      exec (.diffStreamCtl st) s = .next (s.executed s.dev e.id 0 0))
  ∧ (∀ (d : Device) (e : Entry),
      let job := (d.stream e.stream).job
      let new := ((commitDiffCtl e d).job job).diff
      (rd e.packet 16 1 ≠ 0 → (d.job job).diff = none → new = some { settings := diffSettings e.packet })
      ∧ ∀ x, (d.job job).diff = some x →
        (rd e.packet 16 1 ≠ 0 → new = some { x with change := some (some (diffSettings e.packet)) })
        ∧ (rd e.packet 16 1 = 0 → new = some { x with change := some none }))
  ∧ (∀ (s : State) (job sink consumer : Nat) (x : DiffStream),
      let i : Instr := .diffRecordWrite job { sink := sink, consumer := consumer }
      let j := s.dev.job job
      let y := x.acknowledge consumer
      let put (d : Device) (z : DiffStream) : Out := .next { s with dev := (d.setJob job ((d.job job).setSink sink z)).settlePass job }
      (s.dev.running = false ∨ j.sink sink = none → exec i s = .next s)
      ∧ (s.dev.running = true → j.sink sink = some x →
        (y.settings.port = none →
          (s.dev.hostReachable j.lot = true → ∀ rs z, y.nextWrite = some (rs, z) →
            exec i s = put (s.dev.writeRing ((s.dev.hosting j.lot).getD 0) y.settings y.producer rs) z)
          ∧ (s.dev.hostReachable j.lot = false ∨ y.nextWrite = none → exec i s = put s.dev y))
        ∧ ∀ w, y.settings.port = some w →
          (∀ r rest, (s.dev.port w).canSend 7 = true → y.backlog = r :: rest → ∃ n, (r.seq = none → n = y.next + 1) ∧
            let r1 := r.number y.next
            exec i s = put (s.dev.sendOn w 7 (.diff r1.bytes) j.lot) { y with backlog := rest, sent := y.sent ++ [r1], next := n })
          ∧ ((s.dev.port w).canSend 7 = false ∨ y.backlog = [] → exec i s = put s.dev y)))
  ∧ (∀ (y : DiffStream) (r : DiffRecord) (rest : List DiffRecord),
      let cap := y.settings.ringBytes - 64
      let used := (y.producer + cap - y.consumer) % cap
      let n := r.bytes.length
      y.backlog = r :: rest →
      (y.producer + n ≤ cap → used + n < cap → y.nextWrite = some ([r.number y.next],
        { y with backlog := rest, next := y.next + 1, producer := (y.producer + n) % cap, sent := y.sent ++ [r.number y.next] }))
      ∧ (cap < y.producer + n → used + (cap - y.producer) + n < cap → ∃ p z, y.nextWrite = some ([p, r.number (y.next + 1)], z)
        ∧ p.kind = 3 ∧ (y.producer + 64 ≤ cap → p.bytes.length = cap - y.producer) ∧ z.producer = n ∧ z.backlog = rest ∧ z.next = y.next + 2)
      ∧ ((if y.producer + n ≤ cap then cap ≤ used + n else cap ≤ used + (cap - y.producer) + n) → y.nextWrite = none))
  ∧ ∀ (s : State) (st : StreamId) (e : Entry), Turn s st .snapshotShip e →
      (∀ image : Bytes,
        let n := s.dev.snapExtents e
        let step := snapStep e s.dev
        let closed := (s.dev.job (s.dev.stream e.stream).job).counter
        let d1 := s.dev.modEntry e.id fun x => { x with reserved := n }
        let start := if e.ran then e.shipAt else s.dev.time
        let d2 := d1.modEntry e.id fun x => { x with image := some image, ran := true, shipAt := start }
        let waits (d : Device) : Prop :=
          exec (.snapshotShip st) s = .next { s with dev := d.modEntry e.id fun x => { x with wait := .ship } }
        e.param 52 4 = 0 → (e.param 29 1 = 0 → e.param 32 8 % 64 = 0) →
        (e.param 29 1 = 1 → s.dev.positionCheck e.lot (e.param 32 8) = none) → e.image = none → e.reserved = 0 →
        (e.param 24 4 = 0 ∨ ∃ k t, s.dev.find e (e.param 24 4) = .ok (k, t) ∧ t.param = true ∧ t.job = (s.dev.stream e.stream).job) →
        s.dev.heldExtents e.lot + n ≤ s.dev.quotaExtents e.lot →
        (e.param 29 1 ≤ 1 → closed < step → waits d1)
        ∧ (step = closed → d1.snapImage e step = some image →
          (e.param 29 1 = 0 → image.length ≤ e.param 40 8 → d2.hostReachable e.lot = true →
            exec (.snapshotShip st) s = .next (s.executed (d2.writeHost ((d2.hosting e.lot).getD 0) (e.param 32 8) image) e.id 0 0))
          ∧ (e.param 29 1 = 1 → waits d2)))
      ∧ (∀ k t, e.param 29 1 = 2 → s.dev.find e (e.param 52 4) = .ok (k, t) → e.param 40 8 = 0 → t.fmt = .uint8 →
        ∃ u y, exec (.snapshotShip st) s = .next u ∧ u.dev.entry e.id = some y ∧ y.ran = true ∧ y.wait = .ship ∧ u.dev.mem = s.dev.mem)
      ∧ (e.ran = true → e.param 29 1 = 1 → exec (.snapshotPeerMatch st (.receiver (e.param 48 4) true)) s = .next (s.executed s.dev e.id 0 0))
      ∧ (∀ (image : Bytes) (k : Nat) (t : Tensor) (d1 d2 : Device), e.ran = true → e.param 29 1 = 2 →
        (∀ r ∈ recordsOf image, r.1.kind = 2 → crc64 ((fullPlane r).take r.1.raw) = r.1.digest) →
        s.dev.find e (e.param 52 4) = .ok (k, t) → image.length ≤ t.size → s.dev.claim e [(k, 0, image.length)] = .ok d1 →
        d1.putTensor e k 0 image = .ok d2 →
        exec (.snapshotPeerMatch st (.sender (e.param 48 4) image)) s = .next (s.executed d2 e.id 0 image.length))
      ∧ (e.ran = true → e.param 29 1 = 1 →
        (e.shipAt + 1000000 ≤ s.dev.time → ∃ t y, exec (.snapshotPeerTimeout st) s = .next t ∧ t.dev.entry e.id = some y ∧ y.phase = .staged
          ∧ y.status = .eShipPeer)
        ∧ (s.dev.time < e.shipAt + 1000000 → exec (.snapshotPeerTimeout st) s = .next s))

/-- SPARE_ADOPT in its turn, of the position that the configuration image in force gives a spare: at first it takes the position's links and waits
for its ports; once they have settled, or 1.1 ms after its dispatch, it takes the tables, jobs and shards given to it, or on a REJOIN all but the
shards, and completes with the counts of the adoption. A job adopted has the box, the entries, the map generation, the step counter and the
RECOVERY of its image, and goes on with the step after its counter (R296, R297, R333, R345 to R348, R350; the phase in which it goes on is the
model's choice, assumption 130). ADOPTION_NOTICE, with clocks, counts a failure in every declared job whose box contains the position and in no
other; without clocks nothing happens (R343, R347). -/
def Obligations.AdoptionCompletes : Prop :=
  (∀ (s : State) (st : StreamId) (input : AdoptInput) (e : Entry), Turn s st .spareAdopt e →
    (e.ran = false → s.dev.links.role = 1 → e.param 16 8 < 2 ^ 14 →
      ({ dims := s.dev.hosts.image.dims, log2 := s.dev.hosts.image.log2 } : Links).inShape (e.param 16 8) = true →
      s.dev.hosts.image.coord = e.param 16 8 → e.param 26 1 ≤ 1 → (e.param 26 1 = 1 ↔ input.waitOnly = true) →
      ∃ t x, exec (.spareAdopt st input) s = .next t ∧ t.dev.entry e.id = some x ∧ x.ran = true ∧ x.wait = .peers
        ∧ t.dev.links.coord = e.param 16 8 ∧ t.dev.links.adoptGen = e.param 24 2 ∧ t.dev.links.role = 0)
    ∧ ∀ d1 n,
      let rejoin := decide (e.param 26 1 = 1)
      let copied := if rejoin then 0 else input.shards.length
      let missing := input.unreachable + if rejoin then 0 else input.sourced.length - n
      e.ran = true → (s.dev.portsTraining = false ∨ e.dispatchedAt + 110000 ≤ s.dev.time) →
      (s.dev.floodAll (.adopted s.dev.links.coord s.dev.links.adoptGen)).adoptState input rejoin (e.param 40 8) = some (d1, n) →
      exec (.spareAdopt st input) s = .next (s.executed d1 e.id
        (d1.deadPorts % 256 + 2 ^ 8 * min 0xFF input.leftJobs + 2 ^ 16 * min 0xFFFF copied)
        (n % 2 ^ 32 + 2 ^ 32 * min 0xFFFF missing + 2 ^ 48 * min 0xFF input.lostCursors)))
  ∧ (∀ (d : Device) (i : JobImage),
      let j := (d.adoptJob i).job i.job
      j.declared = true ∧ j.origin = i.origin ∧ j.log2 = i.log2 ∧ j.entries = i.entries ∧ j.mapGen = i.mapGen ∧ j.counter = i.counter
        ∧ j.jobStep = i.jobStep ∧ j.recovery = i.recovery ∧ j.secured = i.secured ∧ j.phaseStep = i.counter + 1 ∧ j.phase = 0)
  ∧ ∀ (s : State) (position gen : Nat) (rejoin : Bool),
      (s.dev.clocked = false → exec (.adoptionNotice position gen rejoin) s = .next s)
      ∧ (s.dev.clocked = true → ∃ t, exec (.adoptionNotice position gen rejoin) s = .next t
        ∧ (∀ job, (t.dev.job job).failures = (s.dev.job job).failures
          + (if (s.dev.job job).declared && (s.dev.job job).contains position then 1 else 0))
        ∧ t.dev.tensors = s.dev.tensors)

/-- STATS_CONFIG in its turn: a query of a context answers its blends in RESULT0, and its trace and ε in RESULT1; a configuration whose fields are
legal completes where the lot's contexts, the device's and the quota take it, with RESULT1 the bytes that a new context reserves (R152 to R154).
BLEND, with clocks, in the curvature phase of a step at which a context is due and has not been reduced: the context's sums are reduced over the
box in the canonical tree by rank, and its partial sums are zeroed. On a device that owns the factor, with finite sums, the blend is queued on
the unit of the home cluster, or the part waits for its PARTNER of the step; with no sampled row in the box it is counted as empty, and with sums
that are not finite as such, and nothing is blended. On another device nothing else happens, and at another time nothing at all (R156 to R160,
R178, R444). PRECOND_INSTALL in its turn completes where the weight is a PARAMETER tensor that has the expert, and the roots named can be read,
with nothing changed before its commit; its commit makes them pending from the step that it names, in place of the roots of the expert, and
leaves the active set as it is (R198, R199). -/
def Obligations.CurvatureCommandsComplete : Prop :=
  (∀ (s : State) (st : StreamId) (e : Entry) (key : Nat) (f : Tensor), Turn s st .statsConfig e →
      s.dev.find e (e.param 16 4) = .ok (key, f) →
      (∀ c, (e.param 44 1).testBit 2 = true → Tab.find s.dev.solver.contexts (ctxKey key 0) = some c →
        exec (.statsConfig st) s = .next (s.executed s.dev e.id (c.blends % 2 ^ 32) (c.trace * 2 ^ 32 + c.eps)))
      ∧ (∀ wk w experts n,
        let kind := e.param 36 1
        let isNew := (Tab.find s.dev.solver.contexts (ctxKey key 0)).isNone
        let bytes := if kind = 4 then 0 else partialBytes kind n
        let others (tag : Option Nat) : Nat := s.dev.contextCount tag + (s.dev.stagedContexts e.id tag).length
        let old := ((List.range experts).map fun x => extentsOf (Tab.look {} s.dev.solver.contexts (ctxKey key x)).bytes).sum
        let more := experts * extentsOf bytes - old
        (e.param 44 1).testBit 2 = false → kind ≤ 4 → e.param 37 1 ≤ 6 → e.param 38 1 < 2 ^ e.param 37 1 → 1 ≤ e.param 40 2 →
        e.param 42 2 < e.param 40 2 → f32unit (e.param 28 4) = true → f32nonneg (e.param 32 4) = true →
        (if e.param 39 1 % 4 = 2 then ∃ x, s.dev.find e (e.param 24 4) = .ok x else e.param 24 4 = 0) →
        (kind = 4 → e.param 20 4 = 0 ∧ f.fmt = .uint8 ∧ f.count % 32 = 0 ∧ experts = 1 ∧ n = 0) →
        (kind ≠ 4 → s.dev.find e (e.param 20 4) = .ok (wk, w) ∧ w.param = true ∧ (w.dims.length = 2 ∨ w.dims.length = 3)
          ∧ n = f.dims.getD 0 0 ∧ (n = w.dims.getD 0 0 ∨ n = w.dims.getD 1 0) ∧ n % 32 = 0 ∧ 32 ≤ n ∧ n ≤ 65536 ∧ f.fmt = .fp32
          ∧ f.dims = factorDims kind n w ∧ experts = expertsOf w) →
        (isNew = true → others (some e.lot) < (s.dev.lot e.lot).statsMax ∧ others none < 16384) →
        s.dev.heldExtents e.lot + more ≤ s.dev.quotaExtents e.lot →
        exec (.statsConfig st) s = .next (s.executed (s.dev.modEntry e.id fun x => { x with
          members := List.replicate experts bytes, received := [n], reserved := more }) e.id 0 (if isNew then experts * bytes else 0))))
  ∧ (∀ (s : State) (lot : Lot) (handle expert key : Nat) (peers : List PeerStats) (c : StatsCtx) (f w : Tensor),
      let i : Instr := .blend lot handle expert peers
      let k := ctxKey key expert
      let j := s.dev.job w.job
      let step := j.phaseStep
      let elems := sumElems c.kind c.width
      let mine : PeerStats := { member := s.dev.rank j, rows := c.rows, sums := elems.map fun x => Tab.look 0 c.partials (x.1 * 2 ^ 17 + x.2) }
      let all := (List.range (max 1 j.size)).filterMap fun r => (mine :: peers).find? fun p => p.member = r && p.rows ≠ 0
      let ns := (all.map fun p => p.rows).sum
      let sums := elems.zipIdx.map fun x => treeSum (all.map fun p => p.sums.getD x.2 0)
      let c1 : StatsCtx := { c with partials := [], rows := 0, reducedAt := some step }
      let d1 : Device := { s.dev with solver := { s.dev.solver with contexts := Tab.insert c1 s.dev.solver.contexts k } }
      let part : BlendPart := { key := k, rows := ns, sums := sums }
      let others := d1.heldFor k
      let waits := c.damp = 2 ∧ ∃ p, Tab.find d1.solver.contexts (ctxKey c.partner (k % 2 ^ 16)) = some p ∧ p.awaits step = true
      (s.dev.clocked = false → exec i s = .next s)
      ∧ (s.dev.lookup lot handle = some (key, f) → Tab.find s.dev.solver.contexts k = some c → s.dev.tensor c.weight = some w →
        (s.dev.running = false ∨ j.phase ≠ 2 ∨ c.awaits step = false → exec i s = .next s)
        ∧ (s.dev.running = true → s.dev.clocked = true → j.phase = 2 → c.awaits step = true →
          (s.dev.ownsContext c.weight w expert = false → exec i s = .next { s with dev := d1 })
          ∧ (s.dev.ownsContext c.weight w expert = true →
            (ns = 0 → others = [] → exec i s = .next { s with dev := d1.addNwatch lot 3 1 })
            ∧ (ns ≠ 0 → sums.any (fNonfinite fp32) = true → others = [] →
              exec i s = .next { s with dev := (d1.addNwatch lot 4 1).stateEvent lot handle expert 0 })
            ∧ (ns ≠ 0 → sums.any (fNonfinite fp32) = false →
              (¬ waits →
                let job : BlendJob := { lot := lot, step := step, parts := others ++ [part] }
                exec i s = .next { s with dev := (d1.dropHeld others).queueBlend job })
              ∧ (waits → ∃ t x, exec i s = .next t ∧ Tab.find t.dev.solver.contexts k = some x ∧ x = { c1 with held := some part }
                ∧ t.dev.solver.units = s.dev.solver.units ∧ t.dev.mem = s.dev.mem))))))
  ∧ (∀ (s : State) (st : StreamId) (e : Entry) (key : Nat) (t : Tensor) (a g : List Root) (d1 d2 : Device),
      let clear := (e.param 28 1).testBit 0
      s.dev.find e (e.param 16 4) = .ok (key, t) → t.param = true → (t.dims.length = 2 ∨ t.dims.length = 3) →
      e.param 30 2 < (if t.dims.length = 3 then t.dims.getD 2 1 else 1) → (clear = true → e.param 20 4 = 0 ∧ e.param 24 4 = 0) →
      s.dev.rootOf e (e.param 20 4) 0 (t.dims.getD 1 1) = .ok (a, d1) → d1.rootOf e (e.param 24 4) 1 (t.dims.getD 0 1) = .ok (g, d2) →
      (Turn s st .precondInstall e → exec (.precondInstall st) s = .next (s.executed d2 e.id 0 0))
      ∧ (let p := Tab.look {} s.dev.solver.preconds key
         let q := Tab.look {} (commitPrecond e s.dev).solver.preconds key
         d2.solver = s.dev.solver → q.active = p.active ∧ q.pendingFrom = some (e.param 32 8) ∧ (∀ r ∈ a ++ g, r ∈ q.pendingSet)
         ∧ (∀ r ∈ q.pendingSet, r.expert = e.param 30 2 → r ∈ a ++ g)))

/-- SOLVE in its turn, with a legal shape, room in the lot's count, a damping, tensors that no other stream writes and inputs that can be read:
without a DEADLINE, or with one that can be met, it is admitted and counted, and waits for a unit with its inputs; with one that cannot be met it
fails with E_DEADLINE_UNMEETABLE (R161, R190, R195, R200). SOLVE_START: a unit that runs nothing first takes a blend that waits for it; a free
unit takes the first waiting solve that its lot may start, with what was left of its inputs: the solve runs on it, with the result that its
inputs decide, and the unit is busy with it from this TIME on; without one nothing else happens (R161, R162, R178, R200). SOLVER_STEP_BOUNDARY,
with clocks, of a unit that runs a solve: a double error in its scratch fails the solve with E_SCRATCH_ERROR, and a DEADLINE that has passed with
E_DEADLINE_MISSED, each with its result words. Else a solve without failure whose work is done stages its outputs and completes, RESULT0 with the
iterations and the unit and RESULT1 with the residual, k and the exponent, and the unit is free; a failure that is due fails it with E_NONFINITE
and its cause; one that must give way, with a save slot, is suspended; and any other goes on, one step further. Of a unit whose blend's time has
come, the boundary ends the blend: its context has one blend more and is no longer cold (R157, R167, R168, R184, R189, R194, R196, R197). -/
def Obligations.SolvesRun : Prop :=
  (∀ (s : State) (st : StreamId) (e : Entry) (x y : Solve) (d1 d2 : Device), Turn s st .solve e → solveShape e s.dev = .ok x →
      (s.dev.solver.solves.filter fun z => z.lot = e.lot).length < (s.dev.lot e.lot).solveMax → s.dev.claim e (s.dev.solveRanges e) = .ok d1 →
      (x.fn = 2 ∨ (d1.dampingOf e).isSome = true) → d1.capture e { x with after := d1.predecessors e } = .ok (y, d2) →
      (e.deadline = 0 ∨ d2.admissible y = true →
        let d3 := d2.modCounts e.lot fun n => { n with admitted := satAdd 0xFFFF n.admitted 1 }
        let d4 : Device := { d3 with solver := { d3.solver with solves := d3.solver.solves ++ [y] } }
        let d5 := (d4.modEntry e.id fun z => { z with ran := true }).modEntry e.id fun z => { z with wait := .solver }
        exec (.solve st) s = .next { s with dev := d5 })
      ∧ (e.deadline ≠ 0 → d2.admissible y = false → (d2.entry e.id).isSome = true → ∃ t z, exec (.solve st) s = .next t
        ∧ t.dev.entry e.id = some z ∧ z.status = .eDeadlineUnmeetable ∧ z.phase = .staged
        ∧ (t.dev.solveCounts e.lot).unmeetable = satAdd 0xFFFF (d2.solveCounts e.lot).unmeetable 1))
  ∧ (∀ (s : State) (c : ClusterId),
      let d := s.dev.takeBlend c
      (s.dev.running = false → exec (.solveStart c) s = .next s)
      ∧ (s.dev.running = true → (d.unitFree c = false ∨ d.nextSolve = none) → exec (.solveStart c) s = .next { s with dev := d })
      ∧ ∀ (w y : Solve) (e : Entry) (d1 : Device), s.dev.running = true → d.unitFree c = true → d.nextSolve = some w →
        d.entry w.entry = some e → (w.result.isSome = true → y = w ∧ d1 = d) → (w.result = none → d.complete e w = .ok (y, d1)) →
        ∃ t x, exec (.solveStart c) s = .next t ∧ t.dev.solveOf e.id = some x
          ∧ x.place = .running c ∧ x.lastUnit = c
          ∧ x.result = some (w.result.getD (y.outcome (e.param 28 4 ≠ 0))) ∧ x.factor = y.factor ∧ x.aux = y.aux ∧ x.eps = y.eps
          ∧ t.dev.unit c = { d1.unit c with busy := true, entry := e.id, start := d1.time, scratch := some e.id } ∧ t.dev.mem = d1.mem)
  ∧ (∀ (d : Device) (c : Nat) (b : BlendJob) (rest : List BlendJob), (d.unit c).blends = b :: rest → (d.unit c).busy = false →
      (d.unit c).blend = none → (d.unit c).wipeUntil ≤ d.time →
      (d.takeBlend c).unit c =
        { d.unit c with blend := some { b with endsAt := d.time + d.solveTicks b.cycles }, blends := rest, start := d.time })
  ∧ (∀ (s : State) (c : ClusterId) (n m : Nat) (x : Solve) (r : SolveResult) (e : Entry),
      let u := s.dev.unit c
      let go := exec (.solverStepBoundary c { single := n, double := m }) s
      let x1 := { x with steps := x.steps + 1 }
      let d0 := (s.dev.setUnit c { u with
        corr := satAdd 0xFFFF u.corr n, uncorr := satAdd 0xFFFF u.uncorr m }).modSolve x.entry fun _ => x1
      let state := decide (e.param 28 4 ≠ 0)
      let ends (c : Status) (w : Nat × Nat) : Prop :=
        ∃ t y, go = .next t ∧ t.dev.entry e.id = some y ∧ y.phase = .staged ∧ y.status = c ∧ (y.result0, y.result1) = w
      (s.dev.clocked = false → go = .next s)
      ∧ (s.dev.clocked = true → s.dev.running = true → u.busy = true → s.dev.solveOf u.entry = some x → s.dev.entry u.entry = some e →
        x.result = some r →
        (m ≠ 0 → ends .eScratchError (x.abortWords state))
        ∧ (m = 0 → x.deadline ≠ 0 → x.deadline ≤ s.dev.time → ends .eDeadlineMissed (x1.abortWords state))
        ∧ (m = 0 → (x.deadline = 0 ∨ s.dev.time < x.deadline) →
          (∀ d1, r.failure = none → x.cycles ≤ 64 * x1.steps → d0.stageSolve e x1 r = .ok d1 → (d1.entry e.id).isSome = true →
            ∃ t, go = .next t ∧ (t.dev.unit c).busy = false
              ∧ Executed t.dev e.id (x.cap + x.lastUnit * 2 ^ 16) (r.residual + ofInt 8 r.k * 2 ^ 32 + r.expo * 2 ^ 40))
          ∧ (∀ cause k, r.failure = some (cause, k) →
            (if cause = 1 ∨ cause = 4 ∨ r.early = true then 20000 else x1.reachedAt state (min x1.cap (k + 1))) ≤ 64 * x1.steps →
            ends .eNonfinite (k + c * 2 ^ 16, 0x7FC00000 + ofInt 8 r.k * 2 ^ 32 + cause * 2 ^ 48))
          ∧ (r.failure = none → 64 * x1.steps < x.cycles →
            (∀ d1, d0.givesWay c x1 = true → d0.suspend c = some d1 → go = .next { s with dev := d1.blendBoundary c })
            ∧ (d0.givesWay c x1 = false ∨ d0.suspend c = none → go = .next { s with dev := d0.blendBoundary c })))))
  ∧ ∀ (s : State) (c : ClusterId) (b : BlendJob) (p : BlendPart) (x : StatsCtx) (f : Tensor),
      s.dev.clocked = true → s.dev.running = true → (s.dev.unit c).busy = false → (s.dev.unit c).blend = some b → b.parts = [p] →
      Tab.find s.dev.solver.contexts p.key = some x → s.dev.tensor (p.key / 2 ^ 16) = some f →
      (s.dev.time < b.endsAt → ∃ t, exec (.solverStepBoundary c {}) s = .next t ∧ (t.dev.unit c).blend = some b
        ∧ t.dev.solver.contexts = s.dev.solver.contexts ∧ t.dev.mem = s.dev.mem ∧ t.dev.journal = s.dev.journal)
      ∧ (b.endsAt ≤ s.dev.time → ∃ t y, exec (.solverStepBoundary c {}) s = .next t ∧ Tab.find t.dev.solver.contexts p.key = some y
        ∧ y.blends = x.blends + 1 ∧ y.cold = false ∧ y.blendedAt = some b.step ∧ y.weight = x.weight ∧ t.dev.journal = s.dev.journal)

/-- LOT_CREATE, CONFIG_APPLY and CONFIG_ROLLBACK in their turn, under the version in force and with no installation in progress, of an image that
passes the checks: each begins its installation, with the image and the version that it is to have, the next version or the image's own, and
CONFIG_ROLLBACK does not keep what it replaces; while another installation is in progress they wait, and under another version they fail with
E_STALE_CONFIG. A LOT_CREATE that has waited in the pending slot begins whatever the version; one of a lot that is DISABLING takes the pending
slot, with an interim reply, and one of an ENABLED lot fails with E_PARAM (R367 to R370, R372). LOT_DESTROY in its turn: of a DISABLED lot it
completes at once; of an ENABLED one it makes the lot DISABLING; once the lot is quiet and no installation is in progress it begins that of an
image without the lot, and the lot's tensors are gone; before that it waits (R372, R373). -/
def Obligations.InstallationsBegin : Prop :=
  (∀ (s : State) (st : StreamId) (host : List HostReturn) (e : Entry), e.ran = false →
      let limit := if e.drainLimit = 0 then none else some (s.dev.time + e.drainLimit)
      let next := nextSkip0 16 s.dev.hosts.version
      let free := s.dev.hosts.install = none ∧ rd e.packet 12 2 = s.dev.hosts.version
      let waits (i : Instr) : Prop := exec i s = .next { s with dev := s.dev.modEntry e.id fun x => { x with wait := .drain } }
      let stale (i : Instr) : Prop := ∃ t x, exec i s = .next t ∧ t.dev.entry e.id = some x ∧ x.phase = .staged ∧ x.status = .eStaleConfig
      (Turn s st .configApply e →
        (s.dev.hosts.install.isSome = true → waits (.configApply st host))
        ∧ (s.dev.hosts.install = none → rd e.packet 12 2 ≠ s.dev.hosts.version → stale (.configApply st host))
        ∧ ∀ b v image, free → 64 ≤ e.param 24 4 → e.param 24 4 ≤ maxImage →
          s.dev.readPointed e host (e.param 16 8) (e.param 24 4) ((e.param 28 1).testBit 0) = .ok b → parseImage b (e.param 24 4) = some (v, image) →
          laterVersion s.dev.hosts.version v = true → s.dev.checkImage image none = none →
          ∃ t, exec (.configApply st host) s = .next t
            ∧ t.dev.hosts.install = some { entry := e.id, image := image, version := v, keep := true, limitAt := limit }
            ∧ t.dev.hosts.version = s.dev.hosts.version ∧ t.dev.mem = s.dev.mem)
      ∧ (Turn s st .configRollback e →
        (s.dev.hosts.install.isSome = true → waits (.configRollback st))
        ∧ (s.dev.hosts.install = none → rd e.packet 12 2 ≠ s.dev.hosts.version → stale (.configRollback st))
        ∧ ∀ v image, free → s.dev.hosts.kept = some (v, image) → s.dev.checkImage image none = none →
          ∃ t, exec (.configRollback st) s = .next t
            ∧ t.dev.hosts.install = some { entry := e.id, image := image, version := next, keep := false, limitAt := limit }
            ∧ t.dev.hosts.version = s.dev.hosts.version ∧ t.dev.mem = s.dev.mem)
      ∧ ∀ b,
        let l := parseLot b
        let v := s.dev.lotState l.tag
        let d0 := s.dev.setLotState l.tag { v with pendingBy := none }
        let i : Instr := .lotCreate st host
        Turn s st .lotCreate e → s.dev.readPointed e host (e.param 16 8) 128 ((e.param 24 1).testBit 0) = .ok b → lotReservedOk b = true →
        l.valid = true → l.tag < Config.lots →
        (s.dev.lotDom l.tag = .disabled →
          (s.dev.hosts.install = none → (v.pendingBy = some e.id ∨ rd e.packet 12 2 = s.dev.hosts.version) →
            d0.checkImage (d0.derivedImage l.tag l) none = none →
            ∃ t, exec i s = .next t ∧ (t.dev.lotState l.tag).creating = some e.id ∧ t.dev.lotDom l.tag = .enabling
              ∧ t.dev.hosts.install = some { entry := e.id, image := d0.derivedImage l.tag l, version := next, keep := true, limitAt := limit })
          ∧ (s.dev.hosts.install.isSome = true → waits i)
          ∧ (s.dev.hosts.install = none → v.pendingBy ≠ some e.id → rd e.packet 12 2 ≠ s.dev.hosts.version → stale i))
        ∧ (s.dev.lotDom l.tag = .disabling → v.pendingBy ≠ some e.id → rd e.packet 12 2 = s.dev.hosts.version →
          ∃ t, exec i s = .next t ∧ (t.dev.lotState l.tag).pendingBy = some e.id ∧ t.dev.hosts.install = s.dev.hosts.install)
        ∧ (s.dev.lotDom l.tag = .enabled → ∃ t x, exec i s = .next t ∧ t.dev.entry e.id = some x ∧ x.phase = .staged ∧ x.status = .eParam))
  ∧ ∀ (s : State) (st : StreamId) (e : Entry), Turn s st .lotDestroy e →
      let tag := e.param 16 1
      1 ≤ tag → tag < Config.lots →
      (s.dev.lotDom tag = .disabled → exec (.lotDestroy st) s = .next (s.executed s.dev e.id 0 0))
      ∧ (s.dev.lotDom tag = .enabling →
        exec (.lotDestroy st) s = .next { s with dev := s.dev.modEntry e.id fun x => { x with wait := .drain } })
      ∧ (s.dev.lotDom tag = .enabled →
        ∃ t, exec (.lotDestroy st) s = .next t ∧ (t.dev.lotState tag).destroying = some e.id ∧ t.dev.lotDom tag = .disabling
          ∧ t.dev.hosts.install = s.dev.hosts.install)
      ∧ (s.dev.lotDom tag = .disabling → (s.dev.lotState tag).destroying = some e.id →
        (s.dev.destroyQuiet tag = true → s.dev.hosts.install = none →
          ∃ t i, exec (.lotDestroy st) s = .next t ∧ t.dev.hosts.install = some i ∧ i.entry = e.id
            ∧ i.version = nextSkip0 16 s.dev.hosts.version ∧ (∀ x ∈ t.dev.tensors, tensorLot x.1 ≠ tag))
        ∧ (s.dev.destroyQuiet tag = false ∨ s.dev.hosts.install.isSome = true →
          ∃ t, exec (.lotDestroy st) s = .next t ∧ t.dev.lotDom tag = .disabling ∧ t.dev.hosts.install = s.dev.hosts.install))

/-- CONFIG_INSTALL, on a running device: once no command of the old version is in flight, the image and the version of the installation are in force,
and its command completes with the new version in RESULT0; before that, or without an installation, nothing happens. DRAIN_LIMIT_EXPIRY: past the
limit the installation ends under the old version, and its command fails with E_DEADLINE_MISSED, but for a LOT_DESTROY, which stays dispatched;
before it, and without a limit, nothing happens (R369, R372, R373). -/
def Obligations.InstallationsEnd : Prop :=
  ∀ (s : State),
    ((s.dev.running = false ∨ s.dev.drained = false ∨ s.dev.hosts.install = none) → exec .configInstall s = .next s)
    ∧ ((s.dev.running = false ∨ s.dev.hosts.install = none) → exec .drainLimitExpiry s = .next s)
    ∧ ∀ (i : Install), s.dev.running = true → s.dev.hosts.install = some i →
      (s.dev.drained = true → (s.dev.entry i.entry).isSome = true → ∃ t, exec .configInstall s = .next t ∧ Executed t.dev i.entry i.version 0
        ∧ t.dev.hosts.version = i.version ∧ t.dev.hosts.image = i.image ∧ t.dev.hosts.install = none)
      ∧ ((i.limitAt = none ∨ ∃ l, i.limitAt = some l ∧ s.dev.time < l) → exec .drainLimitExpiry s = .next s)
      ∧ ∀ e limit, s.dev.entry i.entry = some e → e.phase = .dispatched → i.limitAt = some limit → limit ≤ s.dev.time →
        ∃ t x, exec .drainLimitExpiry s = .next t ∧ t.dev.hosts.install = none ∧ t.dev.hosts.version = s.dev.hosts.version
          ∧ t.dev.entry e.id = some x ∧ (e.op ≠ .lotDestroy → x.phase = .staged ∧ x.status = .eDeadlineMissed)
          ∧ (e.op = .lotDestroy → (∀ y ∈ s.dev.journal, y.id = e.id → y = e) → x.phase = .dispatched)

/-- HOST_ROLE in its turn completes for the holder and for an ATTACHED attachment, and fails with E_PARAM for another; its commit gives that
attachment the role (R362). POWER_POLICY in its turn completes with values in their ranges, and fails with E_PARAM for a PSTATE, a power cap, a
delay or a timer out of them; its commit puts the values in force, with the wake timer counting from that TIME (R408). SELFTEST in its turn, of a
unit that R419 lets it test: RESULT0 is the fault code that the test finds and RESULT1 the index of the unit where it is not 0, and the unit is
marked FAULTY or not; of another unit it fails with E_PARAM (R414, R419). -/
def Obligations.ManagementComplete : Prop :=
  (∀ (s : State) (st : StreamId) (e : Entry),
      let fails (i : Instr) : Prop := ∃ t x, exec i s = .next t ∧ t.dev.entry e.id = some x ∧ x.phase = .staged ∧ x.status = .eParam
      let roleOk := s.dev.hosts.holder = some (e.param 16 1) ∨ (e.param 16 1 < Config.attachments ∧ s.dev.attached (e.param 16 1) = true)
      let policyOk := (e.policy.pstate ≤ 2 ∨ e.policy.pstate = 0xFF) ∧ 800 ≤ e.policy.cap ∧ e.policy.cap ≤ 2800
        ∧ e.policy.c2Delay ≤ 100000000 ∧ e.policy.wakeTimer ≤ 100000000
      (Turn s st .hostRole e → (roleOk → exec (.hostRole st) s = .next (s.executed s.dev e.id 0 0)) ∧ (¬ roleOk → fails (.hostRole st)))
      ∧ (commitHostRole e s.dev).hosts.holder = some (e.param 16 1)
      ∧ (Turn s st .powerPolicy e →
        (policyOk → exec (.powerPolicy st) s = .next (s.executed s.dev e.id 0 0)) ∧ (¬ policyOk → fails (.powerPolicy st)))
      ∧ (commitPolicy e s.dev).power.policy = e.policy
      ∧ (commitPolicy e s.dev).power.wakeAt = (if e.policy.wakeTimer = 0 then none else some (s.dev.time + e.policy.wakeTimer)))
  ∧ (∀ (s : State) (st : StreamId) (e : Entry) (code : Nat), Turn s st .selftest e →
      let scope := e.param 16 1
      let i := e.param 18 2
      let allowed := scope = 0 ∨ (scope = 1 ∧ i < Config.clusters ∧ (s.dev.cluster i).state = .disabled)
        ∨ (scope = 2 ∧ i < Config.memStacks ∧ s.dev.stackEmpty i = true) ∨ (scope = 3 ∧ i < Config.ports ∧ (s.dev.port i).state = .disabled)
      (allowed → code < 2 ^ 32 →
        exec (.selftest st code) s = .next (s.executed (s.dev.markFaulty scope i (code ≠ 0)) e.id code (if code = 0 then 0 else i)))
      ∧ (¬ allowed → ∃ t x, exec (.selftest st code) s = .next t ∧ t.dev.entry e.id = some x ∧ x.phase = .staged ∧ x.status = .eParam))
  ∧ ∀ (d : Device) (i : Nat) (bad : Bool), ((d.markFaulty 1 i bad).cluster i).faulty = bad ∧ ((d.markFaulty 2 i bad).stackDom i).faulty = bad
      ∧ ((d.markFaulty 3 i bad).port i).faulty = bad ∧ d.markFaulty 0 i bad = d

/-- DOMAIN_ENABLE in its turn, of a domain that is not FAULTY: an ENABLED or ENABLING one completes it; a DISABLED one takes the request, and a
DISABLING one in place of what its pending slot held, with an interim reply, and the command waits. A cluster, core or stack that takes the
request is ENABLING, and ready 6,000 ticks later; a cluster or core then becomes ENABLED at the tick. DOMAIN_DISABLE in its turn: of a domain
that is DISABLED or DISABLING, and, if a stack, empty, it completes; any other takes the request, and the command waits; of an ENABLED core that
runs no kernel, with nothing in its pending slot, it leaves the core DISABLED and completes. STACK_RETRAIN_DONE makes an ENABLING stack ENABLED,
with clocks, and completes the command that enabled it; of another stack it does nothing (R400, R406, R407). -/
def Obligations.DomainsChange : Prop :=
  (∀ (s : State) (st : StreamId) (e : Entry) (t : Target), e.ran = false → targetOf (e.param 16 1) (e.param 18 2) = some t →
      let mark (d : Device) : Device := d.modEntry e.id fun x => { x with ran := true }
      let slot := (s.dev.domain t).2.2
      let d1 := mark (s.dev.domainEnable t e.id)
      let d2 := (mark ((s.dev.supersede slot).domainEnable t e.id)).interimReply e
      let d3 := mark (s.dev.domainDisable t)
      let empty := ∀ m, t = .stack m → s.dev.stackEmpty m = true
      (Turn s st .domainEnable e → (s.dev.domain t).2.1 = false →
        ((s.dev.domain t).1 = .enabled ∨ (s.dev.domain t).1 = .enabling →
          exec (.domainEnable st) s = .next (s.executed s.dev e.id 0 0))
        ∧ ((s.dev.domain t).1 = .disabled →
          exec (.domainEnable st) s = .next { s with dev := d1.modEntry e.id fun x => { x with wait := .time } })
        ∧ ((s.dev.domain t).1 = .disabling →
          exec (.domainEnable st) s = .next { s with dev := d2.modEntry e.id fun x => { x with wait := .pendingSlot } }))
      ∧ (Turn s st .domainDisable e → empty →
        ((s.dev.domain t).1 = .disabled ∨ (s.dev.domain t).1 = .disabling →
          exec (.domainDisable st) s = .next (s.executed s.dev e.id 0 0).tickDomains)
        ∧ ((s.dev.domain t).1 = .enabled ∨ (s.dev.domain t).1 = .enabling →
          exec (.domainDisable st) s = .next { s with dev := d3.modEntry e.id fun x => { x with wait := .time } }.tickDomains)
        ∧ (∀ n, t = .core n → (s.dev.coreDom n).state = .enabled → s.coreIdle n = true → (s.dev.coreDom n).pendingBy = none →
          ∃ u, exec (.domainDisable st) s = .next u ∧ Executed u.dev e.id 0 0 ∧ (u.dev.coreDom n).state = .disabled)))
  ∧ (∀ (d : Device) (t : Target) (k i id : Nat), t.power = some (k, i) → (d.powerDom k i).state = .disabled →
      let v := (d.domainEnable t id).powerDom k i
      v.state = .enabling ∧ v.readyAt = d.time + 6000 ∧ v.enabler = some id)
  ∧ (∀ (s : State) (k i : Nat), k ≤ 1 → (s.dev.powerDom k i).state = .enabling → (s.dev.powerDom k i).readyAt ≤ s.dev.time →
      ((s.tickDomain k i).dev.powerDom k i).state = .enabled)
  ∧ ∀ (s : State) (m : StackId),
      ((s.dev.stackDom m).state = .enabling → s.dev.clocked = true →
        ∃ u, exec (.stackRetrainDone m) s = .next u ∧ (u.dev.stackDom m).state = .enabled ∧ (u.dev.stackDom m).cstate = 0
          ∧ (∀ id, (s.dev.stackDom m).enabler = some id → (s.dev.entry id).isSome = true → Executed u.dev id 0 0))
      ∧ ((s.dev.stackDom m).state ≠ .enabling ∨ s.dev.clocked = false → exec (.stackRetrainDone m) s = .next s)

/-- C2_ENTRY and C3_ENTRY put into C2 and C3, on a running device, an enabled core that runs no kernel and an enabled cluster that does nothing,
whose cores are as deep, in a shallower state, for which POWER_POLICY allows the state, the core idle for its delay; in C3 a core's local store
reads as blank. Another unit they leave as it is. A dump tick or another edge wake that came while the unit entered is lost, and counted (R400,
R401, R404). D0_IDLE_ENTRY puts an idle package, whose delay has passed, into D0-idle, which a pending timer expiry ends at once; another package
it leaves (R402, R403). The wakes, while the root PLL supplies clocks: WAKE and SCAN_HALT_REQUEST return an enabled sleeping core of an enabled
cluster to C0 and record the source; WAKE returns an enabled sleeping cluster to C0, and a stack out of self-refresh; WAKE_N_ASSERT and an
expired WAKE_TIMER return the package to D0. Without clocks, and where the source does not wake the unit, nothing happens (R403, R405, R408). -/
def Obligations.IdleAndWake : Prop :=
  (∀ (s : State) (n : CoreId) (k : Nat) (entry : PowerUnit → Option WakeSource → Instr),
      ((k = 2 ∧ entry = .c2Entry) ∨ (k = 3 ∧ entry = .c3Entry)) →
      let may (delay since : Nat) : Prop := (k = 3 → s.dev.power.policy.c3Delay ≠ 0) ∧ since + delay ≤ s.dev.time
      let delay := if k = 2 then s.dev.power.policy.c2Delay else s.dev.power.policy.c3Delay
      let v := s.dev.coreDom n
      let ok := s.dev.running = true ∧ v.state = .enabled ∧ v.cstate < k ∧ s.coreIdle n = true ∧ may delay v.idleSince
      (ok → ∃ t, exec (entry (.core n) none) s = .next t ∧ t.dev = s.dev.setCoreDom n { v with cstate := k }
        ∧ (k = 2 → t.eng = s.eng)
        ∧ (k = 3 → ∀ a, a < Config.localStoreBytes → readByte t.eng.stores (n * Config.localStoreBytes + a) = 0)
        ∧ (∀ a, a / Config.localStoreBytes ≠ n → readByte t.eng.stores a = readByte s.eng.stores a))
      ∧ (¬ ok → exec (entry (.core n) none) s = .next s)
      ∧ (ok → ∃ t, exec (entry (.core n) (some .dumpTick)) s = .next t ∧ (n.val, s.dev.time) ∈ t.dev.power.lostTicks
        ∧ t.dev.power.wakeLost = satAdd 0xFFFFFFFF s.dev.power.wakeLost 1 ∧ (t.dev.coreDom n).cstate = k)
      ∧ (ok → ∃ t, exec (entry (.core n) (some .scanHalt)) s = .next t
        ∧ t.dev.power.wakeLost = satAdd 0xFFFFFFFF s.dev.power.wakeLost 1 ∧ (t.dev.coreDom n).cstate = k)
      ∧ ∀ c : ClusterId,
        let w := s.dev.cluster c
        let quiet := s.dev.running = true ∧ w.state = .enabled ∧ w.cstate < k ∧ s.dev.clusterQuiet c = true
          ∧ (k = 3 → s.dev.power.policy.c3Delay ≠ 0)
          ∧ ∀ m ∈ coresOf c, (s.dev.coreDom m).state = .disabled ∨ k ≤ (s.dev.coreDom m).cstate
        (quiet → ∃ t, exec (entry (.cluster c) none) s = .next t ∧ t.dev.cluster c = { w with cstate := k } ∧ t.eng = s.eng
          ∧ t.dev.journal = s.dev.journal ∧ t.dev.mem = s.dev.mem)
        ∧ (¬ quiet → exec (entry (.cluster c) none) s = .next s))
  ∧ (∀ s : State,
      let ok := s.dev.running = true ∧ s.dev.power.d0Idle = false ∧ s.dev.packageIdle = true
        ∧ s.dev.power.idleSince + s.dev.power.policy.idleDelay ≤ s.dev.time
      (¬ ok → exec .d0IdleEntry s = .next s)
      ∧ (ok → ∃ t, exec .d0IdleEntry s = .next t ∧ t.dev.power.d0Idle = (!s.dev.power.timerWake) ∧ t.dev.power.timerWake = false
        ∧ t.dev.mem = s.dev.mem ∧ t.eng = s.eng
        ∧ (s.dev.power.timerWake = false → ∀ m, m < Config.memStacks →
          (t.dev.stackDom m).cstate = if s.dev.mayRefresh m then 1 else (s.dev.stackDom m).cstate)))
  ∧ (∀ (s : State) (u : PowerUnit) (w : WakeSource) (n : CoreId), (s.dev.clocked = false ∨ u.wakes w = false → exec (.wake u w) s = .next s)
      ∧ (s.dev.clocked = false → exec (.scanHaltRequest n) s = .next s ∧ exec .wakeNAssert s = .next s ∧ exec .wakeTimerExpiry s = .next s)
      ∧ ((s.dev.power.wakeAt = none ∨ ∃ a, s.dev.power.wakeAt = some a ∧ s.dev.time < a) → exec .wakeTimerExpiry s = .next s))
  ∧ ∀ s : State, s.dev.clocked = true →
      (∀ n : CoreId, (s.dev.coreDom n).state = .enabled → (s.dev.cluster (n / 8)).state = .enabled → 2 ≤ (s.dev.coreDom n).cstate →
        (∃ t, exec (.wake (.core n) .work) s = .next t ∧ (t.dev.coreDom n).cstate = 0 ∧ t.dev.power.d0Idle = false
          ∧ t.dev.power.wakeUnit = n ∧ t.dev.power.wakeSource = 0x03 ∧ t.dev.power.wakeTime = s.dev.time)
        ∧ (∃ t, exec (.scanHaltRequest n) s = .next t ∧ (t.dev.coreDom n).cstate = 0 ∧ t.dev.power.d0Idle = false
          ∧ t.dev.power.wakeUnit = n ∧ t.dev.power.wakeSource = 0x11 ∧ t.dev.power.wakeEdge = true))
      ∧ (∀ c : ClusterId, (s.dev.cluster c).state = .enabled → 2 ≤ (s.dev.cluster c).cstate →
        ∃ t, exec (.wake (.cluster c) .work) s = .next t ∧ (t.dev.cluster c).cstate = 0 ∧ t.dev.power.d0Idle = false
          ∧ t.dev.power.wakeUnit = c ∧ t.dev.power.wakeSource = 0x03)
      ∧ (∀ m : StackId, (s.dev.stackDom m).cstate ≠ 0 → ∃ t, exec (.wake (.stack m) .memory) s = .next t ∧ (t.dev.stackDom m).cstate = 0
        ∧ t.dev.power.d0Idle = false)
      ∧ (∃ t, exec .wakeNAssert s = .next t ∧ t.dev.power.d0Idle = false ∧ t.dev.mem = s.dev.mem)
      ∧ ∀ a, s.dev.power.wakeAt = some a → a ≤ s.dev.time →
        ∃ t, exec .wakeTimerExpiry s = .next t ∧ t.dev.power.wakeAt = none ∧ t.dev.power.d0Idle = false
          ∧ (t.dev.power.timerWake = !s.dev.power.d0Idle)

/-- PMON_CONFIG in its turn. A configuration of counters that exist, by ACTION 0 or 1, of an event of their table, and a release by ACTION 2, where
no other lot owns one of them or FORCE is set, completes, and so do the start and the stop of a dump; ANY_LOT and FORCE are for lot 0 alone. Its
commit makes each of those counters count that event for the lot, from 0 where RESET is 1, or blanks it, and leaves every other counter of the
kind as it is; a start makes the lot's dump run with its ring and period, a stop ends it (R422 to R424, R428). WATCH_CONFIG in its turn. A set
with ordered thresholds that are no NaN, with ratio thresholds only on a PARAMETER tensor, of a tensor that has a watch or of one that the lot's
256 admit, completes; its commit gives the tensor a watch with those thresholds and counts of 0. A query completes with the record of the watch
in its tensor. A clear completes, and its commit leaves the tensor without a watch; no other tensor's watch changes (R431, R435). DUMP_TICK, at a
multiple of the period of a lot's running dump: SEQ is one more, and either the record before was not complete, which is an overrun, or the next
record stands at its place in the ring. Off such a TIME nothing happens (R428, R429). -/
def Obligations.MonitorsConfigure : Prop :=
  (∀ (s : State) (st : StreamId) (e : Entry),
      let c := e.ofClusters
      let flags := e.param 17 1
      let action := e.param 16 1
      let done := exec (.pmonConfig st) s = .next (s.executed s.dev e.id 0 0)
      let select := if action = 2 then c = true ∨ e.param 24 4 < 2 ^ 10
        else (if c then clusterSelectOk (e.param 24 4) else coreSelectOk (e.param 24 4)) = true
      (Turn s st .pmonConfig e → (e.lot = 0 ∨ flags % 4 = 0) →
        (action ≤ 2 → e.param 18 2 ≤ e.param 20 2 → e.param 20 2 < (if c then 32 else 256) → e.param 22 1 < (if c then 16 else 8) → select →
          (flags.testBit 0 = true ∨ ∀ k ∈ e.counterKeys, ∀ o, (Tab.look {} (s.dev.counters c) k).owner = some o → o = e.lot) → done)
        ∧ (∀ k t, action = 3 → s.dev.find e (e.param 28 4) = .ok (k, t) → t.fmt = .uint8 → 2 * 53312 ≤ t.count → 1 ≤ e.param 32 4 →
          e.param 32 4 ≤ 1000 → done)
        ∧ (action = 4 → done))
      ∧ (action ≤ 2 → ∀ k, Tab.look {} ((commitPmon e s.dev).counters c) k =
          if k ∈ e.counterKeys then
            if action = 2 then {} else
            { value := if flags.testBit 2 then 0 else (Tab.look {} (s.dev.counters c) k).value, owner := some e.lot, any := flags.testBit 1
              sel := e.param 24 4 }
          else Tab.look {} (s.dev.counters c) k)
      ∧ (let v := Tab.look {} (commitPmon e s.dev).observe.dumps e.lot
         (action = 3 → v.running = true ∧ v.ring = tensorKeyOf e.lot (e.param 28 4 % 2 ^ 24) ∧ v.period = e.param 32 4 ∧ v.seq = 0)
         ∧ (action = 4 → v.running = false)))
  ∧ (∀ (s : State) (st : StreamId) (e : Entry) (key : Nat) (t : Tensor), s.dev.find e (e.param 16 4) = .ok (key, t) →
      let lo := e.param 28 4
      let hi := e.param 32 4
      (Turn s st .watchConfig e → e.param 21 1 ≤ 1 →
        (e.param 20 1 = 1 → (e.param 21 1 = 1 ∨ (s.dev.stream e.stream).job ≠ 0) →
          ((Tab.find s.dev.observe.watches key).isSome = true
            ∨ s.dev.watchesOf e.lot + ((s.dev.newWatches e.id e.lot).filter (· ≠ key)).length < 256) →
          (t.param = true ∨ (lo = 0 ∧ hi = 0x7F800000)) → (decodeF fp32 lo).isNan = false → (decodeF fp32 hi).isNan = false →
          f32lt hi lo = false → exec (.watchConfig st) s = .next (s.executed s.dev e.id 0 0))
        ∧ (∀ rk r w d1 d2, e.param 20 1 = 2 → s.dev.find e (e.param 36 4) = .ok (rk, r) → Tab.find s.dev.observe.watches key = some w →
          r.fmt = .uint8 → 64 ≤ r.count → s.dev.claim e [(rk, 0, 64)] = .ok d1 → d1.putTensor e rk 0 (w.record (t.handle key)) = .ok d2 →
          exec (.watchConfig st) s = .next (s.executed d2 e.id 0 0))
        ∧ (e.param 20 1 = 0 → exec (.watchConfig st) s = .next (s.executed s.dev e.id 0 0))))
  ∧ (∀ (d : Device) (e : Entry),
      let key := tensorKeyOf e.lot (e.param 16 4 % 2 ^ 24)
      (e.param 20 1 = 1 → ∃ w, Tab.find (commitWatch e d).observe.watches key = some w ∧ w.zeroMax = e.param 22 2
          ∧ w.satMax = e.param 24 2 ∧ w.nfMax = e.param 26 2 ∧ w.ratioMin = e.param 28 4 ∧ w.ratioMax = e.param 32 4
          ∧ w.now.written = 0 ∧ w.now.zeros = 0 ∧ w.now.saturated = 0 ∧ w.now.nonfinite = 0)
      ∧ (e.param 20 1 = 0 → Tab.find (commitWatch e d).observe.watches key = none)
      ∧ ∀ k, k ≠ key → Tab.find (commitWatch e d).observe.watches k = Tab.find d.observe.watches k)
  ∧ ∀ (s : State) (lot : Lot) (lost : List Nat) (r : Tensor),
      let v := Tab.look {} s.dev.observe.dumps lot
      (s.dev.running = false ∨ v.running = false ∨ s.dev.time % (100 * v.period) ≠ 0 → exec (.dumpTick lot lost) s = .next s)
      ∧ (s.dev.running = true → v.running = true → s.dev.time % (100 * v.period) = 0 → s.dev.tensor v.ring = some r →
        ∃ t w, exec (.dumpTick lot lost) s = .next t ∧ Tab.look {} t.dev.observe.dumps lot = w ∧ w.running = true ∧ w.seq = v.seq + 1
          ∧ (v.last = [] → w.overrun = false)
          ∧ (w.overrun = true → w.sticky = true ∧ w.last = v.last)
          ∧ (w.overrun = false → w.lastSeq = v.seq + 1 ∧ w.offset = dumpBytes * ((v.seq + 1) % (r.count / dumpBytes))
            ∧ w.last.length = dumpBytes ∧ rd w.last 0 8 = (v.seq + 1) % 2 ^ 64 ∧ rd w.last 8 8 = s.dev.time % 2 ^ 64))

/-- LEDGER_AUDIT in its turn, without a record tensor or with one of bytes that no other stream writes: an instance of an audited ledger that is VOID
and has passed its reset point is consistent from now on; RESULT1 counts the other VOID instances of the audited ledgers, and RESULT0 has bit 8 +
g of each ledger g among them; the findings that the tensor holds are written to it. LEDGER_SRAM_ERROR, with clocks, of an instance that exists:
a single-bit error is counted as corrected and makes nothing VOID; a double-bit error is counted and makes its instance VOID; otherwise nothing
happens (R437, R438). SELVAGE_READ in its turn, of 1 to 65,536 entries to an aligned destination that the lot may write, in device memory or at
the host: it writes the entries, and ends with their number and with the index of the first, or of the kept flush slot with its serial. Of the
live log these are the entries that it held at the command's dispatch, from the first one asked for that it still held, and none where one of
them has been overwritten since (R440, R442). -/
def Obligations.LedgersAndLog : Prop :=
  (∀ (s : State) (st : StreamId) (e : Entry) (space : Nat) (d1 d4 : Device), Turn s st .ledgerAudit e →
      let mask := e.param 16 1
      let handle := e.param 20 4
      let beyond (v : Nat × Nat) : Bool := mask.testBit v.1 && s.dev.observe.resetPoint.contains v
      let kept := s.dev.observe.voids.filter fun v => !beyond v
      let found := (List.range 6).flatMap fun g => kept.filter fun v => v.1 = g && mask.testBit g
      let d2 : Device := { d1 with observe := { d1.observe with
        voids := kept, resetPoint := s.dev.observe.resetPoint.filter fun v => !beyond v } }
      let r := (found.take space).foldl (fun (acc : Bytes × Device) v => (acc.1 ++ (finding acc.2 v).1, (finding acc.2 v).2)) ([], d2)
      let r0 := ((List.range 6).map fun g => if found.any fun v => v.1 = g then 2 ^ (8 + g) else 0).sum
      (handle = 0 → space = 0 ∧ d1 = s.dev) →
      (handle ≠ 0 → ∃ k t, s.dev.find e handle = .ok (k, t) ∧ t.fmt = .uint8 ∧ space = t.count / 16
        ∧ s.dev.claim e [(k, 0, t.count)] = .ok d1 ∧ (r.1 ≠ [] → r.2.putTensor e k 0 r.1 = .ok d4)) →
      (r.1 = [] → d4 = r.2) →
      exec (.ledgerAudit st) s = .next (s.executed d4 e.id r0 found.length)
      ∧ (∀ g, g < 6 → r0.testBit (8 + g) = found.any fun v => v.1 = g))
  ∧ (∀ (s : State) (g : Fin 6) (i : Nat) (double : Bool),
      (s.dev.clocked = false ∨ ledgerInstances g ≤ i → exec (.ledgerSramError g i double) s = .next s)
      ∧ (s.dev.clocked = true → i < ledgerInstances g →
        (∃ t, exec (.ledgerSramError g i false) s = .next t ∧ t.dev.observe.ledCorr = satAdd 0xFFFF s.dev.observe.ledCorr 1
          ∧ t.dev.observe.ledUncorr = s.dev.observe.ledUncorr ∧ t.dev.observe.voids = s.dev.observe.voids)
        ∧ (∃ t, exec (.ledgerSramError g i true) s = .next t ∧ t.dev.observe.ledUncorr = satAdd 0xFFFF s.dev.observe.ledUncorr 1
          ∧ t.dev.observe.ledCorr = s.dev.observe.ledCorr ∧ (g.val, i) ∈ t.dev.observe.voids)))
  ∧ (∀ (s : State) (st : StreamId) (e : Entry) (es : List (Bool × EventRec)) (r1 : Nat) (d0 d1 d2 : Device),
      let count := e.param 32 4
      let dest := e.param 40 8
      let host := (e.param 48 1).testBit 0
      let bytes := es.flatMap fun y => y.2.bytes y.1
      Turn s st .selvageRead e → e.param 16 1 ≤ 1 → 1 ≤ count → count ≤ 65536 → dest % 64 = 0 →
      s.dev.selvageEntries (e.param 16 1) (e.param 24 8) count e.logAt = some (es, r1) →
      (host = true → s.dev.hostReachable e.lot = true ∧ d1 = s.dev) →
      (host = false → s.dev.needAddr (srcLot e.lot) e.lot dest 32 = .ok d0
        ∧ (∀ v, d0.tensorAt e.lot (dest / Config.extentBytes) = some v → 32 * count ≤ v.2.size)
        ∧ d0.needAddr (srcLot e.lot) e.lot dest (32 * count) = .ok d1) →
      (bytes = [] → d2 = d1) → (bytes ≠ [] → d1.writePlane e host dest bytes = .ok d2) →
      exec (.selvageRead st) s = .next (s.executed d2 e.id es.length r1))
  ∧ ∀ (d : Device) (start count : Nat) (held : Nat × Nat),
      let first := max start held.1
      let log := d.observe.log.filter fun x => first ≤ x.1 && x.1 < min (start + count) held.2
      (d.observe.nextLog - d.observe.log.length ≤ first →
        d.selvageEntries 0 start count held = some (log.map fun x => (x.2.1, x.2.2), first))
      ∧ (first < d.observe.nextLog - d.observe.log.length → d.selvageEntries 0 start count held = some ([], first))
      ∧ ∀ f, d.power.keptFlush = some f → d.selvageEntries 1 start count held = some ((f.entries.drop start).take count, f.serial)

/-- A read of a register that a function sees gives its value, and clears those of its fields that a read clears: all 64 bits of a 64-bit register,
or its lower half, with the upper one latched, so that the next read of the upper half by the function gives what was latched; or the 32 bits of
another. One of a register that the function does not see, and one at a reserved offset, gives 0 and clears nothing. A write at a reserved
offset, or of a register that the function does not see, changes nothing; one of a doorbell acts as the row of that register; one of EVQ_HOLDOFF
sets it, up to 100,000. A misaligned read gives 0, and a misaligned write changes nothing (the model's choice, assumption 144). A function that
does not answer reads no register and writes none, and a read that does not complete gives no data (R4, R7, R8, R11, R12, R353, R395). -/
def Obligations.RegisterAccesses : Prop :=
  ∀ (s : State) (f : Fn) (o : BitVec 20),
    let d := s.dev.dropLatch f
    let s1 : State := { s with dev := d }
    let read (d : Device) (v : Nat) : Host.Outcome State Fault Refusal :=
      .next { s with dev := { d with hosts := { d.hosts with readData := BitVec.ofNat 64 v } } }
    let mgmtBlock := [0x7, 0x8, 0x9].contains (o.toNat / 2 ^ 16)
    (∀ wide, s.dev.completes f = false → exec (.registerReadClear f o wide) s = .next s)
    ∧ (∀ wide, s.dev.completes f = true → (s.dev.answers f = false ∨ o.toNat % (if wide then 8 else 4) ≠ 0) →
      exec (.registerReadClear f o wide) s = read s.dev 0)
    ∧ (∀ wide v, (s.dev.answers f = false ∨ o.toNat % (if wide then 8 else 4) ≠ 0) → exec (.registerWrite f o wide v) s = .next s)
    ∧ (o.toNat % 4 = 0 → s.dev.completes f = true → s.dev.answers f = true →
      (regAt o.toNat = none → exec (.registerReadClear f o false) s = read d 0)
      ∧ ∀ r, regAt o.toNat = some r →
        (d.visible f r = false → r.wide = false → exec (.registerReadClear f o false) s = read d 0)
        ∧ (d.visible f r = false → r.wide = true → o.toNat % 8 = 0 → exec (.registerReadClear f o true) s = read d 0)
        ∧ (d.visible f r = true →
          let v := s1.regValue f r
          (r.wide = false → exec (.registerReadClear f o false) s = read (d.clearRc f r 31 0) (v % 2 ^ 32))
          ∧ (r.wide = true → o.toNat % 8 = 0 → exec (.registerReadClear f o true) s = read (d.clearRc f r 63 0) v
            ∧ (let d1 := d.clearRc f r 63 0
               let d2 : Device := { d1 with hosts := { d1.hosts with latches := Tab.insert (o.toNat, v / 2 ^ 32) d1.hosts.latches f.key } }
               exec (.registerReadClear f o false) s = read d2 (v % 2 ^ 32)))
          ∧ (r.wide = true → o.toNat % 8 = 4 →
            (∀ low high, Tab.find s.dev.hosts.latches f.key = some (low, high) → low + 4 = o.toNat →
              exec (.registerReadClear f o false) s = read d high)
            ∧ (Tab.find s.dev.hosts.latches f.key = none →
              exec (.registerReadClear f o false) s = read (d.clearRc f r 63 32) (v / 2 ^ 32)))))
    ∧ (o.toNat % 4 = 0 → s.dev.answers f = true → (mgmtBlock = false ∨ s.dev.mgmtWrites f = true) → ∀ v : BitVec 64,
      (regAt o.toNat = none → exec (.registerWrite f o false v) s = .next { s with dev := d })
      ∧ ∀ r, regAt o.toNat = some r →
        (d.visible f r = false → exec (.registerWrite f o false v) s = .next { s with dev := d })
        ∧ (d.visible f r = true →
          (∀ (l : Lot) (q : QueueIx),
            let w := BitVec.ofNat 32 v.toNat
            (r = .sqTail l q → exec (.registerWrite f o false v) s = exec (.sqTailWrite f l q w) s)
            ∧ (r = .rqHead l q → exec (.registerWrite f o false v) s = exec (.rqHeadWrite f l q w) s)
            ∧ (r = .sqCtl l q → v.toNat.testBit 31 = true → exec (.registerWrite f o false v) s = exec (.sqEnableSet f l q w) s)
            ∧ (r = .sqCtl l q → v.toNat.testBit 31 = false → exec (.registerWrite f o false v) s = exec (.sqEnableClear f l q w) s))
          ∧ ∀ l, r = .evqHoldoff l → exec (.registerWrite f o false v) s = .next { s with
              dev := d.setEvq l { s.dev.evq l with holdoff := min (v.toNat % 2 ^ 32 % 2 ^ 17) 100000 } }))

/-- The registers of a queue, by a function that may write them. CMDQ_SQ_CTL takes NOTIFY, and DEPTH_LOG2 while ENABLE is 0 and for no value from 1
to 3, and the indices keep the bits below n. SQ_ENABLE_SET on a queue that is not enabled and may be enabled empties both rings, with PHASE 1 and
no doorbell rung; on an enabled queue it writes the other fields alone; and where the queue may not be enabled it changes no queue.
SQ_ENABLE_CLEAR stops fetching and leaves HEAD and TAIL; CMDQ_SQ_TAIL takes its value modulo the ring's size and rings the doorbell; CMDQ_RQ_HEAD
takes its value modulo the ring's size. Another function changes no queue, and each row acts only on a value with its own ENABLE bit (R12, R30 to
R34, R462). -/
def Obligations.QueueRegistersAct : Prop :=
  (∀ (s : State) (f : Fn) (lot : Lot) (q : QueueIx) (x : BitVec 32),
    let d := s.dev.dropLatch f
    let v := s.dev.queue lot q
    let c := v.setCtl x.toNat
    (s.dev.writesQueue f lot = true →
      (x.toNat.testBit 31 = true → v.enable = true → exec (.sqEnableSet f lot q x) s = .next { s with dev := d.setQueue lot q c })
      ∧ (x.toNat.testBit 31 = true → v.enable = false → s.dev.queueAllowed lot q c = true →
        exec (.sqEnableSet f lot q x) s = .next { s with dev := d.setQueue lot q { c with
          enable := true, head := 0, tail := 0, rqHead := 0, rqTail := 0, rqPhase := true, replyHold := false, ringHost := none
          rung := false, paused := false } })
      ∧ (x.toNat.testBit 31 = true → v.enable = false → s.dev.queueAllowed lot q c = false →
        ∃ t, exec (.sqEnableSet f lot q x) s = .next t ∧ t.dev.queues = s.dev.queues ∧ t.dev.journal = s.dev.journal)
      ∧ (x.toNat.testBit 31 = false → exec (.sqEnableSet f lot q x) s = .next { s with dev := d })
      ∧ (x.toNat.testBit 31 = false →
        exec (.sqEnableClear f lot q x) s = .next { s with dev := d.setQueue lot q { c with enable := false } })
      ∧ (x.toNat.testBit 31 = true → exec (.sqEnableClear f lot q x) s = .next { s with dev := d })
      ∧ exec (.sqTailWrite f lot q x) s = .next { s with
          dev := d.setQueue lot q { v with tail := x.toNat % 2 ^ 16 % v.size, rung := true, paused := false } }
      ∧ exec (.rqHeadWrite f lot q x) s = .next { s with dev := d.setQueue lot q { v with rqHead := x.toNat % 2 ^ 16 % v.size } })
    ∧ (s.dev.writesQueue f lot = false → ∀ i : Instr,
        i ∈ [Instr.sqEnableSet f lot q x, .sqEnableClear f lot q x, .sqTailWrite f lot q x, .rqHeadWrite f lot q x] →
        exec i s = .next { s with dev := d }))
  ∧ ∀ (v : SubQueue) (x : Nat),
    let c := v.setCtl x
    let n := field x 19 16
    c.enable = v.enable ∧ c.notify = x.testBit 20 ∧ c.depth = (if v.enable ∨ (1 ≤ n ∧ n ≤ 3) then v.depth else n)
      ∧ c.tail = v.tail % c.size ∧ c.head = v.head % c.size ∧ c.rqHead = v.rqHead % c.size ∧ c.rqTail = v.rqTail % c.size

/-- The registers of an event queue, by a function that sees it. EVQ_ENABLE_SET on a DISABLED queue whose ring may be used empties it, with PHASE 1,
then moves what its spill holds into it and signals; on an ENABLED one it writes the other fields; EVQ_ENABLE_CLEAR disables the queue; EVQ_HEAD
takes its value modulo the ring's size, the records before it are consumed, and spilled ones move up. A function that does not see the queue
changes none (R381, R390, R395, R462). The bits of the sources, by the function that holds the management role. EVQ_MASK_SET masks the assigned
sources of the set bits and EVQ_MASK_CLR unmasks them; EVQ_PEND_SET raises one SOFT record from each assigned source whose bit was 0, where the
management queue does not mask that kind, and EVQ_PEND_CLR withdraws them. Sources of other words do not change, and another function changes
none (R386 to R388, R396). -/
def Obligations.EventRegistersAct : Prop :=
  (∀ (s : State) (f : Fn) (lot : Lot) (x : BitVec 32),
      let d := s.dev.dropLatch f
      let e := s.dev.evq lot
      let c := e.setCtl x.toNat
      let h := x.toNat % 2 ^ 16 % e.size
      let head := d.setEvq lot { e with head := h, ring := e.ring.drop (e.ring.length - (e.tail + e.size - h) % e.size) }
      let start := d.setEvq lot { c with enable := true, head := 0, tail := 0, phase := true, ring := [] }
      (s.dev.sees f lot = true →
        (x.toNat.testBit 31 = true → e.enable = true → exec (.evqEnableSet f lot x) s = .next { s with dev := d.setEvq lot c })
        ∧ (x.toNat.testBit 31 = true → e.enable = false → (c.loc = true → s.dev.ringOk lot (c.base * 4096) (32 * c.size) = true) →
          exec (.evqEnableSet f lot x) s = .next { s with dev := (start.drainSpill lot).resignal lot }
          ∧ (e.spill = [] → exec (.evqEnableSet f lot x) s = .next { s with dev := start }))
        ∧ (x.toNat.testBit 31 = false → exec (.evqEnableClear f lot x) s = .next { s with dev := d.setEvq lot { c with enable := false } })
        ∧ exec (.evqHeadWrite f lot x) s = .next { s with dev := (head.drainSpill lot).deliverAll }
        ∧ (e.spill = [] → s.dev.events.buffer = [] → exec (.evqHeadWrite f lot x) s = .next { s with dev := head }))
      ∧ (s.dev.sees f lot = false → exec (.evqEnableSet f lot x) s = .next { s with dev := d }
        ∧ exec (.evqEnableClear f lot x) s = .next { s with dev := d }
        ∧ exec (.evqHeadWrite f lot x) s = .next { s with dev := d.deliverAll }))
  ∧ ∀ (s : State) (f : Fn) (w : Fin 128) (v : BitVec 32),
      let others (t : State) : Prop := ∀ x, x / 32 ≠ w → t.dev.source x = s.dev.source x
      (s.dev.barOpen f = true → s.dev.isMgmt f = true →
        (∃ t, exec (.evqMaskSet f w v) s = .next t ∧ others t
          ∧ ∀ b, b < 32 → (t.dev.source (32 * w + b)).masked =
              ((s.dev.source (32 * w + b)).masked || (v.toNat.testBit b && sourceAssigned (32 * w + b))))
        ∧ (∃ t, exec (.evqMaskClr f w v) s = .next t ∧ others t
          ∧ ∀ b, b < 32 → (t.dev.source (32 * w + b)).masked = ((s.dev.source (32 * w + b)).masked && !v.toNat.testBit b))
        ∧ ((s.dev.evq 0).kindMask.testBit 0x0E = false → ∃ t, exec (.evqPendSet f w v) s = .next t ∧ others t
          ∧ ∀ b, b < 32 → v.toNat.testBit b = true → sourceAssigned (32 * w + b) = true →
            (s.dev.pendingBit (32 * w + b) = false →
              ∃ r, (t.dev.source (32 * w + b)).raised = (s.dev.source (32 * w + b)).raised ++ [r] ∧ r.kind = 0x0E ∧ r.queue = some 0)
            ∧ (s.dev.pendingBit (32 * w + b) = true → t.dev.source (32 * w + b) = s.dev.source (32 * w + b)))
        ∧ (∃ t, exec (.evqPendClr f w v) s = .next t ∧ others t
          ∧ ∀ b, b < 32 → v.toNat.testBit b = true →
            (t.dev.source (32 * w + b)).raised = ((s.dev.source (32 * w + b)).raised.filter fun r => r.kind ≠ 0x0E)
            ∧ ∀ r ∈ t.dev.events.buffer, r.source = 32 * w + b → r.kind ≠ 0x0E))
      ∧ (s.dev.isMgmt f = false ∨ s.dev.barOpen f = false → ∀ i : Instr,
          i ∈ [Instr.evqMaskSet f w v, .evqMaskClr f w v, .evqPendSet f w v, .evqPendClr f w v] →
          exec i s = .next { s with dev := s.dev.dropLatch f })

/-- HANDLER_COMPLETION_WRITE: the running handler ends, and the interrupted one goes on, or the highest waiting source is taken that exceeds the
threshold and it; a source that fired again during its service is taken again at once where none of a higher priority waits, and waits first
else; without a handler nothing happens (R391, R392). MSIX_VECTOR_UNMASK, with clocks, unmasks a vector and sends its pending message, and
changes no other vector (R389). HOLDOFF_TIMER_EXPIRY, with clocks: an expired timer with an armed message and an unconsumed record starts again
from its expiry, and any other expired timer ends; a timer that has not expired goes on (R390). EVENT_RECORD_ACCEPT, with clocks: where one
source that is not masked holds records and the collector is empty, its oldest record goes to its queue: into the ring, at TAIL, where the ring
can be written and has room and nothing is spilled, and into the spill where it is full and the spill has room; the log keeps it unless its kind
is 1, 2, 0x0E or 0x0F. Of a masked source it stays in the collector. Without clocks nothing happens (R381, R383, R387, R394, R439). -/
def Obligations.EventsDeliver : Prop :=
  (∀ (s : State) (c : Fin 260) (x p : Nat) (rest : List (Nat × Nat)),
      let v := s.dev.consumer c
      let prio := s.dev.prio
      let i : Instr := .handlerCompletionWrite c
      (v.running = [] → exec i s = .next s)
      ∧ (v.running = (x, p) :: rest →
        (v.again.contains x = false →
          exec i s = .next { s with dev := s.dev.setConsumer c (({ v with running := rest } : Consumer).take prio) })
        ∧ (v.again.contains x = true → (∀ y ∈ v.waiting, prio y ≤ prio x) → exec i s = .next { s with
          dev := s.dev.setConsumer c { v with running := (x, prio x) :: rest, again := v.again.filter (· ≠ x) } })
        ∧ (v.again.contains x = true → (∃ y ∈ v.waiting, prio x < prio y) → exec i s = .next { s with
          dev := s.dev.setConsumer c
            (({ v with running := rest, again := v.again.filter (· ≠ x), waiting := x :: v.waiting } : Consumer).take prio) })))
  ∧ (∀ (v : Consumer) (prio : Nat → Nat) (y : Nat), y ∈ v.waiting → (∀ z ∈ v.waiting, z ≠ y → prio z < prio y) →
      let above := v.threshold < prio y ∧ ∀ r ∈ v.running.head?, r.2 < prio y
      (above → v.take prio = { v with running := (y, prio y) :: v.running, waiting := v.waiting.filter (· ≠ y) })
      ∧ (¬ above → v.take prio = v))
  ∧ (∀ (s : State) (f : Fn) (i : Nat),
      let v := Tab.look {} s.dev.events.vectors (vectorKey f i)
      (s.dev.clocked = false ∨ 4096 ≤ i → exec (.msixVectorUnmask f i) s = .next s)
      ∧ (s.dev.clocked = true → i < 4096 → ∃ t, exec (.msixVectorUnmask f i) s = .next t
        ∧ Tab.look {} t.dev.events.vectors (vectorKey f i) =
          { v with masked := false, pend := false, sent := v.sent + (if v.pend then 1 else 0) }
        ∧ ∀ k, k ≠ vectorKey f i → Tab.look {} t.dev.events.vectors k = Tab.look {} s.dev.events.vectors k))
  ∧ (∀ (s : State) (lot : Lot) (n : Nat),
      let e := s.dev.evq lot
      (s.dev.clocked = false ∨ e.timerAt = none → exec (.holdoffTimerExpiry lot) s = .next s)
      ∧ (e.timerAt = some n → s.dev.time < n → exec (.holdoffTimerExpiry lot) s = .next s)
      ∧ (s.dev.clocked = true → e.timerAt = some n → n ≤ s.dev.time → ∃ t, exec (.holdoffTimerExpiry lot) s = .next t
        ∧ (t.dev.evq lot).timerAt = (if e.armed ∧ e.tail ≠ e.head then some (n + e.hold) else none)
        ∧ (e.armed = true → e.tail ≠ e.head → (t.dev.evq lot).armed = false)
        ∧ (t.dev.evq lot).ring = e.ring ∧ (t.dev.evq lot).spill = e.spill))
  ∧ ∀ (s : State) (x q : Nat) (r : EventRec) (rest : List EventRec),
      let e := s.dev.evq q
      let logged := s.dev.observe.nextLog + (if r.kind ∈ [0x01, 0x02, 0x0E, 0x0F] then 0 else 1)
      (s.dev.clocked = false → exec .eventRecordAccept s = .next s)
      ∧ (s.dev.clocked = true → s.dev.events.buffer = [] → s.dev.raisedSources = [x] → (s.dev.source x).raised = r :: rest → r.source = x →
        ((s.dev.source x).masked = true → x ≠ srcFatal → ∃ t, exec .eventRecordAccept s = .next t ∧ t.dev.events.buffer = [r]
          ∧ (t.dev.source x).raised = rest ∧ t.dev.observe.nextLog = logged ∧ t.dev.events.queues = s.dev.events.queues)
        ∧ ((s.dev.source x).masked = false → r.queue = some q → s.dev.ringOpen q = true →
          (e.spill = [] → e.ringFull = false → ∃ t, exec .eventRecordAccept s = .next t ∧ (t.dev.evq q).ring = e.ring ++ [r]
            ∧ (t.dev.evq q).tail = (e.tail + 1) % e.size ∧ (t.dev.evq q).phase = (if (e.tail + 1) % e.size = 0 then !e.phase else e.phase)
            ∧ (t.dev.source x).raised = rest ∧ t.dev.events.buffer = [] ∧ t.dev.observe.nextLog = logged)
          ∧ (e.ringFull = true → s.dev.spillRoom q = true → ∃ t, exec .eventRecordAccept s = .next t ∧ (t.dev.evq q).spill = e.spill ++ [r]
            ∧ (t.dev.evq q).ring = e.ring ∧ (t.dev.evq q).full = satAdd 0xFFFF e.full 1 ∧ (t.dev.source x).raised = rest
            ∧ t.dev.events.buffer = [] ∧ t.dev.observe.nextLog = logged)))

/-- The requests to a port, the reset register and the handshake. LINK_EN_REQ, by a function that may write LINK, starts the training of a DISABLED
port, and is held in the pending slot of a DISABLING one; LINK_DIS_REQ makes an ENABLED one DISABLING for at most 1 ms; RETRAIN returns an
ENABLED one to step 1. Another function that reaches its BAR0 changes no port and is recorded as a PROBE (R13, R241, R287, R289, R298). PWR_RESET
by a function that sees it, with its key 0xB007: COLD resets the device, WARM begins a warm reset of a Ready device that loses no power; without
the key, and for another function, nothing is reset (R419, R421). SEC_HELLO with START holds the HOST_VER of a function that answers, and that of
a physical one in the state LINK begins the handshake; ATTACH_READY ends it on a Ready device: the attachment is ATTACHED where HOST_VER is the
device's version, and REFUSED where it is not; where no handshake has begun nothing happens (R354, R378). -/
def Obligations.PortAndResetRequests : Prop :=
  (∀ (s : State) (f : Fn) (p : PortId),
      let v := s.dev.port p
      (s.dev.mgmtWrites f = true →
        (v.state = .disabled → ∃ t, exec (.linkEnReq f p) s = .next t ∧ (t.dev.port p).state = .enabling ∧ (t.dev.port p).step = 1
          ∧ ∀ k, k ≠ p.val → t.dev.port k = s.dev.port k)
        ∧ (v.state = .disabling → v.pendingBy = none → ∃ t, exec (.linkEnReq f p) s = .next t
          ∧ t.dev.port p = { v with pendingBy := some none } ∧ ∀ k, k ≠ p.val → t.dev.port k = s.dev.port k)
        ∧ (v.state = .enabled → exec (.linkDisReq f p) s = .next { s with
            dev := (s.dev.dropLatch f).setPort p { v with state := .disabling, disableAt := s.dev.time + 100000 } })
        ∧ (v.state = .enabled → ∃ t, exec (.retrain f p) s = .next t ∧ (t.dev.port p).state = .enabled ∧ (t.dev.port p).step = 1
          ∧ (t.dev.port p).lstate ≠ 4)
        ∧ (v.state ≠ .enabled → exec (.retrain f p) s = .next { s with dev := s.dev.dropLatch f }))
      ∧ (s.dev.mgmtWrites f = false → s.dev.barOpen f = true → ∀ i : Instr, i ∈ [Instr.linkEnReq f p, .linkDisReq f p, .retrain f p] →
          ∃ t r, exec i s = .next t ∧ t.dev.links = s.dev.links
            ∧ (t.dev.source (srcAttach f.attach)).raised = (s.dev.source (srcAttach f.attach)).raised ++ [r] ∧ r.kind = 0x20
            ∧ r.queue = none))
  ∧ (∀ (s : State) (f : Fn) (v : BitVec 32),
      let d := s.dev.dropLatch f
      let warm := v.toNat.testBit 1 = false ∧ v.toNat.testBit 0 = true ∧ s.dev.power.stage = 7 ∧ s.dev.power.failing = none
      (s.dev.resets f = true → field v.toNat 31 16 = 0xB007 →
        (v.toNat.testBit 1 = true → exec (.pwrResetCold f v) s = .next ({ s with dev := d }.coldReset false 0))
        ∧ (warm → ∃ t, exec (.pwrResetWarm f v) s = .next t ∧ t.dev.power.stage = 9 ∧ t.dev.power.warmDue = true ∧ t.dev.running = false
            ∧ t.dev.mem = s.dev.mem ∧ t.dev.journal = s.dev.journal)
        ∧ (¬ warm → v.toNat.testBit 1 = false → exec (.pwrResetWarm f v) s = .next { s with dev := d }))
      ∧ (s.dev.resets f = false ∨ field v.toNat 31 16 ≠ 0xB007 →
        exec (.pwrResetCold f v) s = .next { s with dev := d } ∧ exec (.pwrResetWarm f v) s = .next { s with dev := d }))
  ∧ (∀ (s : State) (f : Fn) (ver : BitVec 8),
      let d := s.dev.dropLatch f
      let a := s.dev.attachment f.attach
      (s.dev.answers f = false → exec (.secHelloStart f ver) s = .next { s with dev := d })
      ∧ (s.dev.answers f = true →
        (f.vf = none → exec (.secHelloStart f ver) s = .next { s with dev := d.setAttachment f.attach { a with
          hostVer := ver.toNat, started := if a.link = 1 then some s.dev.time else a.started } })
        ∧ (∀ l, f.vf = some l → ∃ t, exec (.secHelloStart f ver) s = .next t ∧ (Tab.look (0, 0) t.dev.hosts.vfSec f.key).1 = ver.toNat
          ∧ t.dev.hosts.attaches = s.dev.hosts.attaches)))
  ∧ ∀ (s : State) (a : AttachId),
      let v := s.dev.attachment a
      let begun := v.link = 1 ∧ v.started.isSome = true ∧ s.dev.clocked = true ∧ s.dev.power.stage = 7
      (¬ begun → exec (.attachReady a) s = .next s)
      ∧ (begun → ∃ t, exec (.attachReady a) s = .next t ∧ (t.dev.attachment a).ready = true
        ∧ (v.hostVer = 1 → (t.dev.attachment a).link = 2 ∧ s.dev.attached a = false ∧ t.dev.attached a = true)
        ∧ (v.hostVer ≠ 1 → (t.dev.attachment a).link = 3 ∧ (t.dev.attachment a).refused = true))

/-- A read anywhere in the reserved range of BAR0 gives 0, and a write there is ignored, by every function; and so do a read and a write by a virtual
function at an offset that belongs to another lot, 32 or 64 bits wide (R11, R12). The high half that an earlier read of the function has latched
is no part of the reserved range. Neither access changes a register of any block. -/
def Obligations.OffsetsOutOfReachReadZero : Prop :=
  ∀ (s : State) (f : Fn) (o : BitVec 20) (wide : Bool) (v : BitVec 64),
    let away (n : Nat) : Prop := 0xD0000 ≤ n ∨ ∃ r l L, regAt n = some r ∧ r.lotOf = some L ∧ f.vf = some l ∧ l.val ≠ L
    s.dev.completes f = true → away o.toNat → (wide = true → away (o.toNat + 4)) →
    (∀ x, Tab.find s.dev.hosts.latches f.key = some x → x.1 + 4 ≠ o.toNat) →
    ∀ i : Instr, i = .registerReadClear f o wide ∨ i = .registerWrite f o wide v →
      ∃ t, exec i s = .next t ∧ (i = .registerReadClear f o wide → t.dev.hosts.readData = 0)
        ∧ t.dev.queues = s.dev.queues ∧ t.dev.events.queues = s.dev.events.queues ∧ t.dev.mem = s.dev.mem
        ∧ t.dev.hosts.lots = s.dev.hosts.lots ∧ t.dev.hosts.image = s.dev.hosts.image ∧ t.dev.hosts.attaches = s.dev.hosts.attaches
        ∧ t.dev.solver = s.dev.solver ∧ t.dev.power = s.dev.power ∧ t.dev.links = s.dev.links ∧ t.dev.observe = s.dev.observe
        ∧ t.dev.dma = s.dev.dma ∧ t.dev.journal = s.dev.journal ∧ t.eng = s.eng ∧ t.pending = s.pending

/-- POWER_ON. It leaves every unit of the block as reset leaves it, the flash and the pins apart, with TIME 0 and the selvage log empty. COLD_START,
once PWRGD is high, PERST_N of attachment 0 released and no warning has stopped the start, does nothing before. A warning during it stops it and
changes nothing else. It ends in BOOT_FAIL, with a BOOT entry in the selvage log, where the PLL does not lock, the board record is absent or bad,
no image verifies, more than 4 stacks fail or the hub fails; without lock TIME holds. Else it ends at Ready with TIME 0, the image that verifies,
the SYSTEM extents on the first two good stacks, and the units that failed DISABLED and FAULTY (R25, R410, R411, R413, R418, R465). That TIME is
0 at Ready is the model's choice (assumption 82). -/
def Obligations.ColdStartReachesReady : Prop :=
  (∀ s : State, ∃ t, exec .powerOn s = .next t ∧ t.pending = s.pending ∧ t.eng = {} ∧ t.dev.mem = {} ∧ t.dev.journal = []
    ∧ t.dev.tensors = [] ∧ t.dev.jobs = [] ∧ t.dev.shards = [] ∧ t.dev.time = 0 ∧ t.dev.observe.log = []
    ∧ t.dev.power.slots = s.dev.power.slots ∧ t.dev.running = false ∧ t.dev.power.coldDue = true)
  ∧ ∀ (s : State) (i : ColdStartInput),
      let fails (k : Nat) : Prop := ∃ t, exec (.coldStart i) s = .next t ∧ t.dev.power.stage = 0xF ∧ t.dev.running = false
        ∧ t.dev.observe.nextLog = s.dev.observe.nextLog + 1
        ∧ (∃ r, t.dev.observe.log.getLast? = some (s.dev.observe.nextLog, false, r) ∧ r.kind = 0x24 ∧ rd r.payload 0 1 = k)
        ∧ t.dev.time = if k = 1 then s.dev.time else 0
      let bad := i.badStacks.eraseDups
      let good := ((List.finRange Config.memStacks).filter fun m => !bad.contains m).map fun m => m.val
      (s.dev.mayStartCold = false → exec (.coldStart i) s = .next s)
      ∧ (s.dev.mayStartCold = true → i.warnDuring = true →
        exec (.coldStart i) s = .next { s with dev := { s.dev with power := { s.dev.power with warnLow := true } } })
      ∧ (s.dev.mayStartCold = true → i.warnDuring = false →
        (i.pllLocks = false → fails 1)
        ∧ (i.pllLocks = true → i.board.bind parseBoard = none → fails 2)
        ∧ ∀ r, i.pllLocks = true → i.board.bind parseBoard = some r →
          (chooseImage r.image i.imageA i.imageB = none → fails 3)
          ∧ ∀ image fallback, chooseImage r.image i.imageA i.imageB = some (image, fallback) →
            (4 < bad.length → fails 4)
            ∧ (bad.length ≤ 4 → i.hubOk = false → fails 6)
            ∧ (bad.length ≤ 4 → i.hubOk = true →
              ∃ t, exec (.coldStart i) s = .next t ∧ t.dev.power.stage = 7 ∧ t.dev.power.locked = true ∧ t.dev.power.image = image
                ∧ t.dev.power.fallback = fallback ∧ t.dev.power.coldDue = false ∧ t.dev.time = 0
                ∧ t.dev.hosts.image.lots = r.lot0 :: List.replicate 63 {} ∧ t.dev.hosts.splits = r.splits
                ∧ t.dev.mem.owners = systemOwners (good.take 2)
                ∧ (∀ m ∈ i.badStacks, (t.dev.stackDom m).state = .disabled ∧ (t.dev.stackDom m).faulty = true)
                ∧ (∀ c ∈ i.badClusters, (t.dev.cluster c).state = .disabled ∧ (t.dev.cluster c).faulty = true)
                ∧ ∀ n ∈ i.badCores, (t.dev.coreDom n).state = .disabled ∧ (t.dev.coreDom n).faulty = true))

/-- FATAL_CONDITION. On a Ready device with clocks a warm reset is due, nothing is fetched until it is over, and the command during which it arose,
if any, has failed with E_FATAL_DEVICE and its final reply waits; during the power-fail sequence it is only logged, and else nothing happens.
WARM_RESET acts where one is due, with clocks and outside the power-fail sequence. With its write-back and an image good it ends at Ready: the
device runs again, no engine holds anything, every entry of the journal is to be replayed or redelivered, no solve and no slot of a DMA channel
is held, units that fail are DISABLED, and RESET_DONE's time is kept; an entry whose record is lost fails with E_JOURNAL_LOST, or its waiting
reply says so. Without an image it is BOOT_FAIL; with a failed write-back, or a fatal condition in the replay, the device cold-resets and loses
memory and journal; a power-fail warning begins that sequence (R59, R64, R415, R416, R418). -/
def Obligations.WarmResetReturns : Prop :=
  (∀ (s : State) (x : Option StreamId),
      let e := x.bind fun n => s.dev.runningOf n.val
      (s.dev.clocked = false ∨ s.dev.power.stage ≠ 7 → exec (.fatalCondition x) s = .next s)
      ∧ (s.dev.clocked = true → s.dev.power.stage = 7 → s.dev.power.failing.isSome = true → ∃ t, exec (.fatalCondition x) s = .next t
        ∧ t.dev.power = s.dev.power ∧ t.dev.observe.nextLog = s.dev.observe.nextLog + 1 ∧ t.dev.journal = s.dev.journal
        ∧ t.dev.mem = s.dev.mem ∧ t.eng = s.eng)
      ∧ (s.dev.clocked = true → s.dev.power.stage = 7 → s.dev.power.failing = none → ∃ t, exec (.fatalCondition x) s = .next t
        ∧ t.dev.power.stage = 9 ∧ t.dev.power.warmDue = true ∧ t.dev.power.fatal = true ∧ t.dev.power.lastReset = 2
        ∧ t.dev.power.resetAt = s.dev.time ∧ t.dev.running = false
        ∧ (e = none → t.dev.mem = s.dev.mem ∧ t.dev.tensors = s.dev.tensors ∧ t.dev.shards = s.dev.shards ∧ t.dev.journal = s.dev.journal)
        ∧ (∀ v, e = some v → s.dev.entry v.id = some v →
          (∃ w, t.dev.entry v.id = some w ∧ w.phase = .committed ∧ w.status = .eFatalDevice)
          ∧ ∃ r ∈ (t.dev.queue v.lot v.queue).replies, r.entry = some v.id ∧ r.status = .eFatalDevice ∧ r.result1 = 0)))
  ∧ ∀ (s : State) (i : WarmResetInput),
      let p := s.dev.power
      let w := s.dev.warmState
      let chosen := chooseImage (if w.power.fallback then 1 - w.power.image else w.power.image) i.imageA i.imageB
      (p.warmDue = false ∨ s.dev.clocked = false ∨ p.failing.isSome = true → exec (.warmReset i) s = .next s)
      ∧ (p.warmDue = true → s.dev.clocked = true → p.failing = none →
        (i.warnDuring = true → exec (.warmReset i) s = .next s.powerFail)
        ∧ (i.warnDuring = false → (i.writeBackOk = false ∨ i.fatalReplay = true) →
          ∃ t, exec (.warmReset i) s = .next t ∧ t.eng = {} ∧ t.dev.mem = {} ∧ t.dev.journal = [] ∧ t.dev.power.coldDue = true
            ∧ t.dev.power.lastReset = 1 ∧ t.dev.power.coldCause = 1 ∧ t.dev.time = s.dev.time)
        ∧ (i.warnDuring = false → i.writeBackOk = true → i.fatalReplay = false →
          (chosen = none → ∃ t, exec (.warmReset i) s = .next t ∧ t.dev.power.stage = 0xF ∧ t.dev.power.warmDue = false ∧ t.dev.running = false)
          ∧ ∀ c, chosen = some c → ∃ t, exec (.warmReset i) s = .next t ∧ t.dev.power.stage = 7 ∧ t.dev.power.warmDue = false
            ∧ t.dev.power.fatal = false ∧ t.dev.power.image = c.1 ∧ t.eng = {} ∧ (p.coldDue = false → t.dev.running = true)
            ∧ t.dev.solver.solves = [] ∧ (∀ e ∈ t.dev.journal, e.replayed = true) ∧ (∀ x ∈ t.dev.dma, x.2.slot = none)
            ∧ t.dev.power.resetAt = p.resetAt
            ∧ (∀ n ∈ i.badClusters, (t.dev.cluster n).state = .disabled ∧ (t.dev.cluster n).faulty = true)
            ∧ (∀ n ∈ i.badCores, (t.dev.coreDom n).state = .disabled ∧ (t.dev.coreDom n).faulty = true)
            ∧ ∀ e, w.journal.filter w.journalLost = [e] →
              (e.phase ≠ .committed → ∃ v, t.dev.entry e.id = some v ∧ v.phase = .staged ∧ v.status = .eJournalLost)
              ∧ (e.phase = .committed → ∀ r ∈ (t.dev.queue e.lot e.queue).replies, r.entry = some e.id →
                r.status = .eJournalLost ∧ r.result0 = 0 ∧ r.result1 = 0)))

/-- The power-fail sequence. PWR_WARN_N_ASSERT and RAIL_UNDERVOLTAGE on a Ready device with clocks, or on one in warm reset, begin it: the engines
and every cluster, core and stack that is not DISABLED are off or hold their content, its record is in the selvage log, and the device stops;
before a start is over they stop the start, and else nothing happens. POWER_FAIL_FLUSH_DONE ends it where its flush has not ended and the PLL
holds lock: with the warning gone and the rails in range a warm reset is due, and else the device stays stopped. A flush fills an erased slot
with entries of the log and a SERIAL one above the other slot's; one that is cut leaves a slot that fails its CRC (R416 to R418, R451). What
stops the clocks. PWRGD_FALL holds the device in reset; RAIL_OVERVOLTAGE on a Ready device is fatal; THERMAL_TRIP and PLL_LOCK_LOSS stop every
clock but SLOW and leave an entry in the selvage log; a lock that returns after a loss is a cold reset, and one that does not changes nothing
(R22, R450 to R452, R454). -/
def Obligations.PowerLossActs : Prop :=
  (∀ (s : State) (k : RailId) (i : Instr), i = .pwrWarnNAssert ∨ i = .railUndervoltage k →
      let p := s.dev.power
      (p.pwrgd = false ∨ p.failing.isSome = true → exec i s = .next s)
      ∧ (p.pwrgd = true → p.failing = none →
        (p.coldDue = true → exec i s = .next { s with dev := { s.dev with power := { p with warnLow := true } } })
        ∧ (p.coldDue = false → (p.locked = false ∨ (p.stage ≠ 7 ∧ p.stage ≠ 9)) → exec i s = .next s)
        ∧ (p.coldDue = false → p.locked = true → (p.stage = 7 ∨ p.stage = 9) →
          ∃ t f r, exec i s = .next t ∧ t.dev.power.failing = some f ∧ f.at_ = s.dev.time ∧ f.record = some r
            ∧ (∃ x ∈ t.dev.observe.log, x.1 = r ∧ x.2.2.kind = 0x0C) ∧ t.eng = {} ∧ t.dev.running = false ∧ t.dev.links.messages = []
            ∧ t.dev.journal = s.dev.journal ∧ t.dev.mem = s.dev.mem ∧ t.dev.power.warmDue = false
            ∧ (∀ c, c < Config.clusters → (s.dev.cluster c).state ≠ .disabled → (t.dev.cluster c).cstate = 3)
            ∧ (∀ n, n < Config.cores → (s.dev.coreDom n).state ≠ .disabled → (t.dev.coreDom n).cstate = 3)
            ∧ ∀ m, m < Config.memStacks → (s.dev.stackDom m).state = .enabled → (t.dev.stackDom m).cstate = 1)))
  ∧ (∀ (s : State) (warn rails : Bool),
      let flushed (t : State) (f : PowerFail) (good : Bool) : Prop := ∀ k, s.dev.power.slots.idxOf? none = some k →
        ∃ v, t.dev.power.slots.getD k none = some v ∧ v.good = good ∧ v.time = f.at_ ∧ v.entries.length ≤ Config.flushEntries
          ∧ ∀ o, s.dev.power.slots.getD (1 - k) none = some o → v.serial = (o.serial + 1) % 2 ^ 64
      (s.dev.power.failing = none ∨ s.dev.power.locked = false → exec (.powerFailFlushDone warn rails) s = .next s)
      ∧ (∀ f, s.dev.power.failing = some f → f.record = none → exec (.powerFailFlushDone warn rails) s = .next s)
      ∧ (∀ f r, s.dev.power.failing = some f → f.record = some r →
        (s.dev.power.locked = true → ∃ t, exec (.powerFailFlushDone warn rails) s = .next t ∧ flushed t f true
          ∧ (warn = true → rails = true → s.dev.power.tripped = false → t.dev.power.failing = none ∧ t.dev.power.stage = 9
            ∧ t.dev.power.warmDue = true ∧ t.dev.power.lastReset = 3)
          ∧ (warn = false ∨ rails = false ∨ s.dev.power.tripped = true → ∃ g, t.dev.power.failing = some g ∧ g.record = none))
        ∧ (∃ t, exec .pwrgdFall s = .next t ∧ flushed t f false)
        ∧ (s.dev.clocked = true → ∃ t, exec .pllLockLoss s = .next t ∧ flushed t f false)))
  ∧ ∀ s : State,
      (∃ t, exec .pwrgdFall s = .next t ∧ t.dev.power.pwrgd = false ∧ t.dev.clocked = false ∧ t.dev.running = false)
      ∧ (∀ k, exec (.railOvervoltage k) s = exec (.fatalCondition none) s
        ∧ (s.dev.clocked = true → s.dev.power.stage = 7 → s.dev.power.failing = none →
          ∃ t, exec (.railOvervoltage k) s = .next t ∧ t.dev.power.fatal = true ∧ t.dev.power.warmDue = true ∧ t.dev.running = false))
      ∧ (s.dev.power.tripped = true → exec .thermalTrip s = .next s)
      ∧ (s.dev.power.tripped = false → ∃ t, exec .thermalTrip s = .next t ∧ t.dev.power.tripped = true ∧ t.dev.clocked = false
        ∧ t.dev.mem = s.dev.mem ∧ t.dev.observe.nextLog = s.dev.observe.nextLog + 1)
      ∧ (s.dev.clocked = false → exec .pllLockLoss s = .next s)
      ∧ (s.dev.clocked = true → ∃ t, exec .pllLockLoss s = .next t ∧ t.dev.power.locked = false ∧ t.dev.power.lockLost = true
        ∧ t.dev.clocked = false ∧ t.dev.observe.nextLog = s.dev.observe.nextLog + 1)
      ∧ (s.dev.power.lockLost = true → s.dev.power.pwrgd = true → s.dev.power.tripped = false →
        exec (.pllLockRetry true) s = .next (s.coldReset false 2))
      ∧ (s.dev.power.lockLost = false ∨ s.dev.power.pwrgd = false ∨ s.dev.power.tripped = true → exec (.pllLockRetry true) s = .next s)
      ∧ exec (.pllLockRetry false) s = .next s

/-- Changes of the performance state, while the root PLL supplies clocks. POWER_TELEMETRY keeps the average of 10 ms; with the automatic policy, 10
ms after its last move, it asks for the next slower state above the cap and for the next faster one below 85 % of the cap over 100 ms.
THERMAL_THROTTLE at 95 °C or more asks for the next slower one, 10 ms after its last. A slower change's divider is ready at once, and a faster
one first asks each VCORE rail for its voltage; where a change is in progress the request is held. DIVIDER_CHANGE makes a ready change's divider
the one in force: a slower one then asks the rails for its voltage, and a faster one is over. AVSBUS_ACK sets the rail: a faster change is ready
when every rail has acknowledged, and a slower one is over with its last request. AVSBUS_TIMEOUT, 200 us after a request, sends it again up to
three times in all, and then reports the failure; a faster change then ends, and its rails are asked back to the voltage in force. Else nothing
happens (R397 to R399, R409, R452). -/
def Obligations.PerformanceChanges : Prop :=
  ∀ s : State,
    let p := s.dev.power
    (s.dev.clocked = false → ∀ (a b n : Nat) (k : RailId), ∀ i ∈ [Instr.powerTelemetry a b, .thermalThrottle n, .dividerChange, .avsbusAck k,
      .avsbusTimeout k], exec i s = .next s)
    ∧ (s.dev.clocked = true →
      (∀ w10 w100,
        let keeps := exec (.powerTelemetry w10 w100) s = .next { s with dev := { s.dev with power := { p with watts := w10 % 2 ^ 16 } } }
        let moves := p.policy.pstate = 0xFF ∧ s.dev.gapOver p.lastMove = true
        (¬ moves → keeps)
        ∧ (moves → p.policy.cap < w10 → 2 ≤ p.pstate → keeps)
        ∧ (moves → w10 ≤ p.policy.cap → (85 * p.policy.cap ≤ 100 * w100 ∨ p.pstate = 0) → keeps)
        ∧ (moves → p.policy.cap < w10 → p.pstate < 2 → ∃ t, exec (.powerTelemetry w10 w100) s = .next t
          ∧ t.dev.power.watts = w10 % 2 ^ 16 ∧ t.dev.power.lastMove = some s.dev.time ∧ t.dev.power.pstate = p.pstate
          ∧ (p.change = none → t.dev.power.change = some { target := p.pstate + 1, faster := false, ready := true })
          ∧ (p.change.isSome = true → t.dev.power.change = p.change ∧ t.dev.power.waiting = some (p.pstate + 1)))
        ∧ (moves → w10 ≤ p.policy.cap → 100 * w100 < 85 * p.policy.cap → 0 < p.pstate → ∃ t, exec (.powerTelemetry w10 w100) s = .next t
          ∧ t.dev.power.watts = w10 % 2 ^ 16 ∧ t.dev.power.lastMove = some s.dev.time ∧ t.dev.power.pstate = p.pstate
          ∧ (p.change = none → t.dev.power.change = some { target := p.pstate - 1, faster := true }
            ∧ ∀ k ∈ vcoreRails, ({ rail := k, mv := vcoreMv (p.pstate - 1), sentAt := s.dev.time } : RailRequest) ∈ t.dev.power.requests)
          ∧ (p.change.isSome = true → t.dev.power.change = p.change ∧ t.dev.power.waiting = some (p.pstate - 1))))
      ∧ (∀ n,
        (n < 95 ∨ s.dev.gapOver p.lastThermal = false ∨ 2 ≤ p.pstate → exec (.thermalThrottle n) s = .next s)
        ∧ (95 ≤ n → s.dev.gapOver p.lastThermal = true → p.pstate < 2 → ∃ t, exec (.thermalThrottle n) s = .next t
          ∧ t.dev.power.lastThermal = some s.dev.time
          ∧ (p.change = none → t.dev.power.change = some { target := p.pstate + 1, faster := false, ready := true })
          ∧ (p.change.isSome = true → t.dev.power.change = p.change ∧ t.dev.power.waiting = some (p.pstate + 1))))
      ∧ ((∀ c, p.change = some c → c.ready = false) → exec .dividerChange s = .next s)
      ∧ (∀ c : PChange, p.change = some c → c.ready = true → ∃ t, exec .dividerChange s = .next t ∧ t.dev.power.pstate = c.target
        ∧ (c.faster = false → t.dev.power.change = some { c with ready := false }
          ∧ ∀ k ∈ vcoreRails, ({ rail := k, mv := vcoreMv c.target, sentAt := s.dev.time } : RailRequest) ∈ t.dev.power.requests)
        ∧ (c.faster = true → p.waiting = none → t.dev.power.change = none ∧ t.dev.power.requests = p.requests))
      ∧ (∀ k : RailId,
        (p.requests.find? fun x => x.rail = k.val) = none → exec (.avsbusAck k) s = .next s ∧ exec (.avsbusTimeout k) s = .next s)
      ∧ ∀ (k : RailId) (r : RailRequest), (p.requests.find? fun x => x.rail = k.val) = some r →
        let others := p.requests.filter fun x => x.rail ≠ k.val
        (∃ t, exec (.avsbusAck k) s = .next t ∧ Tab.look 0 t.dev.power.rails k = r.mv
          ∧ (∀ j, j ≠ k.val → Tab.look 0 t.dev.power.rails j = Tab.look 0 p.rails j)
          ∧ (r.back = true → t.dev.power.requests = others ∧ t.dev.power.change = p.change)
          ∧ ∀ c, r.back = false → p.change = some c →
            let acked := c.acked ++ [k.val]
            (c.faster = true → t.dev.power.requests = others
              ∧ t.dev.power.change = some { c with acked := acked, ready := c.ready || vcoreRails.all acked.contains })
            ∧ (c.faster = false → c.ready = false → (others.any fun x => !x.back) = false → p.waiting = none →
              t.dev.power.requests = others ∧ t.dev.power.change = none)
            ∧ (c.faster = false → c.ready = false → (others.any fun x => !x.back) = true →
              t.dev.power.requests = others ∧ t.dev.power.change = some { c with acked := acked }))
        ∧ (s.dev.time < r.sentAt + 20000 → exec (.avsbusTimeout k) s = .next s)
        ∧ (r.sentAt + 20000 ≤ s.dev.time → r.tries < 3 → ∃ t q, exec (.avsbusTimeout k) s = .next t
          ∧ (t.dev.power.requests.find? fun x => x.rail = k.val) = some q ∧ q = { r with tries := r.tries + 1, sentAt := s.dev.time }
          ∧ t.dev.power.change = p.change)
        ∧ (r.sentAt + 20000 ≤ s.dev.time → 3 ≤ r.tries → ∃ t, exec (.avsbusTimeout k) s = .next t
          ∧ t.dev.power.avsFail = true ∧ t.dev.power.avsRail = k ∧ t.dev.power.avsTarget = r.mv
          ∧ (r.back = false → p.waiting = none → ∀ c, p.change = some c → c.faster = true → t.dev.power.change = none
            ∧ ∀ j ∈ c.acked, ({ rail := j, mv := vcoreMv p.pstate, sentAt := s.dev.time, back := true } : RailRequest) ∈ t.dev.power.requests)))

/-- The links of an attachment and their loss. PERST_N_RELEASE releases PERST_N, and it and HOST_LINK_RETRY with a link that forms, on a sub-port
that trains and has none, give it one; else the retry does nothing. HOST_DETACH of an attachment with a link, with clocks, leaves it DETACHED
from this TIME on, and D3HOT_ENTRY of its physical function does the same; the management role stays; the queues of the lots that it hosts which
lie in host memory lose ENABLE, and the replies that wait for a ring there are held. D3HOT_ENTRY of a virtual function acts on its lot's queues
alone. Without a link only PERST_N changes (R33, R352, R354, R355, R358). STANDBY_TAKEOVER, with clocks, 10 ms after the detach of the holder
gives the role to a standby that is ATTACHED, and lot 0's queues in host memory lose ENABLE; else it changes nothing. FUNCTION_LEVEL_RESET, with
clocks, of a virtual function clears ENABLE of every queue of its lot, unmasks its event kinds with threshold 0, and the function does not answer
for 100 ms; of a physical one it does so for every lot that the attachment hosts; tensors and journal stay (R357, R359). -/
def Obligations.HostsComeAndGo : Prop :=
  (∀ (s : State) (a : AttachId),
      let v := s.dev.attachment a
      let loses (t : State) (l : Nat) : Prop := ∀ q, q < 16 →
        (t.dev.queue l q).enable = ((s.dev.queue l q).enable && (s.dev.queue l q).sqLoc)
        ∧ ((s.dev.queue l q).rqLoc = false → (s.dev.queue l q).ringHost = none → (s.dev.queue l q).replies ≠ [] →
          (t.dev.queue l q).replyHold = true)
      exec (.perstNRelease a none) s = .next { s with dev := s.dev.setAttachment a { v with perst := true } }
      ∧ exec (.hostLinkRetry a none) s = .next s
      ∧ (∀ l : LinkFormed,
        (s.dev.subPortOn a = true → v.link = 0 →
          (∃ t, exec (.perstNRelease a (some l)) s = .next t ∧ (t.dev.attachment a).link = 1 ∧ (t.dev.attachment a).perst = true
            ∧ (t.dev.attachment a).speed = l.speed ∧ (t.dev.attachment a).width = l.width ∧ (t.dev.attachment a).flit = l.flit)
          ∧ (v.perst = true → ∃ t, exec (.hostLinkRetry a (some l)) s = .next t ∧ (t.dev.attachment a).link = 1
            ∧ (t.dev.attachment a).speed = l.speed ∧ (t.dev.attachment a).width = l.width))
        ∧ (s.dev.subPortOn a = false ∨ v.link ≠ 0 → exec (.hostLinkRetry a (some l)) s = .next s
          ∧ exec (.perstNRelease a (some l)) s = .next { s with dev := s.dev.setAttachment a { v with perst := true } })
        ∧ (v.perst = false → exec (.hostLinkRetry a (some l)) s = .next s))
      ∧ (v.link = 0 ∨ s.dev.clocked = false → ∀ c,
        exec (.hostDetach a c) s = .next { s with dev := s.dev.setAttachment a { v with perst := v.perst && decide (c ≠ .perst) } })
      ∧ (v.link = 0 ∨ s.dev.clocked = false → ∀ f : Fn, f.attach = a → exec (.d3hotEntry f) s = .next s)
      ∧ (v.link ≠ 0 → s.dev.clocked = true →
        (∀ (i : Instr) (c : DetachCause), (i = .hostDetach a c ∨ i = .d3hotEntry { attach := a }) →
          ∃ t, exec i s = .next t ∧ (t.dev.attachment a).link = 0 ∧ (t.dev.attachment a).detachedAt = some s.dev.time ∧ t.dev.attached a = false
            ∧ (i = .hostDetach a .perst → (t.dev.attachment a).perst = false)
            ∧ (i = .d3hotEntry { attach := a } → (t.dev.attachment a).d3hot = true ∧ (t.dev.attachment a).perst = v.perst)
            ∧ (∀ l ∈ s.dev.hostedLots a, loses t l)
            ∧ (∀ b, b ≠ a.val → t.dev.attachment b = s.dev.attachment b) ∧ t.dev.mem = s.dev.mem ∧ t.dev.journal = s.dev.journal
            ∧ t.dev.hosts.holder = s.dev.hosts.holder)
        ∧ ∀ l : Lot,
          (l.val ∉ s.dev.hostedLots a → exec (.d3hotEntry { attach := a, vf := some l }) s = .next s)
          ∧ (l.val ∈ s.dev.hostedLots a → ∃ t, exec (.d3hotEntry { attach := a, vf := some l }) s = .next t
            ∧ (∀ q, q < 16 → (t.dev.queue l q).enable = ((s.dev.queue l q).enable && (s.dev.queue l q).sqLoc))
            ∧ (∀ k q, k ≠ l.val → q < 16 → t.dev.queue k q = s.dev.queue k q) ∧ t.dev.hosts = s.dev.hosts)))
  ∧ (∀ s : State,
      (s.dev.clocked = false ∨ s.dev.hosts.holder = none ∨ s.dev.hosts.standby = none → exec .standbyTakeover s = .next s)
      ∧ ∀ h n, s.dev.hosts.holder = some h → s.dev.hosts.standby = some n →
        (s.dev.attached h = true ∨ s.dev.attached n = false ∨ (s.dev.attachment h).detachedAt = none → exec .standbyTakeover s = .next s)
        ∧ ∀ at_, (s.dev.attachment h).detachedAt = some at_ →
          (s.dev.time < at_ + 1000000 → exec .standbyTakeover s = .next s)
          ∧ (s.dev.clocked = true → s.dev.attached h = false → s.dev.attached n = true → at_ + 1000000 ≤ s.dev.time →
            ∃ t, exec .standbyTakeover s = .next t ∧ t.dev.hosts.holder = some n ∧ t.dev.journal = s.dev.journal
              ∧ ∀ q, q < 16 → (t.dev.queue 0 q).enable = ((s.dev.queue 0 q).enable && (s.dev.queue 0 q).sqLoc)))
  ∧ ∀ (s : State) (f : Fn),
      let lots := (s.dev.hostedLots f.attach).filter fun l => f.vf.isNone || (f.vf.map Fin.val == some l && l != 0)
      (s.dev.clocked = false → exec (.functionLevelReset f) s = .next s)
      ∧ (s.dev.clocked = true → ∃ t, exec (.functionLevelReset f) s = .next t ∧ t.dev.inFlr f = true
        ∧ Tab.find t.dev.hosts.flr f.key = some (s.dev.time + 10000000)
        ∧ (∀ l ∈ lots, (∀ q, q < 16 → (t.dev.queue l q).enable = false) ∧ (t.dev.evq l).kindMask = 0 ∧ (t.dev.evq l).threshold = 0)
        ∧ (∀ l, l ∉ lots → ∀ q, q < 16 → t.dev.queue l q = s.dev.queue l q)
        ∧ t.dev.journal = s.dev.journal ∧ t.dev.tensors = s.dev.tensors ∧ t.dev.streams = s.dev.streams ∧ t.dev.hosts.holder = s.dev.hosts.holder)

/-- Security, with clocks. SPDM_REQUEST on an attachment with a link is answered, and opens one session more, to at most 4, or closes one.
IDE_KM_KEY_PROGRAM inside a session makes its stream secure; IDE_STREAM_INSECURE ends that, counts the faults of integrity checks for the
physical function and its virtual ones, and the lots that require IDE lose their queues in host memory. TDISP_REQUEST moves an enabled lot's
interface from CONFIG_UNLOCKED to CONFIG_LOCKED and on to RUN; STOP_INTERFACE returns it to CONFIG_UNLOCKED and clears ENABLE of the lot's queues
(R374 to R376, R378). Sideband. MCTP_MESSAGE from step 2 of cold start on is answered, a vendor read with the temperatures, the voltages of the
rails and PWR_STATE and PWR_BOOT. JTAG_INSTRUCTION becomes the current instruction; one that drives lands acts as BYPASS while an attachment is
ATTACHED; IDCODE shifts out the code of the part, and the private one is the halt request of a core (R403, R456, R458). Else nothing happens. -/
def Obligations.SecurityAndSideband : Prop :=
  (∀ (s : State) (a : AttachId) (k : Fin 5) (b : Bytes) (kind : SpdmKind) (f : Bool),
      let v := s.dev.attachment a
      (v.link = 0 ∨ s.dev.clocked = false → exec (.spdmRequest a kind b) s = .next s ∧ exec (.ideKmKeyProgram a k) s = .next s)
      ∧ (v.link ≠ 0 → s.dev.clocked = true → ∃ t, exec (.spdmRequest a kind b) s = .next t
        ∧ (t.dev.attachment a).sessions =
          (if kind = .openSession then min 4 (v.sessions + 1) else if kind = .closeSession then v.sessions - 1 else v.sessions)
        ∧ t.dev.hosts.answers = s.dev.hosts.answers ++ [.spdm (some a.val) (Config.spdmAnswer b)])
      ∧ (v.sessions = 0 ∨ k.val ∈ v.secure → exec (.ideKmKeyProgram a k) s = .next s)
      ∧ (v.link ≠ 0 → v.sessions ≠ 0 → k.val ∉ v.secure → s.dev.clocked = true →
        exec (.ideKmKeyProgram a k) s = .next { s with dev := s.dev.setAttachment a { v with secure := v.secure ++ [k.val] } })
      ∧ (k.val ∉ v.secure ∨ s.dev.clocked = false → exec (.ideStreamInsecure a k f) s = .next s)
      ∧ (k.val ∈ v.secure → s.dev.clocked = true → ∃ t, exec (.ideStreamInsecure a k f) s = .next t ∧ k.val ∉ (t.dev.attachment a).secure
        ∧ (∀ j, j ≠ k.val → (j ∈ (t.dev.attachment a).secure ↔ j ∈ v.secure))
        ∧ (t.dev.attachment a).ideFaults = satAdd 0xFFFF v.ideFaults (b2n f)
        ∧ (f = true → ∀ l : Lot, Tab.look (0, 0) t.dev.hosts.vfSec (a * 65 + l + 1) =
          ((Tab.look (0, 0) s.dev.hosts.vfSec (a * 65 + l + 1)).1, satAdd 0xFFFF (Tab.look (0, 0) s.dev.hosts.vfSec (a * 65 + l + 1)).2 1))
        ∧ ∀ l ∈ s.dev.hostedLots a, ∀ q, q < 16 → (t.dev.queue l q).enable =
          ((s.dev.queue l q).enable && ((s.dev.queue l q).sqLoc || !(s.dev.lot l).ideRequired))))
  ∧ (∀ (s : State) (l : Lot),
      let v := s.dev.lotState l
      (l.val = 0 ∨ s.dev.lotDom l ≠ .enabled ∨ s.dev.clocked = false →
        (∀ m, exec (.tdispRequest l m) s = .next s) ∧ exec (.stopInterface l) s = .next s)
      ∧ (l.val ≠ 0 → s.dev.lotDom l = .enabled → s.dev.clocked = true →
        (v.tdi = 0 → exec (.tdispRequest l .lock) s = .next { s with dev := s.dev.setLotState l { v with tdi := 1 } })
        ∧ (v.tdi = 1 → exec (.tdispRequest l .start) s = .next { s with dev := s.dev.setLotState l { v with tdi := 2 } })
        ∧ (v.tdi ≠ 0 → exec (.tdispRequest l .lock) s = .next s)
        ∧ (v.tdi ≠ 1 → exec (.tdispRequest l .start) s = .next s)
        ∧ ∃ t, exec (.stopInterface l) s = .next t ∧ (t.dev.lotState l).tdi = 0 ∧ ∀ q, q < 16 → (t.dev.queue l q).enable = false))
  ∧ ∀ s : State,
      (s.dev.clocked = false ∨ s.dev.power.stage < 2 → ∀ m, exec (.mctpMessage m) s = .next s)
      ∧ (s.dev.clocked = true → 2 ≤ s.dev.power.stage → ∀ (ts : List Nat) (b : Bytes),
        let a : Answer := .vendor ts ((List.range Config.rails).map fun k => Tab.look 0 s.dev.power.rails k) s.dev.pwrState s.dev.pwrBoot
        exec (.mctpMessage (.vendorRead ts)) s = .next { s with dev := s.dev.answer a }
        ∧ exec (.mctpMessage .control) s = .next { s with dev := s.dev.answer .control }
        ∧ exec (.mctpMessage (.spdm b)) s = .next { s with dev := s.dev.answer (.spdm none (Config.spdmAnswer b)) })
      ∧ (∀ j : Jtag, (∀ c, j ≠ .halt c) → j ≠ .idcode → (j.drives = false ∨ ∀ a, a < Config.attachments → s.dev.attached a = false) →
        exec (.jtagInstruction j) s = .next { s with dev := { s.dev with hosts := { s.dev.hosts with scan := j } } })
      ∧ (∀ (j : Jtag) (a : Nat), j.drives = true → a < Config.attachments → s.dev.attached a = true →
        exec (.jtagInstruction j) s = .next { s with dev := { s.dev with hosts := { s.dev.hosts with scan := .bypass } } })
      ∧ (∃ t, exec (.jtagInstruction .idcode) s = .next t ∧ t.dev.hosts.scan = .idcode
        ∧ t.dev.hosts.answers = s.dev.hosts.answers ++ [.idcode idcode])
      ∧ ∀ c, exec (.jtagInstruction (.halt c)) s =
          exec (.scanHaltRequest c) { s with dev := { s.dev with hosts := { s.dev.hosts with scan := .halt c } } }
        ∧ ∃ t, exec (.jtagInstruction (.halt c)) s = .next t ∧ t.dev.hosts.scan = .halt c

/-- The training of a port that is ENABLED or ENABLING, with clocks, step by step. A bias that is done ends step 1, an adaptation step 2, and a FEC
lock step 3 with the port in IDENTITY and its record sent; each failure sends the port back, or DOWN with its cause. A port DOWN whose wait is
over trains again from step 1, and one in IDENTITY whose second is over trains again from step 2; a record is sent again in IDENTITY, HELD,
MISWIRED and FENCED. A port that goes DOWN is ENABLING no more, and the command that enabled it has been executed. Else nothing happens. The
record holds SYSTEM_ID, ROLE, the port and the proposed epoch at their places (R286, R287, R289). -/
def Obligations.PortsTrain : Prop :=
  (∀ (s : State) (p : PortId),
    let v := s.dev.port p
    let set (x : Port) : Host.Outcome State Fault Refusal := .next { s with dev := s.dev.setPort p x }
    let down (x : Port) : Host.Outcome State Fault Refusal := .next { s with dev := (s.dev.setPort p x).finishEnable p }
    let none_ (i : Instr) : Prop := exec i s = .next s
    let record := s.dev.sendRaw p (.identity (s.dev.identityRecord p))
    let lit := s.dev.clocked = true ∧ v.lit = true
    (lit → v.step = 1 → exec (.laserBiasDone p true) s = set { v with step := 2 } ∧ exec (.laserBiasDone p false) s = down (v.goDown 1 s.dev.time))
    ∧ (¬ lit ∨ v.step ≠ 1 → ∀ b, none_ (.laserBiasDone p b))
    ∧ (lit → v.step = 2 → exec (.laneAdaptDone p .adapted) s = set { v with step := 3 }
      ∧ exec (.laneAdaptDone p .noLight) s = down (v.goDown 2 s.dev.time)
      ∧ (v.adaptFails < 2 → exec (.laneAdaptDone p .failed) s = set { v with adaptFails := v.adaptFails + 1 })
      ∧ (2 ≤ v.adaptFails → exec (.laneAdaptDone p .failed) s = down (v.goDown 3 s.dev.time)))
    ∧ (¬ lit ∨ v.step ≠ 2 → ∀ o, none_ (.laneAdaptDone p o))
    ∧ (lit → v.step = 3 →
      (∃ t, exec (.fecLock p true) s = .next t
        ∧ t.dev.port p = { v with step := 4, lstate := 2, waitUntil := s.dev.time + 100000000 }
        ∧ t.dev.links.outbox = s.dev.links.outbox ++ [(p.val, .identity (s.dev.identityRecord p))])
      ∧ exec (.fecLock p false) s = set { v.train 2 with cause := 7 })
    ∧ (¬ lit ∨ v.step ≠ 3 → ∀ b, none_ (.fecLock p b))
    ∧ (lit → v.lstate ∈ [2, 3, 5, 6] → exec (.identityResend p) s = .next { s with dev := record })
    ∧ (¬ lit ∨ v.lstate ∉ [2, 3, 5, 6] → none_ (.identityResend p))
    ∧ (lit → v.lstate = 2 → v.waitUntil ≤ s.dev.time → exec (.identityTimeout p) s = set { v.train 2 with cause := 6 })
    ∧ (¬ lit ∨ v.lstate ≠ 2 ∨ s.dev.time < v.waitUntil → none_ (.identityTimeout p))
    ∧ (lit → v.lstate = 0 → v.waitUntil ≤ s.dev.time → s.dev.power.failing = none → exec (.portDownRetry p) s = set (v.train 1))
    ∧ (¬ lit ∨ v.lstate ≠ 0 ∨ s.dev.time < v.waitUntil ∨ s.dev.power.failing.isSome = true → none_ (.portDownRetry p)))
  ∧ (∀ (d : Device) (p : Nat),
    let v := d.port p
    let done := d.setPort p { v with state := .enabled, enabler := none }
    (v.state ≠ .enabling → d.finishEnable p = d)
    ∧ (v.state = .enabling → v.enabler = none → d.finishEnable p = done)
    ∧ (∀ id, v.state = .enabling → v.enabler = some id → d.finishEnable p = done.stageOk id 0 0))
  ∧ (∀ (v : Port) (cause time : Nat),
    let w := v.goDown cause time
    w.lstate = 0 ∧ w.cause = cause ∧ w.downCount = v.downCount + 1
      ∧ (v.downCount = 0 → w.waitUntil = time + 100000) ∧ (v.downCount = 1 → w.waitUntil = time + 1000000)
      ∧ (v.downCount = 2 → w.waitUntil = time + 10000000) ∧ (3 ≤ v.downCount → w.waitUntil = time + 100000000))
  ∧ ∀ (d : Device) (p : PortId), d.links.log2.length = 3 →
    let r := d.identityRecord p
    r.length = 64 ∧ rd r 0 8 = Config.deviceId % 2 ^ 64 ∧ rd r 8 8 = d.links.systemId % 2 ^ 64 ∧ rd r 16 1 = d.links.role % 256
      ∧ rd r 24 2 = d.links.adoptGen % 2 ^ 16 ∧ rd r 26 1 = p ∧ rd r 27 1 = ((d.port p).epoch + 1) % 256

/-- A port becomes ACTIVE, and stops being so, with clocks. IDENTITY_RECEIVE, on a lit port that waits for a record, of one that the port's checks
accept makes it ACTIVE, in a new epoch with full credits, empty buffers and SEQ 0; of one that they do not, HELD, MISWIRED or FENCED.
PORT_LINK_LOSS returns an ACTIVE port to step 2, and what was under way on it is lost: a command whose message it carried, but for the collective
engine's, fails with E_LINK_LOST. REPLAY_RECEIVE of one SEQ for the 16th time does so with RETRY_LIMIT; a lower count sends again what the retry
buffer holds from it. PORT_DISABLE_TIMEOUT ends the disable of a port that has no traffic left or whose time is over, its lasers off, and an
enable held meanwhile acts. Else nothing happens (R280, R281, R284, R285, R287 to R289). -/
def Obligations.PortsComeAndGo : Prop :=
  ∀ (s : State) (p : PortId),
    let v := s.dev.port p
    let waits := s.dev.clocked = true ∧ v.lit = true ∧ v.lstate ∈ [2, 3, 5, 6]
    (∀ record : Bytes,
      let b := fit 64 record
      (waits → s.dev.judgeIdentity p b = 4 → ∃ t, exec (.identityReceive p record) s = .next t
        ∧ (s.dev.links.portTo p = none → (t.dev.port p).credits = fullCredits ∧ (t.dev.port p).sendSeq = 0)
        ∧ (t.dev.port p).lstate = 4 ∧ (t.dev.port p).state = .enabled ∧ (t.dev.port p).hasPeer = true ∧ (t.dev.port p).peerId = rd b 0 8
        ∧ (t.dev.port p).recvSeq = 0 ∧ (t.dev.port p).buffers = []
        ∧ (t.dev.port p).epoch = laterEpoch ((v.epoch + 1) % 256) (rd b 27 1))
      ∧ (waits → s.dev.judgeIdentity p b ≠ 4 → exec (.identityReceive p record) s = .next { s with
          dev := (s.dev.setPort p { v with lstate := s.dev.judgeIdentity p b }).finishEnable p })
      ∧ (¬ waits → exec (.identityReceive p record) s = .next s))
    ∧ (s.dev.clocked = false ∨ v.lstate ≠ 4 → exec (.portLinkLoss p) s = .next s ∧ ∀ q, exec (.replayReceive p q) s = .next s)
    ∧ (s.dev.clocked = true → v.lstate = 4 →
      (∃ t, exec (.portLinkLoss p) s = .next t ∧ (t.dev.port p).lstate = 1 ∧ (t.dev.port p).step = 2 ∧ (t.dev.port p).retry = []
        ∧ (t.dev.port p).waiting = [] ∧ (t.dev.port p).buffers = []
        ∧ ∀ m e, (s.dev.links.messages.filter fun m => m.port = p.val) = [m] → s.dev.entry m.entry = some e →
          e.op ≠ .collective → e.op ≠ .rethread → ∃ x, t.dev.entry m.entry = some x ∧ x.phase = .staged ∧ x.status = .eLinkLost)
      ∧ ∀ q : Fin 4096,
          let n := if v.replaySeq = q then v.replayCount + 1 else 1
          (16 ≤ n → ∃ t, exec (.replayReceive p q) s = .next t ∧ (t.dev.port p).lstate = 1 ∧ (t.dev.port p).step = 2
            ∧ (t.dev.port p).cause = 4)
          ∧ (n < 16 → ∃ t, exec (.replayReceive p q) s = .next t ∧ t.dev.port p = { v with replaySeq := q, replayCount := n }
            ∧ t.dev.links.wire = s.dev.links.wire
                ++ (v.retry.filter fun f => f.seq = q.val || serialLater 12 q f.seq).map fun f => (p.val, f.data)))
    ∧ (let quiet := v.retry = [] ∧ v.waiting = [] ∧ ∀ m ∈ s.dev.links.messages, m.port ≠ p.val
      let ends := s.dev.clocked = true ∧ v.state = .disabling ∧ (quiet ∨ v.disableAt ≤ s.dev.time)
      (ends → v.pendingBy = none →
        ∃ t, exec (.portDisableTimeout p) s = .next t ∧ (t.dev.port p).state = .disabled ∧ (t.dev.port p).lstate = 0)
      ∧ (∀ b, ends → v.pendingBy = some b →
        ∃ t, exec (.portDisableTimeout p) s = .next t ∧ (t.dev.port p).state = .enabling ∧ (t.dev.port p).step = 1 ∧ (t.dev.port p).enabler = b)
      ∧ (¬ ends → exec (.portDisableTimeout p) s = .next s))

/-- FLIT_RECEIVE on an ACTIVE port, with clocks; on another it does nothing. It counts the FEC's corrections. A flit that fails its CRC changes no
buffer and no expected SEQ and asks for a REPLAY, and after 16 of them the port returns to training; one of an old epoch is counted and
discarded; an IDLE flit takes no SEQ, and its ACK empties the retry buffer; one out of sequence is discarded. In sequence the next SEQ is
expected: a CREDIT flit returns credits up to the allotment; a DATA flit on a VC that the port may not carry is discarded; one for another device
goes out on an ACTIVE copy to the next device of its path, waits in the buffers where that copy cannot send, and is discarded with a NACK where
its path is cut; one whose tag names no lot here is counted and answered with a NACK; any other is taken into the buffers (R277 to R284, R292 to
R294). CUT_PAIR_NOTICE enters a new cut pair in the table, or removes one, and leaves it as it is when it is no news. MESSAGE_NACK ends the
messages of the command whose message met a cut pair, which fails with E_LINK_LOST, or with E_TAG_VIOLATION where its target discarded it (R283,
R293). -/
def Obligations.FlitsAndCuts : Prop :=
  (∀ (s : State) (p : PortId) (flit : Bytes) (bad : Bool) (corrected job : Nat),
      let v := s.dev.port p
      let b := fit 256 flit
      let f := flitFields b
      let i : Instr := .flitReceive p { bytes := flit, job := job } bad corrected
      let same (t : State) : Prop := (t.dev.port p).buffers = v.buffers ∧ (t.dev.port p).recvSeq = v.recvSeq
      let counted := satAdd 0xFFFFFFFF v.fecCorr corrected
      let asked := v.askedSeq = some v.recvSeq
      (s.dev.clocked = false ∨ v.lstate ≠ 4 → exec i s = .next s)
      ∧ (s.dev.clocked = true → v.lstate = 4 →
        (flitGood b bad = false → ¬ asked ∨ v.asks < 16 → ∃ t, exec i s = .next t ∧ same t ∧ (t.dev.port p).fecCorr = counted
          ∧ (t.dev.port p).fecUncorr = satAdd 0xFF v.fecUncorr (b2n bad) ∧ (t.dev.port p).replays = satAdd 0xFFF v.replays 1
          ∧ t.dev.links.outbox = s.dev.links.outbox ++ [(p.val, .replay v.recvSeq)])
        ∧ (flitGood b bad = false → asked → 16 ≤ v.asks → ∃ t, exec i s = .next t ∧ (t.dev.port p).lstate = 1 ∧ (t.dev.port p).cause = 4)
        ∧ (flitGood b bad = true → f.epoch ≠ v.epoch → ∃ t, exec i s = .next t ∧ same t ∧ (t.dev.port p).stale = satAdd 0xFF v.stale 1
          ∧ (∀ q, q ≠ p.val → t.dev.port q = s.dev.port q) ∧ t.dev.links.outbox = s.dev.links.outbox)
        ∧ (flitGood b bad = true → f.epoch = v.epoch →
          (f.kind = 0 → ∃ t, exec i s = .next t ∧ same t ∧ (t.dev.port p).fecCorr = counted
            ∧ ∀ a, f.ack = some a → v.waiting = [] →
              (t.dev.port p).retry = v.retry.filter fun x => !(x.seq = a || serialLater 12 x.seq a))
          ∧ (f.kind ≠ 0 → f.seq ≠ v.recvSeq → ∃ t, exec i s = .next t ∧ same t)
          ∧ (f.kind ≠ 0 → f.seq = v.recvSeq →
            let taken (t : State) : Prop := exec i s = .next t ∧ (t.dev.port p).recvSeq = (v.recvSeq + 1) % 4096
            let held (t : State) : Prop := taken t ∧ (t.dev.port p).buffers = v.buffers ++ [{ vc := f.vc, seq := f.seq, data := b }]
            let others (t : State) : Prop := ∀ q, q ≠ p.val → t.dev.port q = s.dev.port q
            (f.kind = 2 → ∃ t, taken t ∧ (t.dev.port p).buffers = v.buffers ∧ others t ∧ (v.waiting = [] → (t.dev.port p).credits =
              v.credits.set f.credVc (min (fullCredits.getD f.credVc 0) (v.credits.getD f.credVc 0 + f.credN))))
            ∧ (f.kind = 3 → ∃ t, held t ∧ others t)
            ∧ (f.kind = 1 → vcAllowed p f.vc = false → ∃ t, taken t ∧ (t.dev.port p).buffers = v.buffers ∧ others t)
            ∧ (f.kind = 1 → vcAllowed p f.vc = true → s.dev.passing f = false →
              (s.dev.foreignFlit f.tag job = false → ∃ t, held t ∧ others t)
              ∧ (s.dev.foreignFlit f.tag job = true → ∃ t, taken t ∧ (t.dev.port p).buffers = v.buffers ∧ others t
                ∧ (t.dev.port p).tagDrop = satAdd 0xF v.tagDrop 1
                ∧ t.dev.links.outbox = s.dev.links.outbox ++ [(p.val, .nack true)]))
            ∧ ∀ n rest, f.kind = 1 → vcAllowed p f.vc = true → s.dev.passing f = true → (f.pos = 1 ∨ f.pos = 3) →
              hops (if f.vc = 4 then [0, 1, 2] else [2, 1, 0]) s.dev.links.coord f.dest = n :: rest →
              (s.dev.isCut s.dev.links.coord n = true → ∃ t, taken t ∧ (t.dev.port p).buffers = v.buffers
                ∧ t.dev.links.outbox = s.dev.links.outbox ++ [(p.val, .nack false)])
              ∧ ∀ q, s.dev.isCut s.dev.links.coord n = false → p.val ∉ s.dev.links.copiesTo n → s.dev.copyFor n f.vc = some q →
                ((s.dev.port q).canSend f.vc = true → ∃ t, taken t ∧ (t.dev.port p).buffers = v.buffers
                  ∧ t.dev.links.outbox = s.dev.links.outbox ++ [(q, .routed b)])
                ∧ ((s.dev.port q).canSend f.vc = false → ∃ t, held t ∧ others t)))))
  ∧ ((∀ (s : State) (a b : Nat) (cut : Bool),
      let k := cutKey (a % 2 ^ 14) (b % 2 ^ 14)
      (s.dev.clocked = false ∨ (cut = true ↔ k ∈ s.dev.links.cuts) → exec (.cutPairNotice a b cut) s = .next s)
      ∧ (s.dev.clocked = true → k ∉ s.dev.links.cuts → cut = true →
        ∃ t, exec (.cutPairNotice a b cut) s = .next t ∧ t.dev.links.cuts = s.dev.links.cuts ++ [k])
      ∧ (s.dev.clocked = true → k ∈ s.dev.links.cuts → cut = false →
        ∃ t, exec (.cutPairNotice a b cut) s = .next t ∧ t.dev.links.cuts = s.dev.links.cuts.filter (· ≠ k)))
    ∧ ∀ (s : State) (n : Nat) (foreign : Bool),
        let i : Instr := .messageNack { message := n, foreign := foreign }
        (s.dev.clocked = false ∨ (s.dev.links.messages.find? fun x => x.id = n) = none → exec i s = .next s)
        ∧ ∀ (m : Message) (e : Entry), s.dev.clocked = true → (s.dev.links.messages.find? fun x => x.id = n) = some m →
          s.dev.entry m.entry = some e →
          ∃ t x, exec i s = .next t ∧ (∀ y ∈ t.dev.links.messages, y.entry ≠ m.entry) ∧ t.dev.entry m.entry = some x
            ∧ x.phase = .staged ∧ x.status = (if foreign then .eTagViolation else .eLinkLost))

/-- PLACEMENT_EPOCH, once in an epoch of TIME, starts at most 128 moves, each off a stack that carries, by its counts and those given with the row,
more than 125 % of the mean traffic and none of a pinned tensor or one with REUSE 0; it changes no tensor and no byte, and the counts start
afresh; with no such stack it starts none. EXTENT_MOVE completes a move in progress: the copy is in the tensor's map, with the content and the
poison of the old extent, which is freed (R206, R207). PATROL_SCRUB, while scrubbing is on, reads the next codeword of its pass: one without
errors changes nothing; one with 1 to 4 bad symbols, or taken for another codeword, is corrected and counted; with more, or in any number under
eight-symbol detection, it is poisoned, counted and latched. EXTENT_RETIRE of an extent that is due retires a FREE one, moves one of an unpinned
tensor and retires it, and reports the delay of a pinned or SYSTEM one once. Else nothing happens (R212 to R216, R226). -/
def Obligations.PlacementAndScrub : Prop :=
  (∀ (s : State) (lines : List Nat) (traffic : List (Nat × Nat)),
      let counts := (List.range Config.memStacks).map fun m => Tab.look 0 s.dev.mem.served m + lines.getD m 0
      let due := s.dev.running = true ∧ s.dev.time / 1000000 ≠ s.dev.mem.epoch
      (¬ due → exec (.placementEpoch lines traffic) s = .next s)
      ∧ (due → ∃ t ms, exec (.placementEpoch lines traffic) s = .next t ∧ t.dev.mem.moves = s.dev.mem.moves ++ ms ∧ ms.length ≤ 128
        ∧ (∀ m ∈ ms, 5 * counts.sum < 80 * counts.getD (extentStack m.from_) 0
          ∧ ∃ v, s.dev.mapped m.from_ = some (m.tensor, v, m.index) ∧ v.pinned = false ∧ v.reuse ≠ some 0)
        ∧ t.dev.mem.epoch = s.dev.time / 1000000 ∧ t.dev.mem.served = []
        ∧ t.dev.tensors = s.dev.tensors ∧ t.dev.mem.cells = s.dev.mem.cells)
      ∧ (due → (∀ m, m < 20 → 80 * counts.getD m 0 ≤ 5 * counts.sum) → exec (.placementEpoch lines traffic) s = .next { s with dev := { s.dev with
          mem := { s.dev.mem with epoch := s.dev.time / 1000000, served := [], traffic := [] } } }))
  ∧ (∀ (s : State) (x : Nat) (errors : List CodewordError),
      let i : Instr := .extentMove x errors
      (s.dev.running = false ∨ (s.dev.mem.moves.find? fun m => m.from_ = x) = none → exec i s = .next s)
      ∧ ∀ (m : Move) (v : Tensor), s.dev.running = true → (s.dev.mem.moves.find? fun m => m.from_ = x) = some m →
        s.dev.tensor m.tensor = some v → x ≠ m.to_ → (∀ w ∈ (s.dev.strike errors).mem.faulty, w.1 / Config.extentBytes ≠ x) →
        ∃ t, exec i s = .next t
          ∧ t.dev.tensor m.tensor = some { v with extents := v.extents.set m.index m.to_, planGen := (v.planGen + 1) % 2 ^ 16 }
          ∧ (∀ i, i < Config.extentBytes →
              readByte t.dev.mem.cells (m.to_ * Config.extentBytes + i) = readByte s.dev.mem.cells (x * Config.extentBytes + i))
          ∧ (∀ a ∈ s.dev.mem.poison, a / Config.extentBytes = x → a % Config.extentBytes + m.to_ * Config.extentBytes ∈ t.dev.mem.poison)
          ∧ (t.dev.owner x = .free ∨ t.dev.owner x = .retired ∨ x ∈ t.dev.mem.orphans)
          ∧ t.dev.mem.moves = s.dev.mem.moves.filter fun m => m.from_ ≠ x)
  ∧ (∀ (s : State) (addr badSymbols : Nat) (struck : Option Bytes),
      let i : Instr := .patrolScrub addr badSymbols struck
      let d := s.dev.strike (if badSymbols = 0 then [] else [{ addr := addr, bad := badSymbols, other := struck }])
      (s.dev.running = false → exec i s = .next s)
      ∧ (s.dev.running = true → s.dev.mem.scrubOn = false → exec i s = .next { s with dev := d })
      ∧ (s.dev.running = true → s.dev.mem.scrubOn = true → d.scrubNext = none →
        exec i s = .next { s with dev := { d with mem := { d.mem with scrubPos := Config.memTop } } })
      ∧ ∀ a, s.dev.running = true → s.dev.mem.scrubOn = true → d.scrubNext = some a →
        let v := Tab.look {} s.dev.mem.stackRegs (stackOf a)
        let regs (t : State) := Tab.look {} t.dev.mem.stackRegs (stackOf a)
        let reads (t : State) : Prop := exec i s = .next t ∧ t.dev.mem.scrubPos = a + 64
        let corrects (t : State) : Prop := reads t ∧ t.dev.mem.poison = s.dev.mem.poison
          ∧ (regs t).corr = satAdd 0xFFFFFFFF v.corr 1 ∧ (regs t).scrubCorr = satAdd 0xFFFF v.scrubCorr 1
        let poisons (t : State) : Prop := reads t ∧ t.dev.mem.cells = s.dev.mem.cells ∧ a / 64 * 64 ∈ t.dev.mem.poison
          ∧ (regs t).uncorr = satAdd 0xFFFF v.uncorr 1 ∧ (a / 64 * 64) / Config.extentBytes ∈ t.dev.mem.retireWait
          ∧ (s.dev.mem.ue.valid = false → t.dev.mem.ue.valid = true ∧ t.dev.mem.ue.addr = a / 64 * 64)
        ((∀ n other, Tab.find d.mem.faulty a = some (n, other) → n = 0) →
          ∃ t, reads t ∧ t.dev.mem.cells = s.dev.mem.cells ∧ t.dev.mem.poison = s.dev.mem.poison ∧ t.dev.mem.stackRegs = s.dev.mem.stackRegs)
        ∧ ∀ n other, Tab.find d.mem.faulty a = some (n, other) → 1 ≤ n →
          (v.detect8 = true → ∃ t, poisons t)
          ∧ (v.detect8 = false → n ≤ 4 → ∃ t, corrects t ∧ t.dev.mem.cells = s.dev.mem.cells)
          ∧ (v.detect8 = false → 4 < n → other = none → ∃ t, poisons t)
          ∧ ∀ b, v.detect8 = false → 4 < n → other = some b → ∃ t, corrects t ∧ t.dev.readMem a 64 = fit 64 b)
  ∧ (∀ (d : Device) (e : CodewordError), e.sram = false → e.addr / 64 * 64 < Config.memTop →
      Tab.find (d.strike [e]).mem.faulty (e.addr / 64 * 64) = some (e.bad, e.other))
  ∧ ∀ (s : State) (x : Nat),
      let due := s.dev.running = true ∧ x ∈ s.dev.mem.retireWait
      let delays : Prop := (x ∈ s.dev.mem.retireTold → exec (.extentRetire x) s = .next s)
        ∧ (x ∉ s.dev.mem.retireTold → ∃ t, exec (.extentRetire x) s = .next t ∧ x ∈ t.dev.mem.retireTold ∧ x ∈ t.dev.mem.retireWait
          ∧ t.dev.tensors = s.dev.tensors ∧ t.dev.mem.cells = s.dev.mem.cells
          ∧ ((s.dev.evq 0).kindMask.testBit 5 = false → (t.dev.source (srcStack (extentStack x))).raised.length
            = (s.dev.source (srcStack (extentStack x))).raised.length + 1))
      (¬ due → exec (.extentRetire x) s = .next s)
      ∧ (due → s.dev.owner x = .free →
        ∃ t, exec (.extentRetire x) s = .next t ∧ t.dev.owner x = .retired ∧ x ∉ t.dev.mem.retireWait ∧ t.dev.tensors = s.dev.tensors)
      ∧ (due → s.dev.owner x = .system → delays)
      ∧ ∀ tag key v i, due → s.dev.owner x = .lot tag → s.dev.mapped x = some (key, v, i) →
        (v.pinned = true → delays)
        ∧ (v.pinned = false → s.dev.chooseStack v.stackIds none (some (extentStack x)) = none → exec (.extentRetire x) s = .next s)
        ∧ ∀ m, v.pinned = false → s.dev.chooseStack v.stackIds none (some (extentStack x)) = some m → s.dev.lowestFree m ≠ x →
          s.dev.tensor key = some v → (∀ w ∈ s.dev.mem.moves, w.from_ ≠ x) → (∀ w ∈ s.dev.mem.faulty, w.1 / Config.extentBytes ≠ x) →
          ∃ t, exec (.extentRetire x) s = .next t
            ∧ t.dev.tensor key = some { v with extents := v.extents.set i (s.dev.lowestFree m), planGen := (v.planGen + 1) % 2 ^ 16 }
            ∧ (∀ j, j < Config.extentBytes → readByte t.dev.mem.cells (s.dev.lowestFree m * Config.extentBytes + j)
              = readByte s.dev.mem.cells (x * Config.extentBytes + j))
            ∧ (t.dev.owner x = .retired ∨ x ∈ t.dev.mem.orphans)

/-- The atomics. One of a form that the slices execute, for the launch that its core runs, on aligned elements of a tensor of its lot that can be
read and staged, with no other atomic waiting, stages each element's new value, which the operation gives from its old one, its operand and, for
CAS, its compare value; SWAP and CAS return the old values. One of another form or beyond the end of memory fails the launch with E_PARAM, one
that is not aligned with E_ALIGN, and one of another owner's extent with E_TAG_VIOLATION; on a core that runs no launch of its stream nothing
happens. A slice serves the lot that comes first after the one that it served last (R61, R202, R209, R220, R221). REDUCTION_CONTRIBUTION to a
line of a declared region. The next contribution in order, with none waiting, joins the partial sums of its line as the canonical tree does; an
early one waits in the window; the last one gives the line to the tensor and releases the line-state; a repeated one, one that is more than 8
ahead, and one whose slice has no room for its line-state change nothing of the line (R222, R325). -/
def Obligations.CacheOperations : Prop :=
  (∀ (s : State) (a : Atomic) (i : Instr) (fn : AtomicFn),
      (i, fn) ∈ [(Instr.atomicAdd a, AtomicFn.add), (.atomicMin a, .min), (.atomicMax a, .max), (.atomicAnd a, .band), (.atomicOr a, .bor),
        (.atomicXor a, .bxor), (.atomicSwap a, .swap), (.atomicCas a, .cas)] →
      let n := a.kind.bytes
      let count := a.operands.length
      let fails (e : Entry) (st : Status) : Prop := ∃ t x, exec i s = .next t ∧ t.dev.entry e.id = some x ∧ x.phase = .staged ∧ x.status = st
      (s.kernelOf a.core = none ∨ s.dev.running = false → exec i s = .next s)
      ∧ ∀ e, Runs s a.core e →
        (e.stream ≠ a.stream.val → exec i s = .next s)
        ∧ (e.stream = a.stream.val → (a.wf fn = false ∨ Config.memTop < a.addr + n * count) → fails e .eParam)
        ∧ (e.stream = a.stream.val → a.wf fn = true → a.addr + n * count ≤ Config.memTop → a.addr % n ≠ 0 → fails e .eAlign)
        ∧ (e.stream = a.stream.val → a.wf fn = true → a.addr + n * count ≤ Config.memTop → a.addr % n = 0 → e.lot < Config.lots →
          s.dev.mem.atomics = [] →
          let slice := homeSlice a.addr
          let d := { s.dev with mem := { s.dev.mem with
            atomics := [{ entry := e.id, lot := e.lot, fn := fn, op := a, queued := true }]
            atomicTurn := Tab.put 0 ((e.lot + 1) % Config.lots) s.dev.mem.atomicTurn slice } }
          let x := a.addr / Config.extentBytes
          (s.dev.owner x ≠ .lot e.lot → fails e .eTagViolation)
          ∧ ∀ key t d1 d2 d3 old, s.dev.owner x = .lot e.lot → s.dev.tensorAt e.lot x = some (key, t) →
            let off := t.extents.idxOf x * Config.extentBytes + a.addr % Config.extentBytes
            let olds := (List.range count).map fun j => rd old (n * j) n
            let news := olds.zipIdx.map fun p => fn.eval a.kind p.1 (a.operands.getD p.2 0) (a.compare.getD p.2 0)
            d.stageRange e key off (n * count) = .ok d1 → d1.fetchTensor e key off (n * count) = .ok (old, d2) →
            d2.putTensor e key off (news.flatMap (toLE n)) = .ok d3 →
            ∃ u, exec i s = .next u ∧ u.dev.mem.cells = d3.mem.cells ∧ u.dev.tensors = d3.tensors ∧ u.eng = s.eng
              ∧ Tab.look 0 u.dev.mem.atomicTurn slice = Tab.look 0 d3.mem.atomicTurn slice
              ∧ (fn = .swap ∨ fn = .cas → Tab.find u.dev.mem.atomicOld a.core = some olds)
              ∧ (fn ≠ .swap → fn ≠ .cas → u.dev.mem.atomicOld = d3.mem.atomicOld)))
  ∧ (∀ (k : AtomicKind) (old op c : Nat),
      AtomicFn.band.eval k old op c = old &&& op ∧ AtomicFn.bor.eval k old op c = old ||| op ∧ AtomicFn.bxor.eval k old op c = old ^^^ op
      ∧ AtomicFn.swap.eval k old op c = op ∧ (old = c → AtomicFn.cas.eval k old op c = op) ∧ (old ≠ c → AtomicFn.cas.eval k old op c = old)
      ∧ (toSigned 32 op < toSigned 32 old → AtomicFn.min.eval .i32 old op c = op ∧ AtomicFn.max.eval .i32 old op c = old)
      ∧ AtomicFn.min.eval .f32 old op c = f32min old op ∧ AtomicFn.max.eval .f32 old op c = f32max old op
      ∧ AtomicFn.add.eval .f32 old op c = fAdd fp32 old op ∧ AtomicFn.add.eval .bf16 old op c = fAdd bf16 old op
      ∧ AtomicFn.add.eval .f32e4m3 old op c = encodeF fp32 ((decodeF fp32 old).add (decodeF e4m3 op)))
  ∧ (∀ (d : Device) (slice lot : Nat),
      let turn := Tab.look 0 d.mem.atomicTurn slice
      turn < 64 → d.atomicLot slice = some lot → lot < 64 ∧ d.atomicQueue slice lot ≠ []
        ∧ ∀ j, j < (lot + 64 - turn) % 64 → d.atomicQueue slice ((turn + j) % 64) = [])
  ∧ ∀ (s : State) (region index : Nat) (line : Fin 16777216) (values : List Nat),
      let i : Instr := .reductionContribution region line index values
      let vs := (values ++ List.replicate 64 0).take 64
      let key := region * 2 ^ 24 + line
      (s.dev.running = false ∨ Tab.find s.dev.mem.regions region = none → exec i s = .next s)
      ∧ ∀ r e, s.dev.running = true → Tab.find s.dev.mem.regions region = some r → s.dev.entry r.entry = some e →
        let slice := s.dev.lineSlice e r line
        let v := (Tab.find s.dev.mem.lines key).getD {}
        let room := (Tab.find s.dev.mem.lines key).isSome ∨ lineStateBytes r.n / 256 ≤ rangesSize (s.dev.scratchFree r.lot slice)
        let next := mergeTop r.fn (v.stack.length + 1) ((1, vs) :: v.stack)
        let fits := index < r.n ∧ v.next ≤ index ∧ index ≤ v.next + 8 ∧ (∀ w ∈ v.window, w.1 ≠ index)
        (¬ fits → exec i s = .next s)
        ∧ (fits → ¬ room → ∃ t, exec i s = .next t ∧ t.dev.mem = s.dev.mem ∧ t.dev.journal = s.dev.journal)
        ∧ (fits → room → s.dev.scratchOwned e = false → ∃ t x, exec i s = .next t ∧ t.dev.entry e.id = some x ∧ x.status = .eTagViolation)
        ∧ (fits → room → s.dev.scratchOwned e = true →
          (index = v.next → v.window = [] → index + 1 < r.n → ∃ t, exec i s = .next t ∧ t.dev.mem.cells = s.dev.mem.cells
            ∧ Tab.find t.dev.mem.lines key = some { next := index + 1, window := [], stack := next })
          ∧ (index ≠ v.next → (∀ w ∈ v.window, w.1 ≠ v.next) → ∃ t, exec i s = .next t ∧ t.dev.mem.cells = s.dev.mem.cells
            ∧ Tab.find t.dev.mem.lines key = some { v with window := v.window ++ [(index, vs)] })
          ∧ ∀ d2, index = v.next → v.window = [] → index + 1 = r.n → (Tab.find s.dev.mem.lines key).isSome →
            let sum := LineState.finish r.fn { next := r.n, stack := next }
            s.dev.putTensor e r.tensor (r.offset + 256 * line) (sum.flatMap (toLE 4)) = .ok d2 → ∃ t, exec i s = .next t
              ∧ t.dev.mem.cells = d2.mem.cells ∧ t.dev.tensors = d2.tensors ∧ Tab.find t.dev.mem.lines key = some { next := r.n }
              ∧ ∀ p ∈ t.dev.mem.scratch, p.line ≠ some key)

/-- PERMUTE, SHUFFLE, BITS_PACK, BITS_UNPACK, INTERLEAVE and DEINTERLEAVE on a core that runs a launch, of a form that their rules give and with
every operand in the local store: the result stands at its destination, byte for byte as the operation moves its source, and nothing else of
memory, of another core or of the local store changes; BITS_UNPACK sets its predicate. A form that no rule gives, or an operand outside the local
store, fails the launch with E_PARAM and names the core in RESULT1. On a core that runs no launch nothing happens (R130 to R133). -/
def Obligations.MovesOfElements : Prop :=
  (∀ (s : State) (core : CoreId) (p : PermuteOp) (h : ShuffleOp) (b : BitsOp) (v : InterleaveOp),
    s.dev.running = false ∨ s.kernelOf core = none → ∀ i ∈ [Instr.permute core p, .shuffle core h, .bitsPack core b, .bitsUnpack core b,
      .interleave core v, .deinterleave core v], exec i s = .next s)
  ∧ ∀ (s : State) (core : CoreId) (e : Entry), Runs s core e →
    let done (i : Instr) (a : Nat) (out : Bytes) : Prop :=
      ∃ t, exec i s = .next t ∧ t.eng.read core a out.length = out ∧ EngineFrame s t core e [(a, out.length)]
    let fails (i : Instr) : Prop :=
      ∃ t x, exec i s = .next t ∧ t.dev.entry e.id = some x ∧ x.phase = .staged ∧ x.status = .eParam ∧ x.result1 = core
    (∀ op : PermuteOp,
      let n := op.groups * 2048
      let k := if op.broadcast then 128 / op.width else n / op.width
      let fits := op.width ∈ [1, 2, 4] ∧ 1 ≤ op.groups ∧ spanOk op.src n = true ∧ spanOk op.dst n = true ∧ spanOk op.index k = true
      (fits → done (.permute core op) op.dst
        (permuteBytes op.width (s.eng.read core op.src n) (s.eng.read core op.index k) op.broadcast))
      ∧ (¬ fits → fails (.permute core op)))
    ∧ (∀ op : ShuffleOp,
      let g := 2048 / op.width
      let n := op.groups * 2048
      let at_ := match op.pattern with | .general a => a | _ => 0
      let fits := op.width ∈ [1, 2, 4, 8] ∧ 1 ≤ op.groups ∧ (∀ j, op.pattern = .exchange j → 2 ^ j < g) ∧ (op.pattern = .transpose → op.width = 4)
        ∧ spanOk op.src n = true ∧ spanOk op.dst n = true ∧ spanOk at_ op.indexBytes = true
      (fits → done (.shuffle core op) op.dst ((List.range (op.groups * g)).flatMap fun i =>
        elemAt op.width (i / g * g + op.pattern.source g (i % g) (rd (s.eng.read core at_ op.indexBytes) (2 * (i % g)) 2))
          (s.eng.read core op.src n)))
      ∧ (¬ fits → fails (.shuffle core op)))
    ∧ (∀ op : BitsOp,
      (spanOk op.addr (ceilDiv op.count 8) = true →
        done (.bitsPack core op) op.addr
          (packBits 1 ((List.range op.count).map fun i => b2n ((Tab.look [] (s.eng.core core).masks op.predicate).getD i false)))
        ∧ ∃ t, exec (.bitsUnpack core op) s = .next t ∧ EngineFrame s t core e [] ∧ Tab.look [] (t.eng.core core).masks op.predicate =
            (List.range op.count).map fun i => decide (bitElem 1 i (s.eng.read core op.addr (ceilDiv op.count 8)) = 1))
      ∧ (spanOk op.addr (ceilDiv op.count 8) = false → fails (.bitsPack core op) ∧ fails (.bitsUnpack core op)))
    ∧ ∀ op : InterleaveOp,
      let m := op.parts.length
      let len := op.width * op.count
      let fits := op.wf = true ∧ op.inside = true
      (fits → done (.interleave core op) op.whole ((List.range (m * op.count)).flatMap fun i =>
          ((s.eng.read core (op.parts.getD (i % m) 0) len).drop (i / m * op.width)).take op.width)
        ∧ ∃ t, exec (.deinterleave core op) s = .next t ∧ EngineFrame s t core e (op.parts.map fun p => (p, len))
          ∧ ((op.parts.Pairwise fun a b => a + len ≤ b ∨ b + len ≤ a) → ∀ k, k < m →
            t.eng.read core (op.parts.getD k 0) len = (List.range op.count).flatMap fun i =>
              ((s.eng.read core op.whole (len * m)).drop ((m * i + k) * op.width)).take op.width))
      ∧ (¬ fits → fails (.interleave core op) ∧ fails (.deinterleave core op))

/-- MX_UNPACK, MX_PACK, SP24_PACK and SP24_UNPACK on a core that runs a launch, of a form that their rules give, with every plane in the local store
and, for SP24_UNPACK, valid metadata: they complete, write only their planes, and leave nothing else changed. MX_UNPACK gives each element's
exact value in FP32; MX_PACK the elements and scales of the blocks; SP24_PACK the two elements of each group that rank first with their
positions, and SP24_UNPACK those elements with +0 in the other places. Metadata that is not one of the six valid nibbles fails the launch with
E_SPARSE_META, and another form or a plane outside the store with E_PARAM. On a core that runs no launch nothing happens (R73, R83, R105, R106,
R130, R133, R134). -/
def Obligations.PackingCompletes : Prop :=
  (∀ (s : State) (core : CoreId) (m : MxOp) (p : Sp24Op), s.dev.running = false ∨ s.kernelOf core = none →
    ∀ i ∈ [Instr.mxUnpack core m, .mxPack core m, .sp24Pack core p, .sp24Unpack core p], exec i s = .next s)
  ∧ ∀ (s : State) (core : CoreId) (e : Entry), Runs s core e →
    let fails (i : Instr) (st : Status) : Prop := ∃ t x, exec i s = .next t ∧ t.dev.entry e.id = some x ∧ x.phase = .staged ∧ x.status = st
    (∀ op : MxOp,
      let fits := op.wf = true ∧ op.inside = true
      let n := mxBlockBytes op.fmt op.block
      let vals := (List.range op.blocks).flatMap fun b =>
        mxBlockValues op.fmt op.block (s.eng.read core (op.plane + b * n) n) (rd (s.eng.read core (op.scales + b) 1) 0 1)
      let given := (List.range (op.block * op.blocks)).map fun i => decodeF fp32 (rd (s.eng.read core op.data (4 * (op.block * op.blocks))) (4 * i) 4)
      let out := mxPackValues op.fmt op.block given
      (fits → (∃ t, exec (.mxUnpack core op) s = .next t ∧ EngineFrame s t core e [(op.data, 4 * op.block * op.blocks)]
          ∧ t.eng.read core op.data (4 * vals.length) = vals.flatMap fun v => toLE 4 (encodeF fp32 v))
        ∧ ∃ t, exec (.mxPack core op) s = .next t ∧ EngineFrame s t core e [(op.plane, op.blocks * n), (op.scales, op.blocks)]
          ∧ t.eng.read core op.scales out.2.1.length = out.2.1
          ∧ (op.plane + op.blocks * n ≤ op.scales ∨ op.scales + op.blocks ≤ op.plane → t.eng.read core op.plane out.1.length = out.1))
      ∧ (¬ fits → fails (.mxUnpack core op) .eParam ∧ fails (.mxPack core op) .eParam))
    ∧ ∀ op : Sp24Op,
      let fits := op.wf = true ∧ op.inside = true
      let w := elemBytes op.fmt
      let sp := (op.fmt.spec).getD fp32
      let raw (g i : Nat) := rd (s.eng.read core op.data (4 * w * op.groups)) ((4 * g + i) * w) w
      let kept (g : Nat) := keepTwo ((List.range 4).map fun i => decodeF sp (raw g i))
      let nibs := (List.range op.groups).map fun g => bitElem 4 g (s.eng.read core op.meta24 (ceilDiv op.groups 2))
      let value (i : Nat) := ((s.eng.read core op.values (2 * w * op.groups)).drop (i * w)).take w
      (fits → ∃ t, exec (.sp24Pack core op) s = .next t ∧ EngineFrame s t core e [(op.values, 2 * w * op.groups), (op.meta24, ceilDiv op.groups 2)]
        ∧ (let nibbles := packBits 4 ((List.range op.groups).map fun g => (kept g).1 + 4 * (kept g).2)
          t.eng.read core op.meta24 nibbles.length = nibbles)
        ∧ (op.values + 2 * w * op.groups ≤ op.meta24 ∨ op.meta24 + ceilDiv op.groups 2 ≤ op.values →
          let pairs := (List.range op.groups).flatMap fun g => toLE w (raw g (kept g).1) ++ toLE w (raw g (kept g).2)
          t.eng.read core op.values pairs.length = pairs))
      ∧ (fits → nibs.all nibbleOk = true → ∃ t, exec (.sp24Unpack core op) s = .next t ∧ EngineFrame s t core e [(op.data, 4 * w * op.groups)]
        ∧ t.eng.read core op.data (4 * w * op.groups) = (List.range (4 * op.groups)).flatMap fun i =>
          let n := nibs.getD (i / 4) 0
          if i % 4 = n % 4 then value (2 * (i / 4)) else if i % 4 = n / 4 then value (2 * (i / 4) + 1) else zeros w)
      ∧ (fits → nibs.all nibbleOk = false → fails (.sp24Unpack core op) .eSparseMeta)
      ∧ (¬ fits → fails (.sp24Pack core op) .eParam ∧ fails (.sp24Unpack core op) .eParam)

/-- VECTOR_OPERATION of a form that the rules give, on a core that runs a launch, with every operand in the local store. Without a comparison and
reductions, with elements of the destination that do not overlap: each element that the mask lets through is what the operation gives on the
elements of its sources as they were before it, the masked ones stay, the flags join the sticky summary, and nothing else changes. A comparison
writes a predicate register alone. A reduction channel gives each group's reduction in the canonical tree to its scalar register or to the
elements of its destination. SUMMARY puts the sticky summary in a scalar register. BROADCAST_LOAD of sources in the local store changes no byte
of it, and a source with a zero stride is held after it. Another form, or an operand outside the store, fails the launch with E_PARAM. On a core
that runs no launch nothing happens (R80, R123 to R126, R130, R135, R136, R138 to R140). -/
def Obligations.VectorOperationsCompute : Prop :=
  (∀ (s : State) (core : CoreId) (op : VectorOp) (srcs : List Desc) (ext : List Nat), s.dev.running = false ∨ s.kernelOf core = none →
    exec (.vectorOperation core op) s = .next s ∧ exec (.broadcastLoad core srcs ext) s = .next s)
  ∧ ∀ (s : State) (core : CoreId) (e : Entry), Runs s core e →
    let fails (i : Instr) : Prop := ∃ t x, exec i s = .next t ∧ t.dev.entry e.id = some x ∧ x.phase = .staged ∧ x.status = .eParam
    (∀ op : VectorOp,
      let i : Instr := .vectorOperation core op
      let space := op.dst.extents
      let n := prod space
      let w := elemBytes op.dst.fmt
      let to_ (k : Nat) := (op.dst.addr (indexOf space k)).toNat
      let preds := match op.mask with | some k => Tab.look [] (s.eng.core core).masks k | none => []
      let masked (k : Nat) : Bool := op.op ≠ .select && op.mask.isSome && !preds.getD k false
      let out (k : Nat) := elemOp op.op op.dst.fmt (op.srcs.map fun x => (x.fmt, x.get s.eng core (indexOf space k))) (preds.getD k false)
      let live := (List.range n).filter fun k => !masked k
      let cmp : Prop := ∃ c, op.op = .cmp c
      let fits := op.wf = true ∧ (op.srcs.all fun x => x.inside space) = true ∧ (cmp ∨ op.dst.inside space = true)
        ∧ (op.channels.all fun ch => ch.inside space) = true
      (¬ fits → fails i)
      ∧ (fits → ¬ cmp → op.channels = [] → (∀ a b, a < n → b < n → a ≠ b → to_ a + w ≤ to_ b ∨ to_ b + w ≤ to_ a) →
        ∃ t, exec i s = .next t ∧ EngineFrame s t core e ((List.range n).map fun k => (to_ k, w))
          ∧ (∀ k, k < n → t.eng.read core (to_ k) w = if masked k then s.eng.read core (to_ k) w else toLE w (out k).bits)
          ∧ (t.eng.core core).sticky = (s.eng.core core).sticky ||| live.foldl (fun f k => f ||| (out k).flags) 0)
      ∧ (fits → cmp → op.channels = [] → ∃ t, exec i s = .next t ∧ EngineFrame s t core e []
        ∧ Tab.look [] (t.eng.core core).masks op.maskOut = (List.range n).map fun k =>
          if masked k then (Tab.look [] (s.eng.core core).masks op.maskOut).getD k false else decide ((out k).bits = 1))
      ∧ (∀ reg, fits → op.summary = some reg → ∃ t, exec i s = .next t
        ∧ Tab.look 0 (t.eng.core core).scalars reg = (t.eng.core core).sticky)
      ∧ ∀ ch : Channel, fits → op.channels = [ch] → op.summary = none →
        let stream (k : Nat) : Val := match ch.input with
          | none => (out k).value
          | some j => match op.srcs[j]? with
            | some x => decodeVal x.fmt (x.get s.eng core (indexOf space k))
            | none => .int 0
        let results := (ch.mode.groups space).map fun g => ch.fn.reduce ((g.filter fun p => !masked p.1).map fun p => (stream p.1, p.2))
        let at_ (k : Nat) := (ch.dst.addr (indexOf (ch.mode.space space) k)).toNat
        ∃ t, exec i s = .next t
          ∧ (∀ reg, ch.mode = .scalar reg → ch.fn.indexed = false → Tab.look 0 (t.eng.core core).scalars reg = (results.getD 0 (0, -1)).1)
          ∧ ((∀ reg, ch.mode ≠ .scalar reg) → ch.fn.indexed = false →
            (∀ a b, a < results.length → b < results.length → a ≠ b → at_ a + 4 ≤ at_ b ∨ at_ b + 4 ≤ at_ a) →
            ∀ k, k < results.length → t.eng.read core (at_ k) 4 = toLE 4 (results.getD k (0, -1)).1))
    ∧ ∀ (srcs : List Desc) (ext : List Nat),
      let i : Instr := .broadcastLoad core srcs ext
      let fits := spaceOk ext = true ∧ (srcs.all fun x => x.wf ext && x.inside ext) = true
      (¬ fits → fails i)
      ∧ (fits → ∃ t, exec i s = .next t ∧ EngineFrame s t core e [] ∧ (t.eng.core core).sticky = (s.eng.core core).sticky
        ∧ ∀ x size, srcs = [x] → x.footprint ext = some size →
          ∃ h ∈ (t.eng.core core).held, h.fmt = x.fmt ∧ h.low ≤ (x.span ext).1 ∧ (x.span ext).2 ≤ h.high)

/-- MATRIX_TILE of a form that the rules give, on a core that runs a launch, in the local store and with valid metadata. With an output whose rows do
not overlap, no pre-activation output, and operands whose lanes begin at a block and a group of four: the element in row i and column j is the
accumulation of row i of A and column j of B in groups, each rounded once, or of single FP64 products, after the stages of the drain, and nothing
else of memory, of another core or of the local store changes; a tap of a dense weight that the launch holds captures the rows that SUBSAMPLE and
the phase choose. With any output, device memory, tensors and the other cores stay. An MX operand whose blocks do not lie along K fails the
launch with E_MX_AXIS, metadata that is not valid with E_SPARSE_META, and another form, an operand outside the store, and FP64 with a stage or a
tap with E_PARAM. On a core that runs no launch nothing happens (R76 to R79, R95, R98, R100 to R107, R130, R146, R147). -/
def Obligations.MatrixTileComputes : Prop :=
  (∀ (s : State) (core : CoreId) (t : Tile), s.dev.running = false ∨ s.kernelOf core = none → exec (.matrixTile core t) s = .next s)
  ∧ ∀ (s : State) (core : CoreId) (e : Entry) (t : Tile), Runs s core e →
    let i : Instr := .matrixTile core t
    let fails (st : Status) : Prop := ∃ u x, exec i s = .next u ∧ u.dev.entry e.id = some x ∧ x.phase = .staged ∧ x.status = st
    let wide := t.a.fmt = .fp64
    let fits := t.wf = true ∧ t.inside = true
    let axis := (t.a.fmt.isMx = true → t.a.kStride = 1) ∧ (t.b.fmt.isMx = true → t.b.kStride = 1)
    let plain64 := wide → (t.out.fmt = .fp64 → t.drain.plain = true) ∧ t.taps = []
    let bad := (∃ r k, r < t.rows ∧ k < t.depth ∧ t.a.fed s.eng core r k = .badMeta)
      ∨ (∃ c k, c < t.cols ∧ k < t.depth ∧ t.b.fed s.eng core c k = .badMeta)
    let regular (v : OperandView) : Prop := v.laneStride % 4 = 0
      ∧ (v.fmt.isMx = true → v.laneStride % 32 = 0 ∧ (v.bitmap = none ∨ v.rowLength % 32 = 0))
    (¬ fits → fails .eParam)
    ∧ (fits → ¬ axis → fails .eMxAxis)
    ∧ (fits → axis → ¬ plain64 → fails .eParam)
    ∧ (fits → axis → plain64 → bad → fails .eSparseMeta)
    ∧ (fits → axis → plain64 → ¬ bad →
      (∃ u x, exec i s = .next u ∧ u.kernelOf core = some x ∧ x.id = e.id ∧ u.dev.mem = s.dev.mem ∧ u.dev.tensors = s.dev.tensors
        ∧ (∀ n, n ≠ core.val → u.eng.core n = s.eng.core n)
        ∧ (t.taps = [] → u.dev.solver = s.dev.solver)
        ∧ ∀ tap c, t.taps = [tap] → c.expert = false →
          (e.taps.find? fun c => c.key = tensorKeyOf e.lot (tap.factor % 2 ^ 24) * 2 ^ 16 + tap.expert) = some c →
          let fromRow := (c.kind % 2 = 0) != e.decl.swapped
          let v := if fromRow then t.a else t.b
          u.dev.solver.panels = s.dev.solver.panels ++
            ((List.range t.depth).filter fun k => c.samples (c.origin + tap.first + k)).map fun k =>
              { entry := e.id, factor := c.key, row := c.origin + tap.first + k, origin := tap.origin
                values := (List.range (if fromRow then t.rows else t.cols)).map fun l => encodeF fp32 (v.value s.eng core l k) })
      ∧ (regular t.a → regular t.b → t.out.fmt.isMx = false → t.cols ≤ t.out.stride → (t.drain.z = none ∨ t.drain.backward = true) →
        let ps (r c : Nat) := (List.range t.depth).map fun k => (t.a.value s.eng core r k, t.b.value s.eng core c k)
        let acc (r c : Nat) := if wide then decodeF fp64 (accumulate64 (ps r c)) else decodeF acc48 (accumulate (groupSize t.a t.b) (ps r c))
        let direct := t.drain.plain = true ∧ if wide then t.out.fmt = .fp64 else t.out.fmt ∈ [Format.fp32, .bf16, .fp16]
        let val (r c : Nat) := if direct then acc r c else decodeF fp32 (t.drain.run s.eng core r c (acc r c)).1
        let w := elemBytes t.out.fmt
        ∃ u, exec i s = .next u ∧ EngineFrame s u core e ((List.range t.rows).map fun r => ((t.out.at' r 0).1, t.cols * w))
          ∧ ∀ r c, r < t.rows → c < t.cols →
            u.eng.read core (t.out.at' r c).1 w = toLE w (encodeF ((t.out.fmt.spec).getD fp32) (val r c))))

/-- A command that is no core's and no shuttle unit's, moves nothing into or out of a local store, ends no kernel and takes no power away leaves
every core's engines and every byte of every local store as they are. -/
def Obligations.EnginesKeepTheirState : Prop :=
  ∀ (i : Instr) (s t : State), i.reachesEngines = false → exec i s = .next t → t.eng = s.eng

/-- The commands of the device's interfaces leave the journal, the streams, the jobs, the tensors, the shards and the solver as they are: registers
of queues and events, hosts, security, telemetry, wakes, the collector and the scrub reach no command in flight. -/
def Obligations.InterfacesKeepTheWork : Prop :=
  ∀ (i : Instr) (s t : State), i.interfaceOnly = true → exec i s = .next t →
    t.dev.journal = s.dev.journal ∧ t.dev.streams = s.dev.streams ∧ t.dev.jobs = s.dev.jobs ∧ t.dev.tensors = s.dev.tensors
      ∧ t.dev.shards = s.dev.shards ∧ t.dev.solver = s.dev.solver
end

