-- ==== Sys2Proof/Laws/Tables.lean ====
section
/-!
SUPPORT. Tables and byte memories: what a read gives after a write, and that every operation on a byte memory keeps its canonical form.
-/
namespace Sys2Proof.Machine

/-! ### Reads after writes -/

theorem Tab.look_insert {α : Type} (d v : α) (t : Table α) (k k' : Nat) :
    Tab.look d (Tab.insert v t k) k' = if k' = k then v else Tab.look d t k' := by
  induction t with
  | nil => simp [Tab.insert, Tab.look]
  | cons e t ih =>
    obtain ⟨a, b⟩ := e
    simp only [Tab.insert]
    split
    · simp [Tab.look]
    · split
      · subst_vars; simp only [Tab.look]; split <;> rfl
      · simp only [Tab.look, ih]; split <;> split <;> simp_all

theorem Tab.look_erase {α : Type} (d : α) (t : Table α) (k k' : Nat) :
    Tab.look d (Tab.erase t k) k' = if k' = k then d else Tab.look d t k' := by
  induction t with
  | nil => simp [Tab.erase, Tab.look]
  | cons e t ih =>
    obtain ⟨a, b⟩ := e
    simp only [Tab.erase] at ih
    by_cases h : a = k <;> simp only [Tab.erase, List.filter_cons, Tab.look] <;> split <;> simp_all [Tab.look]
    split <;> split <;> simp_all

/-- Reading a table after a write: the value written at its key, and what stood there at every other key. -/
@[simp] theorem Tab.look_put {α : Type} [DecidableEq α] (d v : α) (t : Table α) (k k' : Nat) :
    Tab.look d (Tab.put d v t k) k' = if k' = k then v else Tab.look d t k' := by
  unfold Tab.put
  split
  · subst_vars; exact Tab.look_erase _ _ _ _
  · exact Tab.look_insert _ _ _ _ _

@[simp] theorem Tab.find_insert {α : Type} (v : α) (t : Table α) (k k' : Nat) :
    Tab.find (Tab.insert v t k) k' = if k' = k then some v else Tab.find t k' := by
  induction t with
  | nil => simp [Tab.insert, Tab.find]
  | cons e t ih =>
    obtain ⟨a, b⟩ := e
    simp only [Tab.insert]
    split
    · simp [Tab.find]
    · split
      · subst_vars; simp only [Tab.find]; split <;> rfl
      · simp only [Tab.find, ih]; split <;> split <;> simp_all

@[simp] theorem Tab.find_erase {α : Type} (t : Table α) (k k' : Nat) :
    Tab.find (Tab.erase t k) k' = if k' = k then none else Tab.find t k' := by
  induction t with
  | nil => simp [Tab.erase, Tab.find]
  | cons e t ih =>
    obtain ⟨a, b⟩ := e
    simp only [Tab.erase] at ih
    by_cases h : a = k <;> simp only [Tab.erase, List.filter_cons, Tab.find] <;> split <;> simp_all [Tab.find]
    split <;> split <;> simp_all

/-- Reading a byte after a byte was written. -/
@[simp] theorem readByte_writeByte (m : List Host.Cell) (a b : Nat) (v : Byte) :
    readByte (writeByte m a v) b = if b = a then v else readByte m b := Tab.look_put _ _ _ _ _

/-- Reading a byte after a byte string was written. -/
theorem readByte_writeBytes (bs : Bytes) (m : List Host.Cell) (a b : Nat) :
    readByte (writeBytes m a bs) b = if a ≤ b ∧ b < a + bs.length then bs.getD (b - a) 0 else readByte m b := by
  induction bs generalizing m a with
  | nil => simp only [writeBytes, List.length_nil]; rw [if_neg]; omega
  | cons x t ih =>
    simp only [writeBytes, ih, readByte_writeByte, List.length_cons]
    by_cases h1 : b = a
    · subst h1; rw [if_neg (by omega), if_pos rfl, if_pos (by omega)]; simp
    · by_cases h2 : a + 1 ≤ b ∧ b < a + 1 + t.length
      · rw [if_pos h2, if_pos (by omega)]
        obtain ⟨n, hn⟩ : ∃ n, b - a = n + 1 := ⟨b - a - 1, by omega⟩
        rw [hn, show b - (a + 1) = n by omega]; simp
      · rw [if_neg h2, if_neg h1, if_neg (by omega)]

/-! ### The canonical form of a byte memory -/

theorem Tab.wfFrom_weaken {α : Type} [DecidableEq α] (d : α) (t : Table α) (lo : Option Nat) (k : Nat)
    (hlo : ∀ l, lo = some l → l ≤ k) (h : Tab.wfFrom d (some k) t = true) : Tab.wfFrom d lo t = true := by
  cases t with
  | nil => rfl
  | cons e t =>
    obtain ⟨a, b⟩ := e
    cases lo with
    | none => simp_all [Tab.wfFrom]
    | some l => have := hlo l rfl; simp_all [Tab.wfFrom]; omega

theorem Tab.wfFrom_filter {α : Type} [DecidableEq α] (d : α) (p : Nat × α → Bool) (t : Table α) (lo : Option Nat)
    (h : Tab.wfFrom d lo t = true) : Tab.wfFrom d lo (t.filter p) = true := by
  induction t generalizing lo with
  | nil => rfl
  | cons e t ih =>
    obtain ⟨a, b⟩ := e
    simp only [Tab.wfFrom, Bool.and_eq_true] at h
    simp only [List.filter_cons]
    split
    · simp only [Tab.wfFrom, Bool.and_eq_true]; exact ⟨h.1, ih _ h.2⟩
    · refine Tab.wfFrom_weaken d _ lo a ?_ (ih _ h.2)
      intro l hl; subst hl; have := h.1.1; simp at this; omega

theorem Tab.wfFrom_insert {α : Type} [DecidableEq α] (d v : α) (hv : v ≠ d) (t : Table α) (k : Nat) (lo : Option Nat)
    (hlo : ∀ l, lo = some l → l < k) (h : Tab.wfFrom d lo t = true) : Tab.wfFrom d lo (Tab.insert v t k) = true := by
  induction t generalizing lo with
  | nil => cases lo <;> simp_all [Tab.insert, Tab.wfFrom]
  | cons e t ih =>
    obtain ⟨a, b⟩ := e
    simp only [Tab.wfFrom, Bool.and_eq_true, decide_eq_true_eq] at h
    simp only [Tab.insert]
    split
    · cases lo <;> simp_all [Tab.wfFrom]
    · split
      · subst_vars; cases lo <;> simp_all [Tab.wfFrom]
      · simp only [Tab.wfFrom, Bool.and_eq_true, decide_eq_true_eq]
        exact ⟨h.1, ih (some a) (by intro l hl; cases hl; omega) h.2⟩

theorem Tab.wf_put {α : Type} [DecidableEq α] (d v : α) (t : Table α) (k : Nat) (h : Tab.wf d t = true) :
    Tab.wf d (Tab.put d v t k) = true := by
  unfold Tab.put
  split
  · exact Tab.wfFrom_filter d _ t none h
  · rename_i hv; exact Tab.wfFrom_insert d v hv t k none (by simp) h

/-- A byte written keeps the canonical form. -/
theorem memWf_writeByte (m : List Host.Cell) (a : Nat) (b : Byte) (h : memWf m = true) : memWf (writeByte m a b) = true :=
  Tab.wf_put _ _ _ _ h

/-- A byte string written keeps the canonical form. -/
theorem memWf_writeBytes (bs : Bytes) (m : List Host.Cell) (a : Nat) (h : memWf m = true) : memWf (writeBytes m a bs) = true := by
  induction bs generalizing m a with
  | nil => exact h
  | cons b t ih => exact ih _ _ (memWf_writeByte m a b h)

/-- A blanked range keeps the canonical form. -/
theorem memWf_blankRange (m : List Host.Cell) (a n : Nat) (h : memWf m = true) : memWf (blankRange m a n) = true :=
  Tab.wfFrom_filter _ _ m none h

/-- A copied range keeps the canonical form. -/
theorem memWf_copyRange (m : List Host.Cell) (a n b : Nat) (h : memWf m = true) : memWf (copyRange m a n b) = true := by
  unfold copyRange
  generalize m.filter _ = l
  induction l with
  | nil => exact h
  | cons c t ih => exact memWf_writeByte _ _ _ ih

end Sys2Proof.Machine
end

