-- ==== Sys2Proof/Laws/State.lean ====
section
/-!
SUPPORT. What each named update of the device leaves as it is, field by field, and what reading gives after it.
-/
namespace Sys2Proof.Machine

/-- A fold whose steps keep a projection keeps it. -/
theorem foldl_keeps {α β γ : Type} (g : β → γ) (f : β → α → β) (h : ∀ b a, g (f b a) = g b) (l : List α) (b : β) :
    g (l.foldl f b) = g b := by
  induction l generalizing b with
  | nil => rfl
  | cons a t ih => rw [List.foldl_cons, ih, h]

/-! ### Frames -/

@[simp] theorem Device.setQueue_time (d : Device) (lot q : Nat) (v : SubQueue) : (d.setQueue lot q v).time = d.time := rfl
@[simp] theorem Device.setQueue_lastFetch (d : Device) (lot q : Nat) (v : SubQueue) : (d.setQueue lot q v).lastFetch = d.lastFetch := rfl
@[simp] theorem Device.setQueue_streams (d : Device) (lot q : Nat) (v : SubQueue) : (d.setQueue lot q v).streams = d.streams := rfl
@[simp] theorem Device.setQueue_journal (d : Device) (lot q : Nat) (v : SubQueue) : (d.setQueue lot q v).journal = d.journal := rfl
@[simp] theorem Device.setQueue_tensors (d : Device) (lot q : Nat) (v : SubQueue) : (d.setQueue lot q v).tensors = d.tensors := rfl
@[simp] theorem Device.setQueue_gens (d : Device) (lot q : Nat) (v : SubQueue) : (d.setQueue lot q v).gens = d.gens := rfl
@[simp] theorem Device.setQueue_shards (d : Device) (lot q : Nat) (v : SubQueue) : (d.setQueue lot q v).shards = d.shards := rfl
@[simp] theorem Device.setQueue_jobs (d : Device) (lot q : Nat) (v : SubQueue) : (d.setQueue lot q v).jobs = d.jobs := rfl
@[simp] theorem Device.setQueue_arrivals (d : Device) (lot q : Nat) (v : SubQueue) : (d.setQueue lot q v).arrivals = d.arrivals := rfl
@[simp] theorem Device.setQueue_srcRefs (d : Device) (lot q : Nat) (v : SubQueue) : (d.setQueue lot q v).srcRefs = d.srcRefs := rfl
@[simp] theorem Device.setQueue_mirrors (d : Device) (lot q : Nat) (v : SubQueue) : (d.setQueue lot q v).mirrors = d.mirrors := rfl
@[simp] theorem Device.setQueue_mirrorStaged (d : Device) (lot q : Nat) (v : SubQueue) : (d.setQueue lot q v).mirrorStaged = d.mirrorStaged := rfl
@[simp] theorem Device.setQueue_mirrorFrozen (d : Device) (lot q : Nat) (v : SubQueue) : (d.setQueue lot q v).mirrorFrozen = d.mirrorFrozen := rfl
@[simp] theorem Device.setQueue_twinGrads (d : Device) (lot q : Nat) (v : SubQueue) : (d.setQueue lot q v).twinGrads = d.twinGrads := rfl
@[simp] theorem Device.setQueue_regathers (d : Device) (lot q : Nat) (v : SubQueue) : (d.setQueue lot q v).regathers = d.regathers := rfl
@[simp] theorem Device.setQueue_solver (d : Device) (lot q : Nat) (v : SubQueue) : (d.setQueue lot q v).solver = d.solver := rfl
@[simp] theorem Device.setQueue_dma (d : Device) (lot q : Nat) (v : SubQueue) : (d.setQueue lot q v).dma = d.dma := rfl
@[simp] theorem Device.setQueue_events (d : Device) (lot q : Nat) (v : SubQueue) : (d.setQueue lot q v).events = d.events := rfl
@[simp] theorem Device.setQueue_power (d : Device) (lot q : Nat) (v : SubQueue) : (d.setQueue lot q v).power = d.power := rfl
@[simp] theorem Device.setQueue_hosts (d : Device) (lot q : Nat) (v : SubQueue) : (d.setQueue lot q v).hosts = d.hosts := rfl
@[simp] theorem Device.setQueue_links (d : Device) (lot q : Nat) (v : SubQueue) : (d.setQueue lot q v).links = d.links := rfl
@[simp] theorem Device.setQueue_mem (d : Device) (lot q : Nat) (v : SubQueue) : (d.setQueue lot q v).mem = d.mem := rfl
@[simp] theorem Device.setQueue_observe (d : Device) (lot q : Nat) (v : SubQueue) : (d.setQueue lot q v).observe = d.observe := rfl
@[simp] theorem Device.setQueue_ctr (d : Device) (lot q : Nat) (v : SubQueue) : (d.setQueue lot q v).ctr = d.ctr := rfl
@[simp] theorem Device.setStream_time (d : Device) (i : Nat) (v : Stream) : (d.setStream i v).time = d.time := rfl
@[simp] theorem Device.setStream_queues (d : Device) (i : Nat) (v : Stream) : (d.setStream i v).queues = d.queues := rfl
@[simp] theorem Device.setStream_lastFetch (d : Device) (i : Nat) (v : Stream) : (d.setStream i v).lastFetch = d.lastFetch := rfl
@[simp] theorem Device.setStream_journal (d : Device) (i : Nat) (v : Stream) : (d.setStream i v).journal = d.journal := rfl
@[simp] theorem Device.setStream_tensors (d : Device) (i : Nat) (v : Stream) : (d.setStream i v).tensors = d.tensors := rfl
@[simp] theorem Device.setStream_gens (d : Device) (i : Nat) (v : Stream) : (d.setStream i v).gens = d.gens := rfl
@[simp] theorem Device.setStream_shards (d : Device) (i : Nat) (v : Stream) : (d.setStream i v).shards = d.shards := rfl
@[simp] theorem Device.setStream_jobs (d : Device) (i : Nat) (v : Stream) : (d.setStream i v).jobs = d.jobs := rfl
@[simp] theorem Device.setStream_arrivals (d : Device) (i : Nat) (v : Stream) : (d.setStream i v).arrivals = d.arrivals := rfl
@[simp] theorem Device.setStream_srcRefs (d : Device) (i : Nat) (v : Stream) : (d.setStream i v).srcRefs = d.srcRefs := rfl
@[simp] theorem Device.setStream_mirrors (d : Device) (i : Nat) (v : Stream) : (d.setStream i v).mirrors = d.mirrors := rfl
@[simp] theorem Device.setStream_mirrorStaged (d : Device) (i : Nat) (v : Stream) : (d.setStream i v).mirrorStaged = d.mirrorStaged := rfl
@[simp] theorem Device.setStream_mirrorFrozen (d : Device) (i : Nat) (v : Stream) : (d.setStream i v).mirrorFrozen = d.mirrorFrozen := rfl
@[simp] theorem Device.setStream_twinGrads (d : Device) (i : Nat) (v : Stream) : (d.setStream i v).twinGrads = d.twinGrads := rfl
@[simp] theorem Device.setStream_regathers (d : Device) (i : Nat) (v : Stream) : (d.setStream i v).regathers = d.regathers := rfl
@[simp] theorem Device.setStream_solver (d : Device) (i : Nat) (v : Stream) : (d.setStream i v).solver = d.solver := rfl
@[simp] theorem Device.setStream_dma (d : Device) (i : Nat) (v : Stream) : (d.setStream i v).dma = d.dma := rfl
@[simp] theorem Device.setStream_events (d : Device) (i : Nat) (v : Stream) : (d.setStream i v).events = d.events := rfl
@[simp] theorem Device.setStream_power (d : Device) (i : Nat) (v : Stream) : (d.setStream i v).power = d.power := rfl
@[simp] theorem Device.setStream_hosts (d : Device) (i : Nat) (v : Stream) : (d.setStream i v).hosts = d.hosts := rfl
@[simp] theorem Device.setStream_links (d : Device) (i : Nat) (v : Stream) : (d.setStream i v).links = d.links := rfl
@[simp] theorem Device.setStream_mem (d : Device) (i : Nat) (v : Stream) : (d.setStream i v).mem = d.mem := rfl
@[simp] theorem Device.setStream_observe (d : Device) (i : Nat) (v : Stream) : (d.setStream i v).observe = d.observe := rfl
@[simp] theorem Device.setStream_ctr (d : Device) (i : Nat) (v : Stream) : (d.setStream i v).ctr = d.ctr := rfl
@[simp] theorem Device.setJob_time (d : Device) (j : Nat) (v : Job) : (d.setJob j v).time = d.time := rfl
@[simp] theorem Device.setJob_queues (d : Device) (j : Nat) (v : Job) : (d.setJob j v).queues = d.queues := rfl
@[simp] theorem Device.setJob_lastFetch (d : Device) (j : Nat) (v : Job) : (d.setJob j v).lastFetch = d.lastFetch := rfl
@[simp] theorem Device.setJob_streams (d : Device) (j : Nat) (v : Job) : (d.setJob j v).streams = d.streams := rfl
@[simp] theorem Device.setJob_journal (d : Device) (j : Nat) (v : Job) : (d.setJob j v).journal = d.journal := rfl
@[simp] theorem Device.setJob_tensors (d : Device) (j : Nat) (v : Job) : (d.setJob j v).tensors = d.tensors := rfl
@[simp] theorem Device.setJob_gens (d : Device) (j : Nat) (v : Job) : (d.setJob j v).gens = d.gens := rfl
@[simp] theorem Device.setJob_shards (d : Device) (j : Nat) (v : Job) : (d.setJob j v).shards = d.shards := rfl
@[simp] theorem Device.setJob_arrivals (d : Device) (j : Nat) (v : Job) : (d.setJob j v).arrivals = d.arrivals := rfl
@[simp] theorem Device.setJob_srcRefs (d : Device) (j : Nat) (v : Job) : (d.setJob j v).srcRefs = d.srcRefs := rfl
@[simp] theorem Device.setJob_mirrors (d : Device) (j : Nat) (v : Job) : (d.setJob j v).mirrors = d.mirrors := rfl
@[simp] theorem Device.setJob_mirrorStaged (d : Device) (j : Nat) (v : Job) : (d.setJob j v).mirrorStaged = d.mirrorStaged := rfl
@[simp] theorem Device.setJob_mirrorFrozen (d : Device) (j : Nat) (v : Job) : (d.setJob j v).mirrorFrozen = d.mirrorFrozen := rfl
@[simp] theorem Device.setJob_twinGrads (d : Device) (j : Nat) (v : Job) : (d.setJob j v).twinGrads = d.twinGrads := rfl
@[simp] theorem Device.setJob_regathers (d : Device) (j : Nat) (v : Job) : (d.setJob j v).regathers = d.regathers := rfl
@[simp] theorem Device.setJob_solver (d : Device) (j : Nat) (v : Job) : (d.setJob j v).solver = d.solver := rfl
@[simp] theorem Device.setJob_dma (d : Device) (j : Nat) (v : Job) : (d.setJob j v).dma = d.dma := rfl
@[simp] theorem Device.setJob_events (d : Device) (j : Nat) (v : Job) : (d.setJob j v).events = d.events := rfl
@[simp] theorem Device.setJob_power (d : Device) (j : Nat) (v : Job) : (d.setJob j v).power = d.power := rfl
@[simp] theorem Device.setJob_hosts (d : Device) (j : Nat) (v : Job) : (d.setJob j v).hosts = d.hosts := rfl
@[simp] theorem Device.setJob_links (d : Device) (j : Nat) (v : Job) : (d.setJob j v).links = d.links := rfl
@[simp] theorem Device.setJob_mem (d : Device) (j : Nat) (v : Job) : (d.setJob j v).mem = d.mem := rfl
@[simp] theorem Device.setJob_observe (d : Device) (j : Nat) (v : Job) : (d.setJob j v).observe = d.observe := rfl
@[simp] theorem Device.setJob_ctr (d : Device) (j : Nat) (v : Job) : (d.setJob j v).ctr = d.ctr := rfl
@[simp] theorem Device.setLotState_time (d : Device) (tag : Nat) (v : LotState) : (d.setLotState tag v).time = d.time := rfl
@[simp] theorem Device.setLotState_queues (d : Device) (tag : Nat) (v : LotState) : (d.setLotState tag v).queues = d.queues := rfl
@[simp] theorem Device.setLotState_lastFetch (d : Device) (tag : Nat) (v : LotState) : (d.setLotState tag v).lastFetch = d.lastFetch := rfl
@[simp] theorem Device.setLotState_streams (d : Device) (tag : Nat) (v : LotState) : (d.setLotState tag v).streams = d.streams := rfl
@[simp] theorem Device.setLotState_journal (d : Device) (tag : Nat) (v : LotState) : (d.setLotState tag v).journal = d.journal := rfl
@[simp] theorem Device.setLotState_tensors (d : Device) (tag : Nat) (v : LotState) : (d.setLotState tag v).tensors = d.tensors := rfl
@[simp] theorem Device.setLotState_gens (d : Device) (tag : Nat) (v : LotState) : (d.setLotState tag v).gens = d.gens := rfl
@[simp] theorem Device.setLotState_shards (d : Device) (tag : Nat) (v : LotState) : (d.setLotState tag v).shards = d.shards := rfl
@[simp] theorem Device.setLotState_jobs (d : Device) (tag : Nat) (v : LotState) : (d.setLotState tag v).jobs = d.jobs := rfl
@[simp] theorem Device.setLotState_arrivals (d : Device) (tag : Nat) (v : LotState) : (d.setLotState tag v).arrivals = d.arrivals := rfl
@[simp] theorem Device.setLotState_srcRefs (d : Device) (tag : Nat) (v : LotState) : (d.setLotState tag v).srcRefs = d.srcRefs := rfl
@[simp] theorem Device.setLotState_mirrors (d : Device) (tag : Nat) (v : LotState) : (d.setLotState tag v).mirrors = d.mirrors := rfl
@[simp] theorem Device.setLotState_mirrorStaged (d : Device) (tag : Nat) (v : LotState) : (d.setLotState tag v).mirrorStaged = d.mirrorStaged := rfl
@[simp] theorem Device.setLotState_mirrorFrozen (d : Device) (tag : Nat) (v : LotState) : (d.setLotState tag v).mirrorFrozen = d.mirrorFrozen := rfl
@[simp] theorem Device.setLotState_twinGrads (d : Device) (tag : Nat) (v : LotState) : (d.setLotState tag v).twinGrads = d.twinGrads := rfl
@[simp] theorem Device.setLotState_regathers (d : Device) (tag : Nat) (v : LotState) : (d.setLotState tag v).regathers = d.regathers := rfl
@[simp] theorem Device.setLotState_solver (d : Device) (tag : Nat) (v : LotState) : (d.setLotState tag v).solver = d.solver := rfl
@[simp] theorem Device.setLotState_dma (d : Device) (tag : Nat) (v : LotState) : (d.setLotState tag v).dma = d.dma := rfl
@[simp] theorem Device.setLotState_events (d : Device) (tag : Nat) (v : LotState) : (d.setLotState tag v).events = d.events := rfl
@[simp] theorem Device.setLotState_power (d : Device) (tag : Nat) (v : LotState) : (d.setLotState tag v).power = d.power := rfl
@[simp] theorem Device.setLotState_links (d : Device) (tag : Nat) (v : LotState) : (d.setLotState tag v).links = d.links := rfl
@[simp] theorem Device.setLotState_mem (d : Device) (tag : Nat) (v : LotState) : (d.setLotState tag v).mem = d.mem := rfl
@[simp] theorem Device.setLotState_observe (d : Device) (tag : Nat) (v : LotState) : (d.setLotState tag v).observe = d.observe := rfl
@[simp] theorem Device.setLotState_ctr (d : Device) (tag : Nat) (v : LotState) : (d.setLotState tag v).ctr = d.ctr := rfl
@[simp] theorem Device.setAttachment_time (d : Device) (a : Nat) (v : Attachment) : (d.setAttachment a v).time = d.time := rfl
@[simp] theorem Device.setAttachment_queues (d : Device) (a : Nat) (v : Attachment) : (d.setAttachment a v).queues = d.queues := rfl
@[simp] theorem Device.setAttachment_lastFetch (d : Device) (a : Nat) (v : Attachment) : (d.setAttachment a v).lastFetch = d.lastFetch := rfl
@[simp] theorem Device.setAttachment_streams (d : Device) (a : Nat) (v : Attachment) : (d.setAttachment a v).streams = d.streams := rfl
@[simp] theorem Device.setAttachment_journal (d : Device) (a : Nat) (v : Attachment) : (d.setAttachment a v).journal = d.journal := rfl
@[simp] theorem Device.setAttachment_tensors (d : Device) (a : Nat) (v : Attachment) : (d.setAttachment a v).tensors = d.tensors := rfl
@[simp] theorem Device.setAttachment_gens (d : Device) (a : Nat) (v : Attachment) : (d.setAttachment a v).gens = d.gens := rfl
@[simp] theorem Device.setAttachment_shards (d : Device) (a : Nat) (v : Attachment) : (d.setAttachment a v).shards = d.shards := rfl
@[simp] theorem Device.setAttachment_jobs (d : Device) (a : Nat) (v : Attachment) : (d.setAttachment a v).jobs = d.jobs := rfl
@[simp] theorem Device.setAttachment_arrivals (d : Device) (a : Nat) (v : Attachment) : (d.setAttachment a v).arrivals = d.arrivals := rfl
@[simp] theorem Device.setAttachment_srcRefs (d : Device) (a : Nat) (v : Attachment) : (d.setAttachment a v).srcRefs = d.srcRefs := rfl
@[simp] theorem Device.setAttachment_mirrors (d : Device) (a : Nat) (v : Attachment) : (d.setAttachment a v).mirrors = d.mirrors := rfl
@[simp] theorem Device.setAttachment_mirrorStaged (d : Device) (a : Nat) (v : Attachment) : (d.setAttachment a v).mirrorStaged = d.mirrorStaged := rfl
@[simp] theorem Device.setAttachment_mirrorFrozen (d : Device) (a : Nat) (v : Attachment) : (d.setAttachment a v).mirrorFrozen = d.mirrorFrozen := rfl
@[simp] theorem Device.setAttachment_twinGrads (d : Device) (a : Nat) (v : Attachment) : (d.setAttachment a v).twinGrads = d.twinGrads := rfl
@[simp] theorem Device.setAttachment_regathers (d : Device) (a : Nat) (v : Attachment) : (d.setAttachment a v).regathers = d.regathers := rfl
@[simp] theorem Device.setAttachment_solver (d : Device) (a : Nat) (v : Attachment) : (d.setAttachment a v).solver = d.solver := rfl
@[simp] theorem Device.setAttachment_dma (d : Device) (a : Nat) (v : Attachment) : (d.setAttachment a v).dma = d.dma := rfl
@[simp] theorem Device.setAttachment_events (d : Device) (a : Nat) (v : Attachment) : (d.setAttachment a v).events = d.events := rfl
@[simp] theorem Device.setAttachment_power (d : Device) (a : Nat) (v : Attachment) : (d.setAttachment a v).power = d.power := rfl
@[simp] theorem Device.setAttachment_links (d : Device) (a : Nat) (v : Attachment) : (d.setAttachment a v).links = d.links := rfl
@[simp] theorem Device.setAttachment_mem (d : Device) (a : Nat) (v : Attachment) : (d.setAttachment a v).mem = d.mem := rfl
@[simp] theorem Device.setAttachment_observe (d : Device) (a : Nat) (v : Attachment) : (d.setAttachment a v).observe = d.observe := rfl
@[simp] theorem Device.setAttachment_ctr (d : Device) (a : Nat) (v : Attachment) : (d.setAttachment a v).ctr = d.ctr := rfl
@[simp] theorem Device.setPort_time (d : Device) (p : Nat) (v : Port) : (d.setPort p v).time = d.time := rfl
@[simp] theorem Device.setPort_queues (d : Device) (p : Nat) (v : Port) : (d.setPort p v).queues = d.queues := rfl
@[simp] theorem Device.setPort_lastFetch (d : Device) (p : Nat) (v : Port) : (d.setPort p v).lastFetch = d.lastFetch := rfl
@[simp] theorem Device.setPort_streams (d : Device) (p : Nat) (v : Port) : (d.setPort p v).streams = d.streams := rfl
@[simp] theorem Device.setPort_journal (d : Device) (p : Nat) (v : Port) : (d.setPort p v).journal = d.journal := rfl
@[simp] theorem Device.setPort_tensors (d : Device) (p : Nat) (v : Port) : (d.setPort p v).tensors = d.tensors := rfl
@[simp] theorem Device.setPort_gens (d : Device) (p : Nat) (v : Port) : (d.setPort p v).gens = d.gens := rfl
@[simp] theorem Device.setPort_shards (d : Device) (p : Nat) (v : Port) : (d.setPort p v).shards = d.shards := rfl
@[simp] theorem Device.setPort_jobs (d : Device) (p : Nat) (v : Port) : (d.setPort p v).jobs = d.jobs := rfl
@[simp] theorem Device.setPort_arrivals (d : Device) (p : Nat) (v : Port) : (d.setPort p v).arrivals = d.arrivals := rfl
@[simp] theorem Device.setPort_srcRefs (d : Device) (p : Nat) (v : Port) : (d.setPort p v).srcRefs = d.srcRefs := rfl
@[simp] theorem Device.setPort_mirrors (d : Device) (p : Nat) (v : Port) : (d.setPort p v).mirrors = d.mirrors := rfl
@[simp] theorem Device.setPort_mirrorStaged (d : Device) (p : Nat) (v : Port) : (d.setPort p v).mirrorStaged = d.mirrorStaged := rfl
@[simp] theorem Device.setPort_mirrorFrozen (d : Device) (p : Nat) (v : Port) : (d.setPort p v).mirrorFrozen = d.mirrorFrozen := rfl
@[simp] theorem Device.setPort_twinGrads (d : Device) (p : Nat) (v : Port) : (d.setPort p v).twinGrads = d.twinGrads := rfl
@[simp] theorem Device.setPort_regathers (d : Device) (p : Nat) (v : Port) : (d.setPort p v).regathers = d.regathers := rfl
@[simp] theorem Device.setPort_solver (d : Device) (p : Nat) (v : Port) : (d.setPort p v).solver = d.solver := rfl
@[simp] theorem Device.setPort_dma (d : Device) (p : Nat) (v : Port) : (d.setPort p v).dma = d.dma := rfl
@[simp] theorem Device.setPort_events (d : Device) (p : Nat) (v : Port) : (d.setPort p v).events = d.events := rfl
@[simp] theorem Device.setPort_power (d : Device) (p : Nat) (v : Port) : (d.setPort p v).power = d.power := rfl
@[simp] theorem Device.setPort_hosts (d : Device) (p : Nat) (v : Port) : (d.setPort p v).hosts = d.hosts := rfl
@[simp] theorem Device.setPort_mem (d : Device) (p : Nat) (v : Port) : (d.setPort p v).mem = d.mem := rfl
@[simp] theorem Device.setPort_observe (d : Device) (p : Nat) (v : Port) : (d.setPort p v).observe = d.observe := rfl
@[simp] theorem Device.setPort_ctr (d : Device) (p : Nat) (v : Port) : (d.setPort p v).ctr = d.ctr := rfl
@[simp] theorem Device.modPort_time (d : Device) (p : Nat) (f : Port → Port) : (d.modPort p f).time = d.time := rfl
@[simp] theorem Device.modPort_queues (d : Device) (p : Nat) (f : Port → Port) : (d.modPort p f).queues = d.queues := rfl
@[simp] theorem Device.modPort_lastFetch (d : Device) (p : Nat) (f : Port → Port) : (d.modPort p f).lastFetch = d.lastFetch := rfl
@[simp] theorem Device.modPort_streams (d : Device) (p : Nat) (f : Port → Port) : (d.modPort p f).streams = d.streams := rfl
@[simp] theorem Device.modPort_journal (d : Device) (p : Nat) (f : Port → Port) : (d.modPort p f).journal = d.journal := rfl
@[simp] theorem Device.modPort_tensors (d : Device) (p : Nat) (f : Port → Port) : (d.modPort p f).tensors = d.tensors := rfl
@[simp] theorem Device.modPort_gens (d : Device) (p : Nat) (f : Port → Port) : (d.modPort p f).gens = d.gens := rfl
@[simp] theorem Device.modPort_shards (d : Device) (p : Nat) (f : Port → Port) : (d.modPort p f).shards = d.shards := rfl
@[simp] theorem Device.modPort_jobs (d : Device) (p : Nat) (f : Port → Port) : (d.modPort p f).jobs = d.jobs := rfl
@[simp] theorem Device.modPort_arrivals (d : Device) (p : Nat) (f : Port → Port) : (d.modPort p f).arrivals = d.arrivals := rfl
@[simp] theorem Device.modPort_srcRefs (d : Device) (p : Nat) (f : Port → Port) : (d.modPort p f).srcRefs = d.srcRefs := rfl
@[simp] theorem Device.modPort_mirrors (d : Device) (p : Nat) (f : Port → Port) : (d.modPort p f).mirrors = d.mirrors := rfl
@[simp] theorem Device.modPort_mirrorStaged (d : Device) (p : Nat) (f : Port → Port) : (d.modPort p f).mirrorStaged = d.mirrorStaged := rfl
@[simp] theorem Device.modPort_mirrorFrozen (d : Device) (p : Nat) (f : Port → Port) : (d.modPort p f).mirrorFrozen = d.mirrorFrozen := rfl
@[simp] theorem Device.modPort_twinGrads (d : Device) (p : Nat) (f : Port → Port) : (d.modPort p f).twinGrads = d.twinGrads := rfl
@[simp] theorem Device.modPort_regathers (d : Device) (p : Nat) (f : Port → Port) : (d.modPort p f).regathers = d.regathers := rfl
@[simp] theorem Device.modPort_solver (d : Device) (p : Nat) (f : Port → Port) : (d.modPort p f).solver = d.solver := rfl
@[simp] theorem Device.modPort_dma (d : Device) (p : Nat) (f : Port → Port) : (d.modPort p f).dma = d.dma := rfl
@[simp] theorem Device.modPort_events (d : Device) (p : Nat) (f : Port → Port) : (d.modPort p f).events = d.events := rfl
@[simp] theorem Device.modPort_power (d : Device) (p : Nat) (f : Port → Port) : (d.modPort p f).power = d.power := rfl
@[simp] theorem Device.modPort_hosts (d : Device) (p : Nat) (f : Port → Port) : (d.modPort p f).hosts = d.hosts := rfl
@[simp] theorem Device.modPort_mem (d : Device) (p : Nat) (f : Port → Port) : (d.modPort p f).mem = d.mem := rfl
@[simp] theorem Device.modPort_observe (d : Device) (p : Nat) (f : Port → Port) : (d.modPort p f).observe = d.observe := rfl
@[simp] theorem Device.modPort_ctr (d : Device) (p : Nat) (f : Port → Port) : (d.modPort p f).ctr = d.ctr := rfl
@[simp] theorem Device.setChannel_time (d : Device) (x : Nat) (v : DmaChannel) : (d.setChannel x v).time = d.time := rfl
@[simp] theorem Device.setChannel_queues (d : Device) (x : Nat) (v : DmaChannel) : (d.setChannel x v).queues = d.queues := rfl
@[simp] theorem Device.setChannel_lastFetch (d : Device) (x : Nat) (v : DmaChannel) : (d.setChannel x v).lastFetch = d.lastFetch := rfl
@[simp] theorem Device.setChannel_streams (d : Device) (x : Nat) (v : DmaChannel) : (d.setChannel x v).streams = d.streams := rfl
@[simp] theorem Device.setChannel_journal (d : Device) (x : Nat) (v : DmaChannel) : (d.setChannel x v).journal = d.journal := rfl
@[simp] theorem Device.setChannel_tensors (d : Device) (x : Nat) (v : DmaChannel) : (d.setChannel x v).tensors = d.tensors := rfl
@[simp] theorem Device.setChannel_gens (d : Device) (x : Nat) (v : DmaChannel) : (d.setChannel x v).gens = d.gens := rfl
@[simp] theorem Device.setChannel_shards (d : Device) (x : Nat) (v : DmaChannel) : (d.setChannel x v).shards = d.shards := rfl
@[simp] theorem Device.setChannel_jobs (d : Device) (x : Nat) (v : DmaChannel) : (d.setChannel x v).jobs = d.jobs := rfl
@[simp] theorem Device.setChannel_arrivals (d : Device) (x : Nat) (v : DmaChannel) : (d.setChannel x v).arrivals = d.arrivals := rfl
@[simp] theorem Device.setChannel_srcRefs (d : Device) (x : Nat) (v : DmaChannel) : (d.setChannel x v).srcRefs = d.srcRefs := rfl
@[simp] theorem Device.setChannel_mirrors (d : Device) (x : Nat) (v : DmaChannel) : (d.setChannel x v).mirrors = d.mirrors := rfl
@[simp] theorem Device.setChannel_mirrorStaged (d : Device) (x : Nat) (v : DmaChannel) : (d.setChannel x v).mirrorStaged = d.mirrorStaged := rfl
@[simp] theorem Device.setChannel_mirrorFrozen (d : Device) (x : Nat) (v : DmaChannel) : (d.setChannel x v).mirrorFrozen = d.mirrorFrozen := rfl
@[simp] theorem Device.setChannel_twinGrads (d : Device) (x : Nat) (v : DmaChannel) : (d.setChannel x v).twinGrads = d.twinGrads := rfl
@[simp] theorem Device.setChannel_regathers (d : Device) (x : Nat) (v : DmaChannel) : (d.setChannel x v).regathers = d.regathers := rfl
@[simp] theorem Device.setChannel_solver (d : Device) (x : Nat) (v : DmaChannel) : (d.setChannel x v).solver = d.solver := rfl
@[simp] theorem Device.setChannel_events (d : Device) (x : Nat) (v : DmaChannel) : (d.setChannel x v).events = d.events := rfl
@[simp] theorem Device.setChannel_power (d : Device) (x : Nat) (v : DmaChannel) : (d.setChannel x v).power = d.power := rfl
@[simp] theorem Device.setChannel_hosts (d : Device) (x : Nat) (v : DmaChannel) : (d.setChannel x v).hosts = d.hosts := rfl
@[simp] theorem Device.setChannel_links (d : Device) (x : Nat) (v : DmaChannel) : (d.setChannel x v).links = d.links := rfl
@[simp] theorem Device.setChannel_mem (d : Device) (x : Nat) (v : DmaChannel) : (d.setChannel x v).mem = d.mem := rfl
@[simp] theorem Device.setChannel_observe (d : Device) (x : Nat) (v : DmaChannel) : (d.setChannel x v).observe = d.observe := rfl
@[simp] theorem Device.setChannel_ctr (d : Device) (x : Nat) (v : DmaChannel) : (d.setChannel x v).ctr = d.ctr := rfl
@[simp] theorem Device.setUnit_time (d : Device) (c : Nat) (v : SolverUnit) : (d.setUnit c v).time = d.time := rfl
@[simp] theorem Device.setUnit_queues (d : Device) (c : Nat) (v : SolverUnit) : (d.setUnit c v).queues = d.queues := rfl
@[simp] theorem Device.setUnit_lastFetch (d : Device) (c : Nat) (v : SolverUnit) : (d.setUnit c v).lastFetch = d.lastFetch := rfl
@[simp] theorem Device.setUnit_streams (d : Device) (c : Nat) (v : SolverUnit) : (d.setUnit c v).streams = d.streams := rfl
@[simp] theorem Device.setUnit_journal (d : Device) (c : Nat) (v : SolverUnit) : (d.setUnit c v).journal = d.journal := rfl
@[simp] theorem Device.setUnit_tensors (d : Device) (c : Nat) (v : SolverUnit) : (d.setUnit c v).tensors = d.tensors := rfl
@[simp] theorem Device.setUnit_gens (d : Device) (c : Nat) (v : SolverUnit) : (d.setUnit c v).gens = d.gens := rfl
@[simp] theorem Device.setUnit_shards (d : Device) (c : Nat) (v : SolverUnit) : (d.setUnit c v).shards = d.shards := rfl
@[simp] theorem Device.setUnit_jobs (d : Device) (c : Nat) (v : SolverUnit) : (d.setUnit c v).jobs = d.jobs := rfl
@[simp] theorem Device.setUnit_arrivals (d : Device) (c : Nat) (v : SolverUnit) : (d.setUnit c v).arrivals = d.arrivals := rfl
@[simp] theorem Device.setUnit_srcRefs (d : Device) (c : Nat) (v : SolverUnit) : (d.setUnit c v).srcRefs = d.srcRefs := rfl
@[simp] theorem Device.setUnit_mirrors (d : Device) (c : Nat) (v : SolverUnit) : (d.setUnit c v).mirrors = d.mirrors := rfl
@[simp] theorem Device.setUnit_mirrorStaged (d : Device) (c : Nat) (v : SolverUnit) : (d.setUnit c v).mirrorStaged = d.mirrorStaged := rfl
@[simp] theorem Device.setUnit_mirrorFrozen (d : Device) (c : Nat) (v : SolverUnit) : (d.setUnit c v).mirrorFrozen = d.mirrorFrozen := rfl
@[simp] theorem Device.setUnit_twinGrads (d : Device) (c : Nat) (v : SolverUnit) : (d.setUnit c v).twinGrads = d.twinGrads := rfl
@[simp] theorem Device.setUnit_regathers (d : Device) (c : Nat) (v : SolverUnit) : (d.setUnit c v).regathers = d.regathers := rfl
@[simp] theorem Device.setUnit_dma (d : Device) (c : Nat) (v : SolverUnit) : (d.setUnit c v).dma = d.dma := rfl
@[simp] theorem Device.setUnit_events (d : Device) (c : Nat) (v : SolverUnit) : (d.setUnit c v).events = d.events := rfl
@[simp] theorem Device.setUnit_power (d : Device) (c : Nat) (v : SolverUnit) : (d.setUnit c v).power = d.power := rfl
@[simp] theorem Device.setUnit_hosts (d : Device) (c : Nat) (v : SolverUnit) : (d.setUnit c v).hosts = d.hosts := rfl
@[simp] theorem Device.setUnit_links (d : Device) (c : Nat) (v : SolverUnit) : (d.setUnit c v).links = d.links := rfl
@[simp] theorem Device.setUnit_mem (d : Device) (c : Nat) (v : SolverUnit) : (d.setUnit c v).mem = d.mem := rfl
@[simp] theorem Device.setUnit_observe (d : Device) (c : Nat) (v : SolverUnit) : (d.setUnit c v).observe = d.observe := rfl
@[simp] theorem Device.setUnit_ctr (d : Device) (c : Nat) (v : SolverUnit) : (d.setUnit c v).ctr = d.ctr := rfl
@[simp] theorem Device.modCounts_time (d : Device) (tag : Nat) (f : SolveCounts → SolveCounts) : (d.modCounts tag f).time = d.time := rfl
@[simp] theorem Device.modCounts_queues (d : Device) (tag : Nat) (f : SolveCounts → SolveCounts) : (d.modCounts tag f).queues = d.queues := rfl
@[simp] theorem Device.modCounts_lastFetch (d : Device) (tag : Nat) (f : SolveCounts → SolveCounts) : (d.modCounts tag f).lastFetch = d.lastFetch := rfl
@[simp] theorem Device.modCounts_streams (d : Device) (tag : Nat) (f : SolveCounts → SolveCounts) : (d.modCounts tag f).streams = d.streams := rfl
@[simp] theorem Device.modCounts_journal (d : Device) (tag : Nat) (f : SolveCounts → SolveCounts) : (d.modCounts tag f).journal = d.journal := rfl
@[simp] theorem Device.modCounts_tensors (d : Device) (tag : Nat) (f : SolveCounts → SolveCounts) : (d.modCounts tag f).tensors = d.tensors := rfl
@[simp] theorem Device.modCounts_gens (d : Device) (tag : Nat) (f : SolveCounts → SolveCounts) : (d.modCounts tag f).gens = d.gens := rfl
@[simp] theorem Device.modCounts_shards (d : Device) (tag : Nat) (f : SolveCounts → SolveCounts) : (d.modCounts tag f).shards = d.shards := rfl
@[simp] theorem Device.modCounts_jobs (d : Device) (tag : Nat) (f : SolveCounts → SolveCounts) : (d.modCounts tag f).jobs = d.jobs := rfl
@[simp] theorem Device.modCounts_arrivals (d : Device) (tag : Nat) (f : SolveCounts → SolveCounts) : (d.modCounts tag f).arrivals = d.arrivals := rfl
@[simp] theorem Device.modCounts_srcRefs (d : Device) (tag : Nat) (f : SolveCounts → SolveCounts) : (d.modCounts tag f).srcRefs = d.srcRefs := rfl
@[simp] theorem Device.modCounts_mirrors (d : Device) (tag : Nat) (f : SolveCounts → SolveCounts) : (d.modCounts tag f).mirrors = d.mirrors := rfl
@[simp] theorem Device.modCounts_mirrorStaged (d : Device) (tag : Nat) (f : SolveCounts → SolveCounts) : (d.modCounts tag f).mirrorStaged = d.mirrorStaged := rfl
@[simp] theorem Device.modCounts_mirrorFrozen (d : Device) (tag : Nat) (f : SolveCounts → SolveCounts) : (d.modCounts tag f).mirrorFrozen = d.mirrorFrozen := rfl
@[simp] theorem Device.modCounts_twinGrads (d : Device) (tag : Nat) (f : SolveCounts → SolveCounts) : (d.modCounts tag f).twinGrads = d.twinGrads := rfl
@[simp] theorem Device.modCounts_regathers (d : Device) (tag : Nat) (f : SolveCounts → SolveCounts) : (d.modCounts tag f).regathers = d.regathers := rfl
@[simp] theorem Device.modCounts_dma (d : Device) (tag : Nat) (f : SolveCounts → SolveCounts) : (d.modCounts tag f).dma = d.dma := rfl
@[simp] theorem Device.modCounts_events (d : Device) (tag : Nat) (f : SolveCounts → SolveCounts) : (d.modCounts tag f).events = d.events := rfl
@[simp] theorem Device.modCounts_power (d : Device) (tag : Nat) (f : SolveCounts → SolveCounts) : (d.modCounts tag f).power = d.power := rfl
@[simp] theorem Device.modCounts_hosts (d : Device) (tag : Nat) (f : SolveCounts → SolveCounts) : (d.modCounts tag f).hosts = d.hosts := rfl
@[simp] theorem Device.modCounts_links (d : Device) (tag : Nat) (f : SolveCounts → SolveCounts) : (d.modCounts tag f).links = d.links := rfl
@[simp] theorem Device.modCounts_mem (d : Device) (tag : Nat) (f : SolveCounts → SolveCounts) : (d.modCounts tag f).mem = d.mem := rfl
@[simp] theorem Device.modCounts_observe (d : Device) (tag : Nat) (f : SolveCounts → SolveCounts) : (d.modCounts tag f).observe = d.observe := rfl
@[simp] theorem Device.modCounts_ctr (d : Device) (tag : Nat) (f : SolveCounts → SolveCounts) : (d.modCounts tag f).ctr = d.ctr := rfl
@[simp] theorem Device.setEvq_time (d : Device) (q : Nat) (v : EventQueue) : (d.setEvq q v).time = d.time := rfl
@[simp] theorem Device.setEvq_queues (d : Device) (q : Nat) (v : EventQueue) : (d.setEvq q v).queues = d.queues := rfl
@[simp] theorem Device.setEvq_lastFetch (d : Device) (q : Nat) (v : EventQueue) : (d.setEvq q v).lastFetch = d.lastFetch := rfl
@[simp] theorem Device.setEvq_streams (d : Device) (q : Nat) (v : EventQueue) : (d.setEvq q v).streams = d.streams := rfl
@[simp] theorem Device.setEvq_journal (d : Device) (q : Nat) (v : EventQueue) : (d.setEvq q v).journal = d.journal := rfl
@[simp] theorem Device.setEvq_tensors (d : Device) (q : Nat) (v : EventQueue) : (d.setEvq q v).tensors = d.tensors := rfl
@[simp] theorem Device.setEvq_gens (d : Device) (q : Nat) (v : EventQueue) : (d.setEvq q v).gens = d.gens := rfl
@[simp] theorem Device.setEvq_shards (d : Device) (q : Nat) (v : EventQueue) : (d.setEvq q v).shards = d.shards := rfl
@[simp] theorem Device.setEvq_jobs (d : Device) (q : Nat) (v : EventQueue) : (d.setEvq q v).jobs = d.jobs := rfl
@[simp] theorem Device.setEvq_arrivals (d : Device) (q : Nat) (v : EventQueue) : (d.setEvq q v).arrivals = d.arrivals := rfl
@[simp] theorem Device.setEvq_srcRefs (d : Device) (q : Nat) (v : EventQueue) : (d.setEvq q v).srcRefs = d.srcRefs := rfl
@[simp] theorem Device.setEvq_mirrors (d : Device) (q : Nat) (v : EventQueue) : (d.setEvq q v).mirrors = d.mirrors := rfl
@[simp] theorem Device.setEvq_mirrorStaged (d : Device) (q : Nat) (v : EventQueue) : (d.setEvq q v).mirrorStaged = d.mirrorStaged := rfl
@[simp] theorem Device.setEvq_mirrorFrozen (d : Device) (q : Nat) (v : EventQueue) : (d.setEvq q v).mirrorFrozen = d.mirrorFrozen := rfl
@[simp] theorem Device.setEvq_twinGrads (d : Device) (q : Nat) (v : EventQueue) : (d.setEvq q v).twinGrads = d.twinGrads := rfl
@[simp] theorem Device.setEvq_regathers (d : Device) (q : Nat) (v : EventQueue) : (d.setEvq q v).regathers = d.regathers := rfl
@[simp] theorem Device.setEvq_solver (d : Device) (q : Nat) (v : EventQueue) : (d.setEvq q v).solver = d.solver := rfl
@[simp] theorem Device.setEvq_dma (d : Device) (q : Nat) (v : EventQueue) : (d.setEvq q v).dma = d.dma := rfl
@[simp] theorem Device.setEvq_power (d : Device) (q : Nat) (v : EventQueue) : (d.setEvq q v).power = d.power := rfl
@[simp] theorem Device.setEvq_hosts (d : Device) (q : Nat) (v : EventQueue) : (d.setEvq q v).hosts = d.hosts := rfl
@[simp] theorem Device.setEvq_links (d : Device) (q : Nat) (v : EventQueue) : (d.setEvq q v).links = d.links := rfl
@[simp] theorem Device.setEvq_mem (d : Device) (q : Nat) (v : EventQueue) : (d.setEvq q v).mem = d.mem := rfl
@[simp] theorem Device.setEvq_observe (d : Device) (q : Nat) (v : EventQueue) : (d.setEvq q v).observe = d.observe := rfl
@[simp] theorem Device.setEvq_ctr (d : Device) (q : Nat) (v : EventQueue) : (d.setEvq q v).ctr = d.ctr := rfl
@[simp] theorem Device.setSource_time (d : Device) (x : Nat) (v : EventSource) : (d.setSource x v).time = d.time := rfl
@[simp] theorem Device.setSource_queues (d : Device) (x : Nat) (v : EventSource) : (d.setSource x v).queues = d.queues := rfl
@[simp] theorem Device.setSource_lastFetch (d : Device) (x : Nat) (v : EventSource) : (d.setSource x v).lastFetch = d.lastFetch := rfl
@[simp] theorem Device.setSource_streams (d : Device) (x : Nat) (v : EventSource) : (d.setSource x v).streams = d.streams := rfl
@[simp] theorem Device.setSource_journal (d : Device) (x : Nat) (v : EventSource) : (d.setSource x v).journal = d.journal := rfl
@[simp] theorem Device.setSource_tensors (d : Device) (x : Nat) (v : EventSource) : (d.setSource x v).tensors = d.tensors := rfl
@[simp] theorem Device.setSource_gens (d : Device) (x : Nat) (v : EventSource) : (d.setSource x v).gens = d.gens := rfl
@[simp] theorem Device.setSource_shards (d : Device) (x : Nat) (v : EventSource) : (d.setSource x v).shards = d.shards := rfl
@[simp] theorem Device.setSource_jobs (d : Device) (x : Nat) (v : EventSource) : (d.setSource x v).jobs = d.jobs := rfl
@[simp] theorem Device.setSource_arrivals (d : Device) (x : Nat) (v : EventSource) : (d.setSource x v).arrivals = d.arrivals := rfl
@[simp] theorem Device.setSource_srcRefs (d : Device) (x : Nat) (v : EventSource) : (d.setSource x v).srcRefs = d.srcRefs := rfl
@[simp] theorem Device.setSource_mirrors (d : Device) (x : Nat) (v : EventSource) : (d.setSource x v).mirrors = d.mirrors := rfl
@[simp] theorem Device.setSource_mirrorStaged (d : Device) (x : Nat) (v : EventSource) : (d.setSource x v).mirrorStaged = d.mirrorStaged := rfl
@[simp] theorem Device.setSource_mirrorFrozen (d : Device) (x : Nat) (v : EventSource) : (d.setSource x v).mirrorFrozen = d.mirrorFrozen := rfl
@[simp] theorem Device.setSource_twinGrads (d : Device) (x : Nat) (v : EventSource) : (d.setSource x v).twinGrads = d.twinGrads := rfl
@[simp] theorem Device.setSource_regathers (d : Device) (x : Nat) (v : EventSource) : (d.setSource x v).regathers = d.regathers := rfl
@[simp] theorem Device.setSource_solver (d : Device) (x : Nat) (v : EventSource) : (d.setSource x v).solver = d.solver := rfl
@[simp] theorem Device.setSource_dma (d : Device) (x : Nat) (v : EventSource) : (d.setSource x v).dma = d.dma := rfl
@[simp] theorem Device.setSource_power (d : Device) (x : Nat) (v : EventSource) : (d.setSource x v).power = d.power := rfl
@[simp] theorem Device.setSource_hosts (d : Device) (x : Nat) (v : EventSource) : (d.setSource x v).hosts = d.hosts := rfl
@[simp] theorem Device.setSource_links (d : Device) (x : Nat) (v : EventSource) : (d.setSource x v).links = d.links := rfl
@[simp] theorem Device.setSource_mem (d : Device) (x : Nat) (v : EventSource) : (d.setSource x v).mem = d.mem := rfl
@[simp] theorem Device.setSource_observe (d : Device) (x : Nat) (v : EventSource) : (d.setSource x v).observe = d.observe := rfl
@[simp] theorem Device.setSource_ctr (d : Device) (x : Nat) (v : EventSource) : (d.setSource x v).ctr = d.ctr := rfl
@[simp] theorem Device.setCluster_time (d : Device) (c : Nat) (v : Domain) : (d.setCluster c v).time = d.time := rfl
@[simp] theorem Device.setCluster_queues (d : Device) (c : Nat) (v : Domain) : (d.setCluster c v).queues = d.queues := rfl
@[simp] theorem Device.setCluster_lastFetch (d : Device) (c : Nat) (v : Domain) : (d.setCluster c v).lastFetch = d.lastFetch := rfl
@[simp] theorem Device.setCluster_streams (d : Device) (c : Nat) (v : Domain) : (d.setCluster c v).streams = d.streams := rfl
@[simp] theorem Device.setCluster_journal (d : Device) (c : Nat) (v : Domain) : (d.setCluster c v).journal = d.journal := rfl
@[simp] theorem Device.setCluster_tensors (d : Device) (c : Nat) (v : Domain) : (d.setCluster c v).tensors = d.tensors := rfl
@[simp] theorem Device.setCluster_gens (d : Device) (c : Nat) (v : Domain) : (d.setCluster c v).gens = d.gens := rfl
@[simp] theorem Device.setCluster_shards (d : Device) (c : Nat) (v : Domain) : (d.setCluster c v).shards = d.shards := rfl
@[simp] theorem Device.setCluster_jobs (d : Device) (c : Nat) (v : Domain) : (d.setCluster c v).jobs = d.jobs := rfl
@[simp] theorem Device.setCluster_arrivals (d : Device) (c : Nat) (v : Domain) : (d.setCluster c v).arrivals = d.arrivals := rfl
@[simp] theorem Device.setCluster_srcRefs (d : Device) (c : Nat) (v : Domain) : (d.setCluster c v).srcRefs = d.srcRefs := rfl
@[simp] theorem Device.setCluster_mirrors (d : Device) (c : Nat) (v : Domain) : (d.setCluster c v).mirrors = d.mirrors := rfl
@[simp] theorem Device.setCluster_mirrorStaged (d : Device) (c : Nat) (v : Domain) : (d.setCluster c v).mirrorStaged = d.mirrorStaged := rfl
@[simp] theorem Device.setCluster_mirrorFrozen (d : Device) (c : Nat) (v : Domain) : (d.setCluster c v).mirrorFrozen = d.mirrorFrozen := rfl
@[simp] theorem Device.setCluster_twinGrads (d : Device) (c : Nat) (v : Domain) : (d.setCluster c v).twinGrads = d.twinGrads := rfl
@[simp] theorem Device.setCluster_regathers (d : Device) (c : Nat) (v : Domain) : (d.setCluster c v).regathers = d.regathers := rfl
@[simp] theorem Device.setCluster_solver (d : Device) (c : Nat) (v : Domain) : (d.setCluster c v).solver = d.solver := rfl
@[simp] theorem Device.setCluster_dma (d : Device) (c : Nat) (v : Domain) : (d.setCluster c v).dma = d.dma := rfl
@[simp] theorem Device.setCluster_events (d : Device) (c : Nat) (v : Domain) : (d.setCluster c v).events = d.events := rfl
@[simp] theorem Device.setCluster_hosts (d : Device) (c : Nat) (v : Domain) : (d.setCluster c v).hosts = d.hosts := rfl
@[simp] theorem Device.setCluster_links (d : Device) (c : Nat) (v : Domain) : (d.setCluster c v).links = d.links := rfl
@[simp] theorem Device.setCluster_mem (d : Device) (c : Nat) (v : Domain) : (d.setCluster c v).mem = d.mem := rfl
@[simp] theorem Device.setCluster_observe (d : Device) (c : Nat) (v : Domain) : (d.setCluster c v).observe = d.observe := rfl
@[simp] theorem Device.setCluster_ctr (d : Device) (c : Nat) (v : Domain) : (d.setCluster c v).ctr = d.ctr := rfl
@[simp] theorem Device.setCoreDom_time (d : Device) (n : Nat) (v : Domain) : (d.setCoreDom n v).time = d.time := rfl
@[simp] theorem Device.setCoreDom_queues (d : Device) (n : Nat) (v : Domain) : (d.setCoreDom n v).queues = d.queues := rfl
@[simp] theorem Device.setCoreDom_lastFetch (d : Device) (n : Nat) (v : Domain) : (d.setCoreDom n v).lastFetch = d.lastFetch := rfl
@[simp] theorem Device.setCoreDom_streams (d : Device) (n : Nat) (v : Domain) : (d.setCoreDom n v).streams = d.streams := rfl
@[simp] theorem Device.setCoreDom_journal (d : Device) (n : Nat) (v : Domain) : (d.setCoreDom n v).journal = d.journal := rfl
@[simp] theorem Device.setCoreDom_tensors (d : Device) (n : Nat) (v : Domain) : (d.setCoreDom n v).tensors = d.tensors := rfl
@[simp] theorem Device.setCoreDom_gens (d : Device) (n : Nat) (v : Domain) : (d.setCoreDom n v).gens = d.gens := rfl
@[simp] theorem Device.setCoreDom_shards (d : Device) (n : Nat) (v : Domain) : (d.setCoreDom n v).shards = d.shards := rfl
@[simp] theorem Device.setCoreDom_jobs (d : Device) (n : Nat) (v : Domain) : (d.setCoreDom n v).jobs = d.jobs := rfl
@[simp] theorem Device.setCoreDom_arrivals (d : Device) (n : Nat) (v : Domain) : (d.setCoreDom n v).arrivals = d.arrivals := rfl
@[simp] theorem Device.setCoreDom_srcRefs (d : Device) (n : Nat) (v : Domain) : (d.setCoreDom n v).srcRefs = d.srcRefs := rfl
@[simp] theorem Device.setCoreDom_mirrors (d : Device) (n : Nat) (v : Domain) : (d.setCoreDom n v).mirrors = d.mirrors := rfl
@[simp] theorem Device.setCoreDom_mirrorStaged (d : Device) (n : Nat) (v : Domain) : (d.setCoreDom n v).mirrorStaged = d.mirrorStaged := rfl
@[simp] theorem Device.setCoreDom_mirrorFrozen (d : Device) (n : Nat) (v : Domain) : (d.setCoreDom n v).mirrorFrozen = d.mirrorFrozen := rfl
@[simp] theorem Device.setCoreDom_twinGrads (d : Device) (n : Nat) (v : Domain) : (d.setCoreDom n v).twinGrads = d.twinGrads := rfl
@[simp] theorem Device.setCoreDom_regathers (d : Device) (n : Nat) (v : Domain) : (d.setCoreDom n v).regathers = d.regathers := rfl
@[simp] theorem Device.setCoreDom_solver (d : Device) (n : Nat) (v : Domain) : (d.setCoreDom n v).solver = d.solver := rfl
@[simp] theorem Device.setCoreDom_dma (d : Device) (n : Nat) (v : Domain) : (d.setCoreDom n v).dma = d.dma := rfl
@[simp] theorem Device.setCoreDom_events (d : Device) (n : Nat) (v : Domain) : (d.setCoreDom n v).events = d.events := rfl
@[simp] theorem Device.setCoreDom_hosts (d : Device) (n : Nat) (v : Domain) : (d.setCoreDom n v).hosts = d.hosts := rfl
@[simp] theorem Device.setCoreDom_links (d : Device) (n : Nat) (v : Domain) : (d.setCoreDom n v).links = d.links := rfl
@[simp] theorem Device.setCoreDom_mem (d : Device) (n : Nat) (v : Domain) : (d.setCoreDom n v).mem = d.mem := rfl
@[simp] theorem Device.setCoreDom_observe (d : Device) (n : Nat) (v : Domain) : (d.setCoreDom n v).observe = d.observe := rfl
@[simp] theorem Device.setCoreDom_ctr (d : Device) (n : Nat) (v : Domain) : (d.setCoreDom n v).ctr = d.ctr := rfl
@[simp] theorem Device.setStackDom_time (d : Device) (m : Nat) (v : Domain) : (d.setStackDom m v).time = d.time := rfl
@[simp] theorem Device.setStackDom_queues (d : Device) (m : Nat) (v : Domain) : (d.setStackDom m v).queues = d.queues := rfl
@[simp] theorem Device.setStackDom_lastFetch (d : Device) (m : Nat) (v : Domain) : (d.setStackDom m v).lastFetch = d.lastFetch := rfl
@[simp] theorem Device.setStackDom_streams (d : Device) (m : Nat) (v : Domain) : (d.setStackDom m v).streams = d.streams := rfl
@[simp] theorem Device.setStackDom_journal (d : Device) (m : Nat) (v : Domain) : (d.setStackDom m v).journal = d.journal := rfl
@[simp] theorem Device.setStackDom_tensors (d : Device) (m : Nat) (v : Domain) : (d.setStackDom m v).tensors = d.tensors := rfl
@[simp] theorem Device.setStackDom_gens (d : Device) (m : Nat) (v : Domain) : (d.setStackDom m v).gens = d.gens := rfl
@[simp] theorem Device.setStackDom_shards (d : Device) (m : Nat) (v : Domain) : (d.setStackDom m v).shards = d.shards := rfl
@[simp] theorem Device.setStackDom_jobs (d : Device) (m : Nat) (v : Domain) : (d.setStackDom m v).jobs = d.jobs := rfl
@[simp] theorem Device.setStackDom_arrivals (d : Device) (m : Nat) (v : Domain) : (d.setStackDom m v).arrivals = d.arrivals := rfl
@[simp] theorem Device.setStackDom_srcRefs (d : Device) (m : Nat) (v : Domain) : (d.setStackDom m v).srcRefs = d.srcRefs := rfl
@[simp] theorem Device.setStackDom_mirrors (d : Device) (m : Nat) (v : Domain) : (d.setStackDom m v).mirrors = d.mirrors := rfl
@[simp] theorem Device.setStackDom_mirrorStaged (d : Device) (m : Nat) (v : Domain) : (d.setStackDom m v).mirrorStaged = d.mirrorStaged := rfl
@[simp] theorem Device.setStackDom_mirrorFrozen (d : Device) (m : Nat) (v : Domain) : (d.setStackDom m v).mirrorFrozen = d.mirrorFrozen := rfl
@[simp] theorem Device.setStackDom_twinGrads (d : Device) (m : Nat) (v : Domain) : (d.setStackDom m v).twinGrads = d.twinGrads := rfl
@[simp] theorem Device.setStackDom_regathers (d : Device) (m : Nat) (v : Domain) : (d.setStackDom m v).regathers = d.regathers := rfl
@[simp] theorem Device.setStackDom_solver (d : Device) (m : Nat) (v : Domain) : (d.setStackDom m v).solver = d.solver := rfl
@[simp] theorem Device.setStackDom_dma (d : Device) (m : Nat) (v : Domain) : (d.setStackDom m v).dma = d.dma := rfl
@[simp] theorem Device.setStackDom_events (d : Device) (m : Nat) (v : Domain) : (d.setStackDom m v).events = d.events := rfl
@[simp] theorem Device.setStackDom_hosts (d : Device) (m : Nat) (v : Domain) : (d.setStackDom m v).hosts = d.hosts := rfl
@[simp] theorem Device.setStackDom_links (d : Device) (m : Nat) (v : Domain) : (d.setStackDom m v).links = d.links := rfl
@[simp] theorem Device.setStackDom_mem (d : Device) (m : Nat) (v : Domain) : (d.setStackDom m v).mem = d.mem := rfl
@[simp] theorem Device.setStackDom_observe (d : Device) (m : Nat) (v : Domain) : (d.setStackDom m v).observe = d.observe := rfl
@[simp] theorem Device.setStackDom_ctr (d : Device) (m : Nat) (v : Domain) : (d.setStackDom m v).ctr = d.ctr := rfl
@[simp] theorem Device.setOwner_time (d : Device) (x : Nat) (o : Owner) : (d.setOwner x o).time = d.time := rfl
@[simp] theorem Device.setOwner_queues (d : Device) (x : Nat) (o : Owner) : (d.setOwner x o).queues = d.queues := rfl
@[simp] theorem Device.setOwner_lastFetch (d : Device) (x : Nat) (o : Owner) : (d.setOwner x o).lastFetch = d.lastFetch := rfl
@[simp] theorem Device.setOwner_streams (d : Device) (x : Nat) (o : Owner) : (d.setOwner x o).streams = d.streams := rfl
@[simp] theorem Device.setOwner_journal (d : Device) (x : Nat) (o : Owner) : (d.setOwner x o).journal = d.journal := rfl
@[simp] theorem Device.setOwner_tensors (d : Device) (x : Nat) (o : Owner) : (d.setOwner x o).tensors = d.tensors := rfl
@[simp] theorem Device.setOwner_gens (d : Device) (x : Nat) (o : Owner) : (d.setOwner x o).gens = d.gens := rfl
@[simp] theorem Device.setOwner_shards (d : Device) (x : Nat) (o : Owner) : (d.setOwner x o).shards = d.shards := rfl
@[simp] theorem Device.setOwner_jobs (d : Device) (x : Nat) (o : Owner) : (d.setOwner x o).jobs = d.jobs := rfl
@[simp] theorem Device.setOwner_arrivals (d : Device) (x : Nat) (o : Owner) : (d.setOwner x o).arrivals = d.arrivals := rfl
@[simp] theorem Device.setOwner_srcRefs (d : Device) (x : Nat) (o : Owner) : (d.setOwner x o).srcRefs = d.srcRefs := rfl
@[simp] theorem Device.setOwner_mirrors (d : Device) (x : Nat) (o : Owner) : (d.setOwner x o).mirrors = d.mirrors := rfl
@[simp] theorem Device.setOwner_mirrorStaged (d : Device) (x : Nat) (o : Owner) : (d.setOwner x o).mirrorStaged = d.mirrorStaged := rfl
@[simp] theorem Device.setOwner_mirrorFrozen (d : Device) (x : Nat) (o : Owner) : (d.setOwner x o).mirrorFrozen = d.mirrorFrozen := rfl
@[simp] theorem Device.setOwner_twinGrads (d : Device) (x : Nat) (o : Owner) : (d.setOwner x o).twinGrads = d.twinGrads := rfl
@[simp] theorem Device.setOwner_regathers (d : Device) (x : Nat) (o : Owner) : (d.setOwner x o).regathers = d.regathers := rfl
@[simp] theorem Device.setOwner_solver (d : Device) (x : Nat) (o : Owner) : (d.setOwner x o).solver = d.solver := rfl
@[simp] theorem Device.setOwner_dma (d : Device) (x : Nat) (o : Owner) : (d.setOwner x o).dma = d.dma := rfl
@[simp] theorem Device.setOwner_events (d : Device) (x : Nat) (o : Owner) : (d.setOwner x o).events = d.events := rfl
@[simp] theorem Device.setOwner_power (d : Device) (x : Nat) (o : Owner) : (d.setOwner x o).power = d.power := rfl
@[simp] theorem Device.setOwner_hosts (d : Device) (x : Nat) (o : Owner) : (d.setOwner x o).hosts = d.hosts := rfl
@[simp] theorem Device.setOwner_links (d : Device) (x : Nat) (o : Owner) : (d.setOwner x o).links = d.links := rfl
@[simp] theorem Device.setOwner_observe (d : Device) (x : Nat) (o : Owner) : (d.setOwner x o).observe = d.observe := rfl
@[simp] theorem Device.setOwner_ctr (d : Device) (x : Nat) (o : Owner) : (d.setOwner x o).ctr = d.ctr := rfl
@[simp] theorem Device.zeroExtent_time (d : Device) (x : Nat) : (d.zeroExtent x).time = d.time := rfl
@[simp] theorem Device.zeroExtent_queues (d : Device) (x : Nat) : (d.zeroExtent x).queues = d.queues := rfl
@[simp] theorem Device.zeroExtent_lastFetch (d : Device) (x : Nat) : (d.zeroExtent x).lastFetch = d.lastFetch := rfl
@[simp] theorem Device.zeroExtent_streams (d : Device) (x : Nat) : (d.zeroExtent x).streams = d.streams := rfl
@[simp] theorem Device.zeroExtent_journal (d : Device) (x : Nat) : (d.zeroExtent x).journal = d.journal := rfl
@[simp] theorem Device.zeroExtent_tensors (d : Device) (x : Nat) : (d.zeroExtent x).tensors = d.tensors := rfl
@[simp] theorem Device.zeroExtent_gens (d : Device) (x : Nat) : (d.zeroExtent x).gens = d.gens := rfl
@[simp] theorem Device.zeroExtent_shards (d : Device) (x : Nat) : (d.zeroExtent x).shards = d.shards := rfl
@[simp] theorem Device.zeroExtent_jobs (d : Device) (x : Nat) : (d.zeroExtent x).jobs = d.jobs := rfl
@[simp] theorem Device.zeroExtent_arrivals (d : Device) (x : Nat) : (d.zeroExtent x).arrivals = d.arrivals := rfl
@[simp] theorem Device.zeroExtent_srcRefs (d : Device) (x : Nat) : (d.zeroExtent x).srcRefs = d.srcRefs := rfl
@[simp] theorem Device.zeroExtent_mirrors (d : Device) (x : Nat) : (d.zeroExtent x).mirrors = d.mirrors := rfl
@[simp] theorem Device.zeroExtent_mirrorStaged (d : Device) (x : Nat) : (d.zeroExtent x).mirrorStaged = d.mirrorStaged := rfl
@[simp] theorem Device.zeroExtent_mirrorFrozen (d : Device) (x : Nat) : (d.zeroExtent x).mirrorFrozen = d.mirrorFrozen := rfl
@[simp] theorem Device.zeroExtent_twinGrads (d : Device) (x : Nat) : (d.zeroExtent x).twinGrads = d.twinGrads := rfl
@[simp] theorem Device.zeroExtent_regathers (d : Device) (x : Nat) : (d.zeroExtent x).regathers = d.regathers := rfl
@[simp] theorem Device.zeroExtent_solver (d : Device) (x : Nat) : (d.zeroExtent x).solver = d.solver := rfl
@[simp] theorem Device.zeroExtent_dma (d : Device) (x : Nat) : (d.zeroExtent x).dma = d.dma := rfl
@[simp] theorem Device.zeroExtent_events (d : Device) (x : Nat) : (d.zeroExtent x).events = d.events := rfl
@[simp] theorem Device.zeroExtent_power (d : Device) (x : Nat) : (d.zeroExtent x).power = d.power := rfl
@[simp] theorem Device.zeroExtent_hosts (d : Device) (x : Nat) : (d.zeroExtent x).hosts = d.hosts := rfl
@[simp] theorem Device.zeroExtent_links (d : Device) (x : Nat) : (d.zeroExtent x).links = d.links := rfl
@[simp] theorem Device.zeroExtent_observe (d : Device) (x : Nat) : (d.zeroExtent x).observe = d.observe := rfl
@[simp] theorem Device.zeroExtent_ctr (d : Device) (x : Nat) : (d.zeroExtent x).ctr = d.ctr := rfl
@[simp] theorem Device.copyExtent_time (d : Device) (x y : Nat) : (d.copyExtent x y).time = d.time := rfl
@[simp] theorem Device.copyExtent_queues (d : Device) (x y : Nat) : (d.copyExtent x y).queues = d.queues := rfl
@[simp] theorem Device.copyExtent_lastFetch (d : Device) (x y : Nat) : (d.copyExtent x y).lastFetch = d.lastFetch := rfl
@[simp] theorem Device.copyExtent_streams (d : Device) (x y : Nat) : (d.copyExtent x y).streams = d.streams := rfl
@[simp] theorem Device.copyExtent_journal (d : Device) (x y : Nat) : (d.copyExtent x y).journal = d.journal := rfl
@[simp] theorem Device.copyExtent_tensors (d : Device) (x y : Nat) : (d.copyExtent x y).tensors = d.tensors := rfl
@[simp] theorem Device.copyExtent_gens (d : Device) (x y : Nat) : (d.copyExtent x y).gens = d.gens := rfl
@[simp] theorem Device.copyExtent_shards (d : Device) (x y : Nat) : (d.copyExtent x y).shards = d.shards := rfl
@[simp] theorem Device.copyExtent_jobs (d : Device) (x y : Nat) : (d.copyExtent x y).jobs = d.jobs := rfl
@[simp] theorem Device.copyExtent_arrivals (d : Device) (x y : Nat) : (d.copyExtent x y).arrivals = d.arrivals := rfl
@[simp] theorem Device.copyExtent_srcRefs (d : Device) (x y : Nat) : (d.copyExtent x y).srcRefs = d.srcRefs := rfl
@[simp] theorem Device.copyExtent_mirrors (d : Device) (x y : Nat) : (d.copyExtent x y).mirrors = d.mirrors := rfl
@[simp] theorem Device.copyExtent_mirrorStaged (d : Device) (x y : Nat) : (d.copyExtent x y).mirrorStaged = d.mirrorStaged := rfl
@[simp] theorem Device.copyExtent_mirrorFrozen (d : Device) (x y : Nat) : (d.copyExtent x y).mirrorFrozen = d.mirrorFrozen := rfl
@[simp] theorem Device.copyExtent_twinGrads (d : Device) (x y : Nat) : (d.copyExtent x y).twinGrads = d.twinGrads := rfl
@[simp] theorem Device.copyExtent_regathers (d : Device) (x y : Nat) : (d.copyExtent x y).regathers = d.regathers := rfl
@[simp] theorem Device.copyExtent_solver (d : Device) (x y : Nat) : (d.copyExtent x y).solver = d.solver := rfl
@[simp] theorem Device.copyExtent_dma (d : Device) (x y : Nat) : (d.copyExtent x y).dma = d.dma := rfl
@[simp] theorem Device.copyExtent_events (d : Device) (x y : Nat) : (d.copyExtent x y).events = d.events := rfl
@[simp] theorem Device.copyExtent_power (d : Device) (x y : Nat) : (d.copyExtent x y).power = d.power := rfl
@[simp] theorem Device.copyExtent_hosts (d : Device) (x y : Nat) : (d.copyExtent x y).hosts = d.hosts := rfl
@[simp] theorem Device.copyExtent_links (d : Device) (x y : Nat) : (d.copyExtent x y).links = d.links := rfl
@[simp] theorem Device.copyExtent_observe (d : Device) (x y : Nat) : (d.copyExtent x y).observe = d.observe := rfl
@[simp] theorem Device.copyExtent_ctr (d : Device) (x y : Nat) : (d.copyExtent x y).ctr = d.ctr := rfl
@[simp] theorem Device.unmarkRetire_time (d : Device) (x : Nat) : (d.unmarkRetire x).time = d.time := rfl
@[simp] theorem Device.unmarkRetire_queues (d : Device) (x : Nat) : (d.unmarkRetire x).queues = d.queues := rfl
@[simp] theorem Device.unmarkRetire_lastFetch (d : Device) (x : Nat) : (d.unmarkRetire x).lastFetch = d.lastFetch := rfl
@[simp] theorem Device.unmarkRetire_streams (d : Device) (x : Nat) : (d.unmarkRetire x).streams = d.streams := rfl
@[simp] theorem Device.unmarkRetire_journal (d : Device) (x : Nat) : (d.unmarkRetire x).journal = d.journal := rfl
@[simp] theorem Device.unmarkRetire_tensors (d : Device) (x : Nat) : (d.unmarkRetire x).tensors = d.tensors := rfl
@[simp] theorem Device.unmarkRetire_gens (d : Device) (x : Nat) : (d.unmarkRetire x).gens = d.gens := rfl
@[simp] theorem Device.unmarkRetire_shards (d : Device) (x : Nat) : (d.unmarkRetire x).shards = d.shards := rfl
@[simp] theorem Device.unmarkRetire_jobs (d : Device) (x : Nat) : (d.unmarkRetire x).jobs = d.jobs := rfl
@[simp] theorem Device.unmarkRetire_arrivals (d : Device) (x : Nat) : (d.unmarkRetire x).arrivals = d.arrivals := rfl
@[simp] theorem Device.unmarkRetire_srcRefs (d : Device) (x : Nat) : (d.unmarkRetire x).srcRefs = d.srcRefs := rfl
@[simp] theorem Device.unmarkRetire_mirrors (d : Device) (x : Nat) : (d.unmarkRetire x).mirrors = d.mirrors := rfl
@[simp] theorem Device.unmarkRetire_mirrorStaged (d : Device) (x : Nat) : (d.unmarkRetire x).mirrorStaged = d.mirrorStaged := rfl
@[simp] theorem Device.unmarkRetire_mirrorFrozen (d : Device) (x : Nat) : (d.unmarkRetire x).mirrorFrozen = d.mirrorFrozen := rfl
@[simp] theorem Device.unmarkRetire_twinGrads (d : Device) (x : Nat) : (d.unmarkRetire x).twinGrads = d.twinGrads := rfl
@[simp] theorem Device.unmarkRetire_regathers (d : Device) (x : Nat) : (d.unmarkRetire x).regathers = d.regathers := rfl
@[simp] theorem Device.unmarkRetire_solver (d : Device) (x : Nat) : (d.unmarkRetire x).solver = d.solver := rfl
@[simp] theorem Device.unmarkRetire_dma (d : Device) (x : Nat) : (d.unmarkRetire x).dma = d.dma := rfl
@[simp] theorem Device.unmarkRetire_events (d : Device) (x : Nat) : (d.unmarkRetire x).events = d.events := rfl
@[simp] theorem Device.unmarkRetire_power (d : Device) (x : Nat) : (d.unmarkRetire x).power = d.power := rfl
@[simp] theorem Device.unmarkRetire_hosts (d : Device) (x : Nat) : (d.unmarkRetire x).hosts = d.hosts := rfl
@[simp] theorem Device.unmarkRetire_links (d : Device) (x : Nat) : (d.unmarkRetire x).links = d.links := rfl
@[simp] theorem Device.unmarkRetire_observe (d : Device) (x : Nat) : (d.unmarkRetire x).observe = d.observe := rfl
@[simp] theorem Device.unmarkRetire_ctr (d : Device) (x : Nat) : (d.unmarkRetire x).ctr = d.ctr := rfl
@[simp] theorem Device.setShard_time (d : Device) (key i : Nat) (v : Shard) : (d.setShard key i v).time = d.time := rfl
@[simp] theorem Device.setShard_queues (d : Device) (key i : Nat) (v : Shard) : (d.setShard key i v).queues = d.queues := rfl
@[simp] theorem Device.setShard_lastFetch (d : Device) (key i : Nat) (v : Shard) : (d.setShard key i v).lastFetch = d.lastFetch := rfl
@[simp] theorem Device.setShard_streams (d : Device) (key i : Nat) (v : Shard) : (d.setShard key i v).streams = d.streams := rfl
@[simp] theorem Device.setShard_journal (d : Device) (key i : Nat) (v : Shard) : (d.setShard key i v).journal = d.journal := rfl
@[simp] theorem Device.setShard_tensors (d : Device) (key i : Nat) (v : Shard) : (d.setShard key i v).tensors = d.tensors := rfl
@[simp] theorem Device.setShard_gens (d : Device) (key i : Nat) (v : Shard) : (d.setShard key i v).gens = d.gens := rfl
@[simp] theorem Device.setShard_jobs (d : Device) (key i : Nat) (v : Shard) : (d.setShard key i v).jobs = d.jobs := rfl
@[simp] theorem Device.setShard_arrivals (d : Device) (key i : Nat) (v : Shard) : (d.setShard key i v).arrivals = d.arrivals := rfl
@[simp] theorem Device.setShard_srcRefs (d : Device) (key i : Nat) (v : Shard) : (d.setShard key i v).srcRefs = d.srcRefs := rfl
@[simp] theorem Device.setShard_mirrors (d : Device) (key i : Nat) (v : Shard) : (d.setShard key i v).mirrors = d.mirrors := rfl
@[simp] theorem Device.setShard_mirrorStaged (d : Device) (key i : Nat) (v : Shard) : (d.setShard key i v).mirrorStaged = d.mirrorStaged := rfl
@[simp] theorem Device.setShard_mirrorFrozen (d : Device) (key i : Nat) (v : Shard) : (d.setShard key i v).mirrorFrozen = d.mirrorFrozen := rfl
@[simp] theorem Device.setShard_twinGrads (d : Device) (key i : Nat) (v : Shard) : (d.setShard key i v).twinGrads = d.twinGrads := rfl
@[simp] theorem Device.setShard_regathers (d : Device) (key i : Nat) (v : Shard) : (d.setShard key i v).regathers = d.regathers := rfl
@[simp] theorem Device.setShard_solver (d : Device) (key i : Nat) (v : Shard) : (d.setShard key i v).solver = d.solver := rfl
@[simp] theorem Device.setShard_dma (d : Device) (key i : Nat) (v : Shard) : (d.setShard key i v).dma = d.dma := rfl
@[simp] theorem Device.setShard_events (d : Device) (key i : Nat) (v : Shard) : (d.setShard key i v).events = d.events := rfl
@[simp] theorem Device.setShard_power (d : Device) (key i : Nat) (v : Shard) : (d.setShard key i v).power = d.power := rfl
@[simp] theorem Device.setShard_hosts (d : Device) (key i : Nat) (v : Shard) : (d.setShard key i v).hosts = d.hosts := rfl
@[simp] theorem Device.setShard_links (d : Device) (key i : Nat) (v : Shard) : (d.setShard key i v).links = d.links := rfl
@[simp] theorem Device.setShard_mem (d : Device) (key i : Nat) (v : Shard) : (d.setShard key i v).mem = d.mem := rfl
@[simp] theorem Device.setShard_observe (d : Device) (key i : Nat) (v : Shard) : (d.setShard key i v).observe = d.observe := rfl
@[simp] theorem Device.setShard_ctr (d : Device) (key i : Nat) (v : Shard) : (d.setShard key i v).ctr = d.ctr := rfl
@[simp] theorem Device.modEntry_time (d : Device) (id : Nat) (f : Entry → Entry) : (d.modEntry id f).time = d.time := rfl
@[simp] theorem Device.modEntry_queues (d : Device) (id : Nat) (f : Entry → Entry) : (d.modEntry id f).queues = d.queues := rfl
@[simp] theorem Device.modEntry_lastFetch (d : Device) (id : Nat) (f : Entry → Entry) : (d.modEntry id f).lastFetch = d.lastFetch := rfl
@[simp] theorem Device.modEntry_streams (d : Device) (id : Nat) (f : Entry → Entry) : (d.modEntry id f).streams = d.streams := rfl
@[simp] theorem Device.modEntry_tensors (d : Device) (id : Nat) (f : Entry → Entry) : (d.modEntry id f).tensors = d.tensors := rfl
@[simp] theorem Device.modEntry_gens (d : Device) (id : Nat) (f : Entry → Entry) : (d.modEntry id f).gens = d.gens := rfl
@[simp] theorem Device.modEntry_shards (d : Device) (id : Nat) (f : Entry → Entry) : (d.modEntry id f).shards = d.shards := rfl
@[simp] theorem Device.modEntry_jobs (d : Device) (id : Nat) (f : Entry → Entry) : (d.modEntry id f).jobs = d.jobs := rfl
@[simp] theorem Device.modEntry_arrivals (d : Device) (id : Nat) (f : Entry → Entry) : (d.modEntry id f).arrivals = d.arrivals := rfl
@[simp] theorem Device.modEntry_srcRefs (d : Device) (id : Nat) (f : Entry → Entry) : (d.modEntry id f).srcRefs = d.srcRefs := rfl
@[simp] theorem Device.modEntry_mirrors (d : Device) (id : Nat) (f : Entry → Entry) : (d.modEntry id f).mirrors = d.mirrors := rfl
@[simp] theorem Device.modEntry_mirrorStaged (d : Device) (id : Nat) (f : Entry → Entry) : (d.modEntry id f).mirrorStaged = d.mirrorStaged := rfl
@[simp] theorem Device.modEntry_mirrorFrozen (d : Device) (id : Nat) (f : Entry → Entry) : (d.modEntry id f).mirrorFrozen = d.mirrorFrozen := rfl
@[simp] theorem Device.modEntry_twinGrads (d : Device) (id : Nat) (f : Entry → Entry) : (d.modEntry id f).twinGrads = d.twinGrads := rfl
@[simp] theorem Device.modEntry_regathers (d : Device) (id : Nat) (f : Entry → Entry) : (d.modEntry id f).regathers = d.regathers := rfl
@[simp] theorem Device.modEntry_solver (d : Device) (id : Nat) (f : Entry → Entry) : (d.modEntry id f).solver = d.solver := rfl
@[simp] theorem Device.modEntry_dma (d : Device) (id : Nat) (f : Entry → Entry) : (d.modEntry id f).dma = d.dma := rfl
@[simp] theorem Device.modEntry_events (d : Device) (id : Nat) (f : Entry → Entry) : (d.modEntry id f).events = d.events := rfl
@[simp] theorem Device.modEntry_power (d : Device) (id : Nat) (f : Entry → Entry) : (d.modEntry id f).power = d.power := rfl
@[simp] theorem Device.modEntry_hosts (d : Device) (id : Nat) (f : Entry → Entry) : (d.modEntry id f).hosts = d.hosts := rfl
@[simp] theorem Device.modEntry_links (d : Device) (id : Nat) (f : Entry → Entry) : (d.modEntry id f).links = d.links := rfl
@[simp] theorem Device.modEntry_mem (d : Device) (id : Nat) (f : Entry → Entry) : (d.modEntry id f).mem = d.mem := rfl
@[simp] theorem Device.modEntry_observe (d : Device) (id : Nat) (f : Entry → Entry) : (d.modEntry id f).observe = d.observe := rfl
@[simp] theorem Device.modEntry_ctr (d : Device) (id : Nat) (f : Entry → Entry) : (d.modEntry id f).ctr = d.ctr := rfl
@[simp] theorem Device.stageOk_time (d : Device) (id r0 r1 : Nat) : (d.stageOk id r0 r1).time = d.time := rfl
@[simp] theorem Device.stageOk_queues (d : Device) (id r0 r1 : Nat) : (d.stageOk id r0 r1).queues = d.queues := rfl
@[simp] theorem Device.stageOk_lastFetch (d : Device) (id r0 r1 : Nat) : (d.stageOk id r0 r1).lastFetch = d.lastFetch := rfl
@[simp] theorem Device.stageOk_streams (d : Device) (id r0 r1 : Nat) : (d.stageOk id r0 r1).streams = d.streams := rfl
@[simp] theorem Device.stageOk_tensors (d : Device) (id r0 r1 : Nat) : (d.stageOk id r0 r1).tensors = d.tensors := rfl
@[simp] theorem Device.stageOk_gens (d : Device) (id r0 r1 : Nat) : (d.stageOk id r0 r1).gens = d.gens := rfl
@[simp] theorem Device.stageOk_shards (d : Device) (id r0 r1 : Nat) : (d.stageOk id r0 r1).shards = d.shards := rfl
@[simp] theorem Device.stageOk_jobs (d : Device) (id r0 r1 : Nat) : (d.stageOk id r0 r1).jobs = d.jobs := rfl
@[simp] theorem Device.stageOk_arrivals (d : Device) (id r0 r1 : Nat) : (d.stageOk id r0 r1).arrivals = d.arrivals := rfl
@[simp] theorem Device.stageOk_srcRefs (d : Device) (id r0 r1 : Nat) : (d.stageOk id r0 r1).srcRefs = d.srcRefs := rfl
@[simp] theorem Device.stageOk_mirrors (d : Device) (id r0 r1 : Nat) : (d.stageOk id r0 r1).mirrors = d.mirrors := rfl
@[simp] theorem Device.stageOk_mirrorStaged (d : Device) (id r0 r1 : Nat) : (d.stageOk id r0 r1).mirrorStaged = d.mirrorStaged := rfl
@[simp] theorem Device.stageOk_mirrorFrozen (d : Device) (id r0 r1 : Nat) : (d.stageOk id r0 r1).mirrorFrozen = d.mirrorFrozen := rfl
@[simp] theorem Device.stageOk_twinGrads (d : Device) (id r0 r1 : Nat) : (d.stageOk id r0 r1).twinGrads = d.twinGrads := rfl
@[simp] theorem Device.stageOk_regathers (d : Device) (id r0 r1 : Nat) : (d.stageOk id r0 r1).regathers = d.regathers := rfl
@[simp] theorem Device.stageOk_solver (d : Device) (id r0 r1 : Nat) : (d.stageOk id r0 r1).solver = d.solver := rfl
@[simp] theorem Device.stageOk_dma (d : Device) (id r0 r1 : Nat) : (d.stageOk id r0 r1).dma = d.dma := rfl
@[simp] theorem Device.stageOk_events (d : Device) (id r0 r1 : Nat) : (d.stageOk id r0 r1).events = d.events := rfl
@[simp] theorem Device.stageOk_power (d : Device) (id r0 r1 : Nat) : (d.stageOk id r0 r1).power = d.power := rfl
@[simp] theorem Device.stageOk_hosts (d : Device) (id r0 r1 : Nat) : (d.stageOk id r0 r1).hosts = d.hosts := rfl
@[simp] theorem Device.stageOk_links (d : Device) (id r0 r1 : Nat) : (d.stageOk id r0 r1).links = d.links := rfl
@[simp] theorem Device.stageOk_mem (d : Device) (id r0 r1 : Nat) : (d.stageOk id r0 r1).mem = d.mem := rfl
@[simp] theorem Device.stageOk_observe (d : Device) (id r0 r1 : Nat) : (d.stageOk id r0 r1).observe = d.observe := rfl
@[simp] theorem Device.stageOk_ctr (d : Device) (id r0 r1 : Nat) : (d.stageOk id r0 r1).ctr = d.ctr := rfl
@[simp] theorem Device.dropScratch_time (d : Device) (id : Nat) : (d.dropScratch id).time = d.time := rfl
@[simp] theorem Device.dropScratch_queues (d : Device) (id : Nat) : (d.dropScratch id).queues = d.queues := rfl
@[simp] theorem Device.dropScratch_lastFetch (d : Device) (id : Nat) : (d.dropScratch id).lastFetch = d.lastFetch := rfl
@[simp] theorem Device.dropScratch_streams (d : Device) (id : Nat) : (d.dropScratch id).streams = d.streams := rfl
@[simp] theorem Device.dropScratch_journal (d : Device) (id : Nat) : (d.dropScratch id).journal = d.journal := rfl
@[simp] theorem Device.dropScratch_tensors (d : Device) (id : Nat) : (d.dropScratch id).tensors = d.tensors := rfl
@[simp] theorem Device.dropScratch_gens (d : Device) (id : Nat) : (d.dropScratch id).gens = d.gens := rfl
@[simp] theorem Device.dropScratch_shards (d : Device) (id : Nat) : (d.dropScratch id).shards = d.shards := rfl
@[simp] theorem Device.dropScratch_jobs (d : Device) (id : Nat) : (d.dropScratch id).jobs = d.jobs := rfl
@[simp] theorem Device.dropScratch_arrivals (d : Device) (id : Nat) : (d.dropScratch id).arrivals = d.arrivals := rfl
@[simp] theorem Device.dropScratch_srcRefs (d : Device) (id : Nat) : (d.dropScratch id).srcRefs = d.srcRefs := rfl
@[simp] theorem Device.dropScratch_mirrors (d : Device) (id : Nat) : (d.dropScratch id).mirrors = d.mirrors := rfl
@[simp] theorem Device.dropScratch_mirrorStaged (d : Device) (id : Nat) : (d.dropScratch id).mirrorStaged = d.mirrorStaged := rfl
@[simp] theorem Device.dropScratch_mirrorFrozen (d : Device) (id : Nat) : (d.dropScratch id).mirrorFrozen = d.mirrorFrozen := rfl
@[simp] theorem Device.dropScratch_twinGrads (d : Device) (id : Nat) : (d.dropScratch id).twinGrads = d.twinGrads := rfl
@[simp] theorem Device.dropScratch_regathers (d : Device) (id : Nat) : (d.dropScratch id).regathers = d.regathers := rfl
@[simp] theorem Device.dropScratch_dma (d : Device) (id : Nat) : (d.dropScratch id).dma = d.dma := rfl
@[simp] theorem Device.dropScratch_events (d : Device) (id : Nat) : (d.dropScratch id).events = d.events := rfl
@[simp] theorem Device.dropScratch_power (d : Device) (id : Nat) : (d.dropScratch id).power = d.power := rfl
@[simp] theorem Device.dropScratch_hosts (d : Device) (id : Nat) : (d.dropScratch id).hosts = d.hosts := rfl
@[simp] theorem Device.dropScratch_links (d : Device) (id : Nat) : (d.dropScratch id).links = d.links := rfl
@[simp] theorem Device.dropScratch_observe (d : Device) (id : Nat) : (d.dropScratch id).observe = d.observe := rfl
@[simp] theorem Device.dropScratch_ctr (d : Device) (id : Nat) : (d.dropScratch id).ctr = d.ctr := rfl
@[simp] theorem Device.voidLedger_time (d : Device) (l i : Nat) : (d.voidLedger l i).time = d.time := rfl
@[simp] theorem Device.voidLedger_queues (d : Device) (l i : Nat) : (d.voidLedger l i).queues = d.queues := rfl
@[simp] theorem Device.voidLedger_lastFetch (d : Device) (l i : Nat) : (d.voidLedger l i).lastFetch = d.lastFetch := rfl
@[simp] theorem Device.voidLedger_streams (d : Device) (l i : Nat) : (d.voidLedger l i).streams = d.streams := rfl
@[simp] theorem Device.voidLedger_journal (d : Device) (l i : Nat) : (d.voidLedger l i).journal = d.journal := rfl
@[simp] theorem Device.voidLedger_tensors (d : Device) (l i : Nat) : (d.voidLedger l i).tensors = d.tensors := rfl
@[simp] theorem Device.voidLedger_gens (d : Device) (l i : Nat) : (d.voidLedger l i).gens = d.gens := rfl
@[simp] theorem Device.voidLedger_shards (d : Device) (l i : Nat) : (d.voidLedger l i).shards = d.shards := rfl
@[simp] theorem Device.voidLedger_jobs (d : Device) (l i : Nat) : (d.voidLedger l i).jobs = d.jobs := rfl
@[simp] theorem Device.voidLedger_arrivals (d : Device) (l i : Nat) : (d.voidLedger l i).arrivals = d.arrivals := rfl
@[simp] theorem Device.voidLedger_srcRefs (d : Device) (l i : Nat) : (d.voidLedger l i).srcRefs = d.srcRefs := rfl
@[simp] theorem Device.voidLedger_mirrors (d : Device) (l i : Nat) : (d.voidLedger l i).mirrors = d.mirrors := rfl
@[simp] theorem Device.voidLedger_mirrorStaged (d : Device) (l i : Nat) : (d.voidLedger l i).mirrorStaged = d.mirrorStaged := rfl
@[simp] theorem Device.voidLedger_mirrorFrozen (d : Device) (l i : Nat) : (d.voidLedger l i).mirrorFrozen = d.mirrorFrozen := rfl
@[simp] theorem Device.voidLedger_twinGrads (d : Device) (l i : Nat) : (d.voidLedger l i).twinGrads = d.twinGrads := rfl
@[simp] theorem Device.voidLedger_regathers (d : Device) (l i : Nat) : (d.voidLedger l i).regathers = d.regathers := rfl
@[simp] theorem Device.voidLedger_solver (d : Device) (l i : Nat) : (d.voidLedger l i).solver = d.solver := rfl
@[simp] theorem Device.voidLedger_dma (d : Device) (l i : Nat) : (d.voidLedger l i).dma = d.dma := rfl
@[simp] theorem Device.voidLedger_events (d : Device) (l i : Nat) : (d.voidLedger l i).events = d.events := rfl
@[simp] theorem Device.voidLedger_power (d : Device) (l i : Nat) : (d.voidLedger l i).power = d.power := rfl
@[simp] theorem Device.voidLedger_hosts (d : Device) (l i : Nat) : (d.voidLedger l i).hosts = d.hosts := rfl
@[simp] theorem Device.voidLedger_links (d : Device) (l i : Nat) : (d.voidLedger l i).links = d.links := rfl
@[simp] theorem Device.voidLedger_mem (d : Device) (l i : Nat) : (d.voidLedger l i).mem = d.mem := rfl
@[simp] theorem Device.voidLedger_ctr (d : Device) (l i : Nat) : (d.voidLedger l i).ctr = d.ctr := rfl
@[simp] theorem Device.passReset_time (d : Device) (l : Nat) (p : Nat → Bool) : (d.passReset l p).time = d.time := rfl
@[simp] theorem Device.passReset_queues (d : Device) (l : Nat) (p : Nat → Bool) : (d.passReset l p).queues = d.queues := rfl
@[simp] theorem Device.passReset_lastFetch (d : Device) (l : Nat) (p : Nat → Bool) : (d.passReset l p).lastFetch = d.lastFetch := rfl
@[simp] theorem Device.passReset_streams (d : Device) (l : Nat) (p : Nat → Bool) : (d.passReset l p).streams = d.streams := rfl
@[simp] theorem Device.passReset_journal (d : Device) (l : Nat) (p : Nat → Bool) : (d.passReset l p).journal = d.journal := rfl
@[simp] theorem Device.passReset_tensors (d : Device) (l : Nat) (p : Nat → Bool) : (d.passReset l p).tensors = d.tensors := rfl
@[simp] theorem Device.passReset_gens (d : Device) (l : Nat) (p : Nat → Bool) : (d.passReset l p).gens = d.gens := rfl
@[simp] theorem Device.passReset_shards (d : Device) (l : Nat) (p : Nat → Bool) : (d.passReset l p).shards = d.shards := rfl
@[simp] theorem Device.passReset_jobs (d : Device) (l : Nat) (p : Nat → Bool) : (d.passReset l p).jobs = d.jobs := rfl
@[simp] theorem Device.passReset_arrivals (d : Device) (l : Nat) (p : Nat → Bool) : (d.passReset l p).arrivals = d.arrivals := rfl
@[simp] theorem Device.passReset_srcRefs (d : Device) (l : Nat) (p : Nat → Bool) : (d.passReset l p).srcRefs = d.srcRefs := rfl
@[simp] theorem Device.passReset_mirrors (d : Device) (l : Nat) (p : Nat → Bool) : (d.passReset l p).mirrors = d.mirrors := rfl
@[simp] theorem Device.passReset_mirrorStaged (d : Device) (l : Nat) (p : Nat → Bool) : (d.passReset l p).mirrorStaged = d.mirrorStaged := rfl
@[simp] theorem Device.passReset_mirrorFrozen (d : Device) (l : Nat) (p : Nat → Bool) : (d.passReset l p).mirrorFrozen = d.mirrorFrozen := rfl
@[simp] theorem Device.passReset_twinGrads (d : Device) (l : Nat) (p : Nat → Bool) : (d.passReset l p).twinGrads = d.twinGrads := rfl
@[simp] theorem Device.passReset_regathers (d : Device) (l : Nat) (p : Nat → Bool) : (d.passReset l p).regathers = d.regathers := rfl
@[simp] theorem Device.passReset_solver (d : Device) (l : Nat) (p : Nat → Bool) : (d.passReset l p).solver = d.solver := rfl
@[simp] theorem Device.passReset_dma (d : Device) (l : Nat) (p : Nat → Bool) : (d.passReset l p).dma = d.dma := rfl
@[simp] theorem Device.passReset_events (d : Device) (l : Nat) (p : Nat → Bool) : (d.passReset l p).events = d.events := rfl
@[simp] theorem Device.passReset_power (d : Device) (l : Nat) (p : Nat → Bool) : (d.passReset l p).power = d.power := rfl
@[simp] theorem Device.passReset_hosts (d : Device) (l : Nat) (p : Nat → Bool) : (d.passReset l p).hosts = d.hosts := rfl
@[simp] theorem Device.passReset_links (d : Device) (l : Nat) (p : Nat → Bool) : (d.passReset l p).links = d.links := rfl
@[simp] theorem Device.passReset_mem (d : Device) (l : Nat) (p : Nat → Bool) : (d.passReset l p).mem = d.mem := rfl
@[simp] theorem Device.passReset_ctr (d : Device) (l : Nat) (p : Nat → Bool) : (d.passReset l p).ctr = d.ctr := rfl
@[simp] theorem Device.holdReplies_time (d : Device) (lot q : Nat) : (d.holdReplies lot q).time = d.time := by
  unfold Device.holdReplies; dsimp only; split <;> rfl
@[simp] theorem Device.holdReplies_lastFetch (d : Device) (lot q : Nat) : (d.holdReplies lot q).lastFetch = d.lastFetch := by
  unfold Device.holdReplies; dsimp only; split <;> rfl
@[simp] theorem Device.holdReplies_streams (d : Device) (lot q : Nat) : (d.holdReplies lot q).streams = d.streams := by
  unfold Device.holdReplies; dsimp only; split <;> rfl
@[simp] theorem Device.holdReplies_journal (d : Device) (lot q : Nat) : (d.holdReplies lot q).journal = d.journal := by
  unfold Device.holdReplies; dsimp only; split <;> rfl
@[simp] theorem Device.holdReplies_tensors (d : Device) (lot q : Nat) : (d.holdReplies lot q).tensors = d.tensors := by
  unfold Device.holdReplies; dsimp only; split <;> rfl
@[simp] theorem Device.holdReplies_gens (d : Device) (lot q : Nat) : (d.holdReplies lot q).gens = d.gens := by
  unfold Device.holdReplies; dsimp only; split <;> rfl
@[simp] theorem Device.holdReplies_shards (d : Device) (lot q : Nat) : (d.holdReplies lot q).shards = d.shards := by
  unfold Device.holdReplies; dsimp only; split <;> rfl
@[simp] theorem Device.holdReplies_jobs (d : Device) (lot q : Nat) : (d.holdReplies lot q).jobs = d.jobs := by
  unfold Device.holdReplies; dsimp only; split <;> rfl
@[simp] theorem Device.holdReplies_arrivals (d : Device) (lot q : Nat) : (d.holdReplies lot q).arrivals = d.arrivals := by
  unfold Device.holdReplies; dsimp only; split <;> rfl
@[simp] theorem Device.holdReplies_srcRefs (d : Device) (lot q : Nat) : (d.holdReplies lot q).srcRefs = d.srcRefs := by
  unfold Device.holdReplies; dsimp only; split <;> rfl
@[simp] theorem Device.holdReplies_mirrors (d : Device) (lot q : Nat) : (d.holdReplies lot q).mirrors = d.mirrors := by
  unfold Device.holdReplies; dsimp only; split <;> rfl
@[simp] theorem Device.holdReplies_mirrorStaged (d : Device) (lot q : Nat) : (d.holdReplies lot q).mirrorStaged = d.mirrorStaged := by
  unfold Device.holdReplies; dsimp only; split <;> rfl
@[simp] theorem Device.holdReplies_mirrorFrozen (d : Device) (lot q : Nat) : (d.holdReplies lot q).mirrorFrozen = d.mirrorFrozen := by
  unfold Device.holdReplies; dsimp only; split <;> rfl
@[simp] theorem Device.holdReplies_twinGrads (d : Device) (lot q : Nat) : (d.holdReplies lot q).twinGrads = d.twinGrads := by
  unfold Device.holdReplies; dsimp only; split <;> rfl
@[simp] theorem Device.holdReplies_regathers (d : Device) (lot q : Nat) : (d.holdReplies lot q).regathers = d.regathers := by
  unfold Device.holdReplies; dsimp only; split <;> rfl
@[simp] theorem Device.holdReplies_solver (d : Device) (lot q : Nat) : (d.holdReplies lot q).solver = d.solver := by
  unfold Device.holdReplies; dsimp only; split <;> rfl
@[simp] theorem Device.holdReplies_dma (d : Device) (lot q : Nat) : (d.holdReplies lot q).dma = d.dma := by
  unfold Device.holdReplies; dsimp only; split <;> rfl
@[simp] theorem Device.holdReplies_events (d : Device) (lot q : Nat) : (d.holdReplies lot q).events = d.events := by
  unfold Device.holdReplies; dsimp only; split <;> rfl
@[simp] theorem Device.holdReplies_power (d : Device) (lot q : Nat) : (d.holdReplies lot q).power = d.power := by
  unfold Device.holdReplies; dsimp only; split <;> rfl
@[simp] theorem Device.holdReplies_hosts (d : Device) (lot q : Nat) : (d.holdReplies lot q).hosts = d.hosts := by
  unfold Device.holdReplies; dsimp only; split <;> rfl
@[simp] theorem Device.holdReplies_links (d : Device) (lot q : Nat) : (d.holdReplies lot q).links = d.links := by
  unfold Device.holdReplies; dsimp only; split <;> rfl
@[simp] theorem Device.holdReplies_mem (d : Device) (lot q : Nat) : (d.holdReplies lot q).mem = d.mem := by
  unfold Device.holdReplies; dsimp only; split <;> rfl
@[simp] theorem Device.holdReplies_observe (d : Device) (lot q : Nat) : (d.holdReplies lot q).observe = d.observe := by
  unfold Device.holdReplies; dsimp only; split <;> rfl
@[simp] theorem Device.holdReplies_ctr (d : Device) (lot q : Nat) : (d.holdReplies lot q).ctr = d.ctr := by
  unfold Device.holdReplies; dsimp only; split <;> rfl
@[simp] theorem Device.pushReply_time (d : Device) (lot q : Nat) (r : Reply) : (d.pushReply lot q r).time = d.time := by
  unfold Device.pushReply; simp
@[simp] theorem Device.pushReply_lastFetch (d : Device) (lot q : Nat) (r : Reply) : (d.pushReply lot q r).lastFetch = d.lastFetch := by
  unfold Device.pushReply; simp
@[simp] theorem Device.pushReply_streams (d : Device) (lot q : Nat) (r : Reply) : (d.pushReply lot q r).streams = d.streams := by
  unfold Device.pushReply; simp
@[simp] theorem Device.pushReply_journal (d : Device) (lot q : Nat) (r : Reply) : (d.pushReply lot q r).journal = d.journal := by
  unfold Device.pushReply; simp
@[simp] theorem Device.pushReply_tensors (d : Device) (lot q : Nat) (r : Reply) : (d.pushReply lot q r).tensors = d.tensors := by
  unfold Device.pushReply; simp
@[simp] theorem Device.pushReply_gens (d : Device) (lot q : Nat) (r : Reply) : (d.pushReply lot q r).gens = d.gens := by
  unfold Device.pushReply; simp
@[simp] theorem Device.pushReply_shards (d : Device) (lot q : Nat) (r : Reply) : (d.pushReply lot q r).shards = d.shards := by
  unfold Device.pushReply; simp
@[simp] theorem Device.pushReply_jobs (d : Device) (lot q : Nat) (r : Reply) : (d.pushReply lot q r).jobs = d.jobs := by
  unfold Device.pushReply; simp
@[simp] theorem Device.pushReply_arrivals (d : Device) (lot q : Nat) (r : Reply) : (d.pushReply lot q r).arrivals = d.arrivals := by
  unfold Device.pushReply; simp
@[simp] theorem Device.pushReply_srcRefs (d : Device) (lot q : Nat) (r : Reply) : (d.pushReply lot q r).srcRefs = d.srcRefs := by
  unfold Device.pushReply; simp
@[simp] theorem Device.pushReply_mirrors (d : Device) (lot q : Nat) (r : Reply) : (d.pushReply lot q r).mirrors = d.mirrors := by
  unfold Device.pushReply; simp
@[simp] theorem Device.pushReply_mirrorStaged (d : Device) (lot q : Nat) (r : Reply) : (d.pushReply lot q r).mirrorStaged = d.mirrorStaged := by
  unfold Device.pushReply; simp
@[simp] theorem Device.pushReply_mirrorFrozen (d : Device) (lot q : Nat) (r : Reply) : (d.pushReply lot q r).mirrorFrozen = d.mirrorFrozen := by
  unfold Device.pushReply; simp
@[simp] theorem Device.pushReply_twinGrads (d : Device) (lot q : Nat) (r : Reply) : (d.pushReply lot q r).twinGrads = d.twinGrads := by
  unfold Device.pushReply; simp
@[simp] theorem Device.pushReply_regathers (d : Device) (lot q : Nat) (r : Reply) : (d.pushReply lot q r).regathers = d.regathers := by
  unfold Device.pushReply; simp
@[simp] theorem Device.pushReply_solver (d : Device) (lot q : Nat) (r : Reply) : (d.pushReply lot q r).solver = d.solver := by
  unfold Device.pushReply; simp
@[simp] theorem Device.pushReply_dma (d : Device) (lot q : Nat) (r : Reply) : (d.pushReply lot q r).dma = d.dma := by
  unfold Device.pushReply; simp
@[simp] theorem Device.pushReply_events (d : Device) (lot q : Nat) (r : Reply) : (d.pushReply lot q r).events = d.events := by
  unfold Device.pushReply; simp
@[simp] theorem Device.pushReply_power (d : Device) (lot q : Nat) (r : Reply) : (d.pushReply lot q r).power = d.power := by
  unfold Device.pushReply; simp
@[simp] theorem Device.pushReply_hosts (d : Device) (lot q : Nat) (r : Reply) : (d.pushReply lot q r).hosts = d.hosts := by
  unfold Device.pushReply; simp
@[simp] theorem Device.pushReply_links (d : Device) (lot q : Nat) (r : Reply) : (d.pushReply lot q r).links = d.links := by
  unfold Device.pushReply; simp
@[simp] theorem Device.pushReply_mem (d : Device) (lot q : Nat) (r : Reply) : (d.pushReply lot q r).mem = d.mem := by
  unfold Device.pushReply; simp
@[simp] theorem Device.pushReply_observe (d : Device) (lot q : Nat) (r : Reply) : (d.pushReply lot q r).observe = d.observe := by
  unfold Device.pushReply; simp
@[simp] theorem Device.pushReply_ctr (d : Device) (lot q : Nat) (r : Reply) : (d.pushReply lot q r).ctr = d.ctr := by
  unfold Device.pushReply; simp
@[simp] theorem Device.finalReply_time (d : Device) (e : Entry) : (d.finalReply e).time = d.time := by
  unfold Device.finalReply; simp
@[simp] theorem Device.finalReply_lastFetch (d : Device) (e : Entry) : (d.finalReply e).lastFetch = d.lastFetch := by
  unfold Device.finalReply; simp
@[simp] theorem Device.finalReply_streams (d : Device) (e : Entry) : (d.finalReply e).streams = d.streams := by
  unfold Device.finalReply; simp
@[simp] theorem Device.finalReply_journal (d : Device) (e : Entry) : (d.finalReply e).journal = d.journal := by
  unfold Device.finalReply; simp
@[simp] theorem Device.finalReply_tensors (d : Device) (e : Entry) : (d.finalReply e).tensors = d.tensors := by
  unfold Device.finalReply; simp
@[simp] theorem Device.finalReply_gens (d : Device) (e : Entry) : (d.finalReply e).gens = d.gens := by
  unfold Device.finalReply; simp
@[simp] theorem Device.finalReply_shards (d : Device) (e : Entry) : (d.finalReply e).shards = d.shards := by
  unfold Device.finalReply; simp
@[simp] theorem Device.finalReply_jobs (d : Device) (e : Entry) : (d.finalReply e).jobs = d.jobs := by
  unfold Device.finalReply; simp
@[simp] theorem Device.finalReply_arrivals (d : Device) (e : Entry) : (d.finalReply e).arrivals = d.arrivals := by
  unfold Device.finalReply; simp
@[simp] theorem Device.finalReply_srcRefs (d : Device) (e : Entry) : (d.finalReply e).srcRefs = d.srcRefs := by
  unfold Device.finalReply; simp
@[simp] theorem Device.finalReply_mirrors (d : Device) (e : Entry) : (d.finalReply e).mirrors = d.mirrors := by
  unfold Device.finalReply; simp
@[simp] theorem Device.finalReply_mirrorStaged (d : Device) (e : Entry) : (d.finalReply e).mirrorStaged = d.mirrorStaged := by
  unfold Device.finalReply; simp
@[simp] theorem Device.finalReply_mirrorFrozen (d : Device) (e : Entry) : (d.finalReply e).mirrorFrozen = d.mirrorFrozen := by
  unfold Device.finalReply; simp
@[simp] theorem Device.finalReply_twinGrads (d : Device) (e : Entry) : (d.finalReply e).twinGrads = d.twinGrads := by
  unfold Device.finalReply; simp
@[simp] theorem Device.finalReply_regathers (d : Device) (e : Entry) : (d.finalReply e).regathers = d.regathers := by
  unfold Device.finalReply; simp
@[simp] theorem Device.finalReply_solver (d : Device) (e : Entry) : (d.finalReply e).solver = d.solver := by
  unfold Device.finalReply; simp
@[simp] theorem Device.finalReply_dma (d : Device) (e : Entry) : (d.finalReply e).dma = d.dma := by
  unfold Device.finalReply; simp
@[simp] theorem Device.finalReply_events (d : Device) (e : Entry) : (d.finalReply e).events = d.events := by
  unfold Device.finalReply; simp
@[simp] theorem Device.finalReply_power (d : Device) (e : Entry) : (d.finalReply e).power = d.power := by
  unfold Device.finalReply; simp
@[simp] theorem Device.finalReply_hosts (d : Device) (e : Entry) : (d.finalReply e).hosts = d.hosts := by
  unfold Device.finalReply; simp
@[simp] theorem Device.finalReply_links (d : Device) (e : Entry) : (d.finalReply e).links = d.links := by
  unfold Device.finalReply; simp
@[simp] theorem Device.finalReply_mem (d : Device) (e : Entry) : (d.finalReply e).mem = d.mem := by
  unfold Device.finalReply; simp
@[simp] theorem Device.finalReply_observe (d : Device) (e : Entry) : (d.finalReply e).observe = d.observe := by
  unfold Device.finalReply; simp
@[simp] theorem Device.finalReply_ctr (d : Device) (e : Entry) : (d.finalReply e).ctr = d.ctr := by
  unfold Device.finalReply; simp
@[simp] theorem Device.interimReply_time (d : Device) (e : Entry) : (d.interimReply e).time = d.time := by
  unfold Device.interimReply; simp
@[simp] theorem Device.interimReply_lastFetch (d : Device) (e : Entry) : (d.interimReply e).lastFetch = d.lastFetch := by
  unfold Device.interimReply; simp
@[simp] theorem Device.interimReply_streams (d : Device) (e : Entry) : (d.interimReply e).streams = d.streams := by
  unfold Device.interimReply; simp
@[simp] theorem Device.interimReply_journal (d : Device) (e : Entry) : (d.interimReply e).journal = d.journal := by
  unfold Device.interimReply; simp
@[simp] theorem Device.interimReply_tensors (d : Device) (e : Entry) : (d.interimReply e).tensors = d.tensors := by
  unfold Device.interimReply; simp
@[simp] theorem Device.interimReply_gens (d : Device) (e : Entry) : (d.interimReply e).gens = d.gens := by
  unfold Device.interimReply; simp
@[simp] theorem Device.interimReply_shards (d : Device) (e : Entry) : (d.interimReply e).shards = d.shards := by
  unfold Device.interimReply; simp
@[simp] theorem Device.interimReply_jobs (d : Device) (e : Entry) : (d.interimReply e).jobs = d.jobs := by
  unfold Device.interimReply; simp
@[simp] theorem Device.interimReply_arrivals (d : Device) (e : Entry) : (d.interimReply e).arrivals = d.arrivals := by
  unfold Device.interimReply; simp
@[simp] theorem Device.interimReply_srcRefs (d : Device) (e : Entry) : (d.interimReply e).srcRefs = d.srcRefs := by
  unfold Device.interimReply; simp
@[simp] theorem Device.interimReply_mirrors (d : Device) (e : Entry) : (d.interimReply e).mirrors = d.mirrors := by
  unfold Device.interimReply; simp
@[simp] theorem Device.interimReply_mirrorStaged (d : Device) (e : Entry) : (d.interimReply e).mirrorStaged = d.mirrorStaged := by
  unfold Device.interimReply; simp
@[simp] theorem Device.interimReply_mirrorFrozen (d : Device) (e : Entry) : (d.interimReply e).mirrorFrozen = d.mirrorFrozen := by
  unfold Device.interimReply; simp
@[simp] theorem Device.interimReply_twinGrads (d : Device) (e : Entry) : (d.interimReply e).twinGrads = d.twinGrads := by
  unfold Device.interimReply; simp
@[simp] theorem Device.interimReply_regathers (d : Device) (e : Entry) : (d.interimReply e).regathers = d.regathers := by
  unfold Device.interimReply; simp
@[simp] theorem Device.interimReply_solver (d : Device) (e : Entry) : (d.interimReply e).solver = d.solver := by
  unfold Device.interimReply; simp
@[simp] theorem Device.interimReply_dma (d : Device) (e : Entry) : (d.interimReply e).dma = d.dma := by
  unfold Device.interimReply; simp
@[simp] theorem Device.interimReply_events (d : Device) (e : Entry) : (d.interimReply e).events = d.events := by
  unfold Device.interimReply; simp
@[simp] theorem Device.interimReply_power (d : Device) (e : Entry) : (d.interimReply e).power = d.power := by
  unfold Device.interimReply; simp
@[simp] theorem Device.interimReply_hosts (d : Device) (e : Entry) : (d.interimReply e).hosts = d.hosts := by
  unfold Device.interimReply; simp
@[simp] theorem Device.interimReply_links (d : Device) (e : Entry) : (d.interimReply e).links = d.links := by
  unfold Device.interimReply; simp
@[simp] theorem Device.interimReply_mem (d : Device) (e : Entry) : (d.interimReply e).mem = d.mem := by
  unfold Device.interimReply; simp
@[simp] theorem Device.interimReply_observe (d : Device) (e : Entry) : (d.interimReply e).observe = d.observe := by
  unfold Device.interimReply; simp
@[simp] theorem Device.interimReply_ctr (d : Device) (e : Entry) : (d.interimReply e).ctr = d.ctr := by
  unfold Device.interimReply; simp
@[simp] theorem Device.rejectReply_time (d : Device) (lot q : Nat) (p : Bytes) (st : Status) : (d.rejectReply lot q p st).time = d.time := by
  unfold Device.rejectReply; simp
@[simp] theorem Device.rejectReply_lastFetch (d : Device) (lot q : Nat) (p : Bytes) (st : Status) : (d.rejectReply lot q p st).lastFetch = d.lastFetch := by
  unfold Device.rejectReply; simp
@[simp] theorem Device.rejectReply_streams (d : Device) (lot q : Nat) (p : Bytes) (st : Status) : (d.rejectReply lot q p st).streams = d.streams := by
  unfold Device.rejectReply; simp
@[simp] theorem Device.rejectReply_journal (d : Device) (lot q : Nat) (p : Bytes) (st : Status) : (d.rejectReply lot q p st).journal = d.journal := by
  unfold Device.rejectReply; simp
@[simp] theorem Device.rejectReply_tensors (d : Device) (lot q : Nat) (p : Bytes) (st : Status) : (d.rejectReply lot q p st).tensors = d.tensors := by
  unfold Device.rejectReply; simp
@[simp] theorem Device.rejectReply_gens (d : Device) (lot q : Nat) (p : Bytes) (st : Status) : (d.rejectReply lot q p st).gens = d.gens := by
  unfold Device.rejectReply; simp
@[simp] theorem Device.rejectReply_shards (d : Device) (lot q : Nat) (p : Bytes) (st : Status) : (d.rejectReply lot q p st).shards = d.shards := by
  unfold Device.rejectReply; simp
@[simp] theorem Device.rejectReply_jobs (d : Device) (lot q : Nat) (p : Bytes) (st : Status) : (d.rejectReply lot q p st).jobs = d.jobs := by
  unfold Device.rejectReply; simp
@[simp] theorem Device.rejectReply_arrivals (d : Device) (lot q : Nat) (p : Bytes) (st : Status) : (d.rejectReply lot q p st).arrivals = d.arrivals := by
  unfold Device.rejectReply; simp
@[simp] theorem Device.rejectReply_srcRefs (d : Device) (lot q : Nat) (p : Bytes) (st : Status) : (d.rejectReply lot q p st).srcRefs = d.srcRefs := by
  unfold Device.rejectReply; simp
@[simp] theorem Device.rejectReply_mirrors (d : Device) (lot q : Nat) (p : Bytes) (st : Status) : (d.rejectReply lot q p st).mirrors = d.mirrors := by
  unfold Device.rejectReply; simp
@[simp] theorem Device.rejectReply_mirrorStaged (d : Device) (lot q : Nat) (p : Bytes) (st : Status) : (d.rejectReply lot q p st).mirrorStaged = d.mirrorStaged := by
  unfold Device.rejectReply; simp
@[simp] theorem Device.rejectReply_mirrorFrozen (d : Device) (lot q : Nat) (p : Bytes) (st : Status) : (d.rejectReply lot q p st).mirrorFrozen = d.mirrorFrozen := by
  unfold Device.rejectReply; simp
@[simp] theorem Device.rejectReply_twinGrads (d : Device) (lot q : Nat) (p : Bytes) (st : Status) : (d.rejectReply lot q p st).twinGrads = d.twinGrads := by
  unfold Device.rejectReply; simp
@[simp] theorem Device.rejectReply_regathers (d : Device) (lot q : Nat) (p : Bytes) (st : Status) : (d.rejectReply lot q p st).regathers = d.regathers := by
  unfold Device.rejectReply; simp
@[simp] theorem Device.rejectReply_solver (d : Device) (lot q : Nat) (p : Bytes) (st : Status) : (d.rejectReply lot q p st).solver = d.solver := by
  unfold Device.rejectReply; simp
@[simp] theorem Device.rejectReply_dma (d : Device) (lot q : Nat) (p : Bytes) (st : Status) : (d.rejectReply lot q p st).dma = d.dma := by
  unfold Device.rejectReply; simp
@[simp] theorem Device.rejectReply_events (d : Device) (lot q : Nat) (p : Bytes) (st : Status) : (d.rejectReply lot q p st).events = d.events := by
  unfold Device.rejectReply; simp
@[simp] theorem Device.rejectReply_power (d : Device) (lot q : Nat) (p : Bytes) (st : Status) : (d.rejectReply lot q p st).power = d.power := by
  unfold Device.rejectReply; simp
@[simp] theorem Device.rejectReply_hosts (d : Device) (lot q : Nat) (p : Bytes) (st : Status) : (d.rejectReply lot q p st).hosts = d.hosts := by
  unfold Device.rejectReply; simp
@[simp] theorem Device.rejectReply_links (d : Device) (lot q : Nat) (p : Bytes) (st : Status) : (d.rejectReply lot q p st).links = d.links := by
  unfold Device.rejectReply; simp
@[simp] theorem Device.rejectReply_mem (d : Device) (lot q : Nat) (p : Bytes) (st : Status) : (d.rejectReply lot q p st).mem = d.mem := by
  unfold Device.rejectReply; simp
@[simp] theorem Device.rejectReply_observe (d : Device) (lot q : Nat) (p : Bytes) (st : Status) : (d.rejectReply lot q p st).observe = d.observe := by
  unfold Device.rejectReply; simp
@[simp] theorem Device.rejectReply_ctr (d : Device) (lot q : Nat) (p : Bytes) (st : Status) : (d.rejectReply lot q p st).ctr = d.ctr := by
  unfold Device.rejectReply; simp
@[simp] theorem Device.modTensor_time (d : Device) (key : Nat) (f : Tensor → Tensor) : (d.modTensor key f).time = d.time := by
  unfold Device.modTensor; split <;> rfl
@[simp] theorem Device.modTensor_queues (d : Device) (key : Nat) (f : Tensor → Tensor) : (d.modTensor key f).queues = d.queues := by
  unfold Device.modTensor; split <;> rfl
@[simp] theorem Device.modTensor_lastFetch (d : Device) (key : Nat) (f : Tensor → Tensor) : (d.modTensor key f).lastFetch = d.lastFetch := by
  unfold Device.modTensor; split <;> rfl
@[simp] theorem Device.modTensor_streams (d : Device) (key : Nat) (f : Tensor → Tensor) : (d.modTensor key f).streams = d.streams := by
  unfold Device.modTensor; split <;> rfl
@[simp] theorem Device.modTensor_journal (d : Device) (key : Nat) (f : Tensor → Tensor) : (d.modTensor key f).journal = d.journal := by
  unfold Device.modTensor; split <;> rfl
@[simp] theorem Device.modTensor_gens (d : Device) (key : Nat) (f : Tensor → Tensor) : (d.modTensor key f).gens = d.gens := by
  unfold Device.modTensor; split <;> rfl
@[simp] theorem Device.modTensor_shards (d : Device) (key : Nat) (f : Tensor → Tensor) : (d.modTensor key f).shards = d.shards := by
  unfold Device.modTensor; split <;> rfl
@[simp] theorem Device.modTensor_jobs (d : Device) (key : Nat) (f : Tensor → Tensor) : (d.modTensor key f).jobs = d.jobs := by
  unfold Device.modTensor; split <;> rfl
@[simp] theorem Device.modTensor_arrivals (d : Device) (key : Nat) (f : Tensor → Tensor) : (d.modTensor key f).arrivals = d.arrivals := by
  unfold Device.modTensor; split <;> rfl
@[simp] theorem Device.modTensor_srcRefs (d : Device) (key : Nat) (f : Tensor → Tensor) : (d.modTensor key f).srcRefs = d.srcRefs := by
  unfold Device.modTensor; split <;> rfl
@[simp] theorem Device.modTensor_mirrors (d : Device) (key : Nat) (f : Tensor → Tensor) : (d.modTensor key f).mirrors = d.mirrors := by
  unfold Device.modTensor; split <;> rfl
@[simp] theorem Device.modTensor_mirrorStaged (d : Device) (key : Nat) (f : Tensor → Tensor) : (d.modTensor key f).mirrorStaged = d.mirrorStaged := by
  unfold Device.modTensor; split <;> rfl
@[simp] theorem Device.modTensor_mirrorFrozen (d : Device) (key : Nat) (f : Tensor → Tensor) : (d.modTensor key f).mirrorFrozen = d.mirrorFrozen := by
  unfold Device.modTensor; split <;> rfl
@[simp] theorem Device.modTensor_twinGrads (d : Device) (key : Nat) (f : Tensor → Tensor) : (d.modTensor key f).twinGrads = d.twinGrads := by
  unfold Device.modTensor; split <;> rfl
@[simp] theorem Device.modTensor_regathers (d : Device) (key : Nat) (f : Tensor → Tensor) : (d.modTensor key f).regathers = d.regathers := by
  unfold Device.modTensor; split <;> rfl
@[simp] theorem Device.modTensor_solver (d : Device) (key : Nat) (f : Tensor → Tensor) : (d.modTensor key f).solver = d.solver := by
  unfold Device.modTensor; split <;> rfl
@[simp] theorem Device.modTensor_dma (d : Device) (key : Nat) (f : Tensor → Tensor) : (d.modTensor key f).dma = d.dma := by
  unfold Device.modTensor; split <;> rfl
@[simp] theorem Device.modTensor_events (d : Device) (key : Nat) (f : Tensor → Tensor) : (d.modTensor key f).events = d.events := by
  unfold Device.modTensor; split <;> rfl
@[simp] theorem Device.modTensor_power (d : Device) (key : Nat) (f : Tensor → Tensor) : (d.modTensor key f).power = d.power := by
  unfold Device.modTensor; split <;> rfl
@[simp] theorem Device.modTensor_hosts (d : Device) (key : Nat) (f : Tensor → Tensor) : (d.modTensor key f).hosts = d.hosts := by
  unfold Device.modTensor; split <;> rfl
@[simp] theorem Device.modTensor_links (d : Device) (key : Nat) (f : Tensor → Tensor) : (d.modTensor key f).links = d.links := by
  unfold Device.modTensor; split <;> rfl
@[simp] theorem Device.modTensor_mem (d : Device) (key : Nat) (f : Tensor → Tensor) : (d.modTensor key f).mem = d.mem := by
  unfold Device.modTensor; split <;> rfl
@[simp] theorem Device.modTensor_observe (d : Device) (key : Nat) (f : Tensor → Tensor) : (d.modTensor key f).observe = d.observe := by
  unfold Device.modTensor; split <;> rfl
@[simp] theorem Device.modTensor_ctr (d : Device) (key : Nat) (f : Tensor → Tensor) : (d.modTensor key f).ctr = d.ctr := by
  unfold Device.modTensor; split <;> rfl
@[simp] theorem Device.raiseRec_time (d : Device) (src kind dye : Nat) (b : Bytes) (q : Option Nat) : (d.raiseRec src kind dye b q).time = d.time := by
  unfold Device.raiseRec; cases q <;> dsimp only <;> split <;> rfl
@[simp] theorem Device.raiseRec_queues (d : Device) (src kind dye : Nat) (b : Bytes) (q : Option Nat) : (d.raiseRec src kind dye b q).queues = d.queues := by
  unfold Device.raiseRec; cases q <;> dsimp only <;> split <;> rfl
@[simp] theorem Device.raiseRec_lastFetch (d : Device) (src kind dye : Nat) (b : Bytes) (q : Option Nat) : (d.raiseRec src kind dye b q).lastFetch = d.lastFetch := by
  unfold Device.raiseRec; cases q <;> dsimp only <;> split <;> rfl
@[simp] theorem Device.raiseRec_streams (d : Device) (src kind dye : Nat) (b : Bytes) (q : Option Nat) : (d.raiseRec src kind dye b q).streams = d.streams := by
  unfold Device.raiseRec; cases q <;> dsimp only <;> split <;> rfl
@[simp] theorem Device.raiseRec_journal (d : Device) (src kind dye : Nat) (b : Bytes) (q : Option Nat) : (d.raiseRec src kind dye b q).journal = d.journal := by
  unfold Device.raiseRec; cases q <;> dsimp only <;> split <;> rfl
@[simp] theorem Device.raiseRec_tensors (d : Device) (src kind dye : Nat) (b : Bytes) (q : Option Nat) : (d.raiseRec src kind dye b q).tensors = d.tensors := by
  unfold Device.raiseRec; cases q <;> dsimp only <;> split <;> rfl
@[simp] theorem Device.raiseRec_gens (d : Device) (src kind dye : Nat) (b : Bytes) (q : Option Nat) : (d.raiseRec src kind dye b q).gens = d.gens := by
  unfold Device.raiseRec; cases q <;> dsimp only <;> split <;> rfl
@[simp] theorem Device.raiseRec_shards (d : Device) (src kind dye : Nat) (b : Bytes) (q : Option Nat) : (d.raiseRec src kind dye b q).shards = d.shards := by
  unfold Device.raiseRec; cases q <;> dsimp only <;> split <;> rfl
@[simp] theorem Device.raiseRec_jobs (d : Device) (src kind dye : Nat) (b : Bytes) (q : Option Nat) : (d.raiseRec src kind dye b q).jobs = d.jobs := by
  unfold Device.raiseRec; cases q <;> dsimp only <;> split <;> rfl
@[simp] theorem Device.raiseRec_arrivals (d : Device) (src kind dye : Nat) (b : Bytes) (q : Option Nat) : (d.raiseRec src kind dye b q).arrivals = d.arrivals := by
  unfold Device.raiseRec; cases q <;> dsimp only <;> split <;> rfl
@[simp] theorem Device.raiseRec_srcRefs (d : Device) (src kind dye : Nat) (b : Bytes) (q : Option Nat) : (d.raiseRec src kind dye b q).srcRefs = d.srcRefs := by
  unfold Device.raiseRec; cases q <;> dsimp only <;> split <;> rfl
@[simp] theorem Device.raiseRec_mirrors (d : Device) (src kind dye : Nat) (b : Bytes) (q : Option Nat) : (d.raiseRec src kind dye b q).mirrors = d.mirrors := by
  unfold Device.raiseRec; cases q <;> dsimp only <;> split <;> rfl
@[simp] theorem Device.raiseRec_mirrorStaged (d : Device) (src kind dye : Nat) (b : Bytes) (q : Option Nat) : (d.raiseRec src kind dye b q).mirrorStaged = d.mirrorStaged := by
  unfold Device.raiseRec; cases q <;> dsimp only <;> split <;> rfl
@[simp] theorem Device.raiseRec_mirrorFrozen (d : Device) (src kind dye : Nat) (b : Bytes) (q : Option Nat) : (d.raiseRec src kind dye b q).mirrorFrozen = d.mirrorFrozen := by
  unfold Device.raiseRec; cases q <;> dsimp only <;> split <;> rfl
@[simp] theorem Device.raiseRec_twinGrads (d : Device) (src kind dye : Nat) (b : Bytes) (q : Option Nat) : (d.raiseRec src kind dye b q).twinGrads = d.twinGrads := by
  unfold Device.raiseRec; cases q <;> dsimp only <;> split <;> rfl
@[simp] theorem Device.raiseRec_regathers (d : Device) (src kind dye : Nat) (b : Bytes) (q : Option Nat) : (d.raiseRec src kind dye b q).regathers = d.regathers := by
  unfold Device.raiseRec; cases q <;> dsimp only <;> split <;> rfl
@[simp] theorem Device.raiseRec_solver (d : Device) (src kind dye : Nat) (b : Bytes) (q : Option Nat) : (d.raiseRec src kind dye b q).solver = d.solver := by
  unfold Device.raiseRec; cases q <;> dsimp only <;> split <;> rfl
@[simp] theorem Device.raiseRec_dma (d : Device) (src kind dye : Nat) (b : Bytes) (q : Option Nat) : (d.raiseRec src kind dye b q).dma = d.dma := by
  unfold Device.raiseRec; cases q <;> dsimp only <;> split <;> rfl
@[simp] theorem Device.raiseRec_power (d : Device) (src kind dye : Nat) (b : Bytes) (q : Option Nat) : (d.raiseRec src kind dye b q).power = d.power := by
  unfold Device.raiseRec; cases q <;> dsimp only <;> split <;> rfl
@[simp] theorem Device.raiseRec_hosts (d : Device) (src kind dye : Nat) (b : Bytes) (q : Option Nat) : (d.raiseRec src kind dye b q).hosts = d.hosts := by
  unfold Device.raiseRec; cases q <;> dsimp only <;> split <;> rfl
@[simp] theorem Device.raiseRec_links (d : Device) (src kind dye : Nat) (b : Bytes) (q : Option Nat) : (d.raiseRec src kind dye b q).links = d.links := by
  unfold Device.raiseRec; cases q <;> dsimp only <;> split <;> rfl
@[simp] theorem Device.raiseRec_mem (d : Device) (src kind dye : Nat) (b : Bytes) (q : Option Nat) : (d.raiseRec src kind dye b q).mem = d.mem := by
  unfold Device.raiseRec; cases q <;> dsimp only <;> split <;> rfl
@[simp] theorem Device.raiseRec_observe (d : Device) (src kind dye : Nat) (b : Bytes) (q : Option Nat) : (d.raiseRec src kind dye b q).observe = d.observe := by
  unfold Device.raiseRec; cases q <;> dsimp only <;> split <;> rfl
@[simp] theorem Device.raiseRec_ctr (d : Device) (src kind dye : Nat) (b : Bytes) (q : Option Nat) : (d.raiseRec src kind dye b q).ctr = d.ctr := by
  unfold Device.raiseRec; cases q <;> dsimp only <;> split <;> rfl
@[simp] theorem Device.raiseMgmt_time (d : Device) (src kind : Nat) (b : Bytes) : (d.raiseMgmt src kind b).time = d.time := by
  unfold Device.raiseMgmt; simp
@[simp] theorem Device.raiseMgmt_queues (d : Device) (src kind : Nat) (b : Bytes) : (d.raiseMgmt src kind b).queues = d.queues := by
  unfold Device.raiseMgmt; simp
@[simp] theorem Device.raiseMgmt_lastFetch (d : Device) (src kind : Nat) (b : Bytes) : (d.raiseMgmt src kind b).lastFetch = d.lastFetch := by
  unfold Device.raiseMgmt; simp
@[simp] theorem Device.raiseMgmt_streams (d : Device) (src kind : Nat) (b : Bytes) : (d.raiseMgmt src kind b).streams = d.streams := by
  unfold Device.raiseMgmt; simp
@[simp] theorem Device.raiseMgmt_journal (d : Device) (src kind : Nat) (b : Bytes) : (d.raiseMgmt src kind b).journal = d.journal := by
  unfold Device.raiseMgmt; simp
@[simp] theorem Device.raiseMgmt_tensors (d : Device) (src kind : Nat) (b : Bytes) : (d.raiseMgmt src kind b).tensors = d.tensors := by
  unfold Device.raiseMgmt; simp
@[simp] theorem Device.raiseMgmt_gens (d : Device) (src kind : Nat) (b : Bytes) : (d.raiseMgmt src kind b).gens = d.gens := by
  unfold Device.raiseMgmt; simp
@[simp] theorem Device.raiseMgmt_shards (d : Device) (src kind : Nat) (b : Bytes) : (d.raiseMgmt src kind b).shards = d.shards := by
  unfold Device.raiseMgmt; simp
@[simp] theorem Device.raiseMgmt_jobs (d : Device) (src kind : Nat) (b : Bytes) : (d.raiseMgmt src kind b).jobs = d.jobs := by
  unfold Device.raiseMgmt; simp
@[simp] theorem Device.raiseMgmt_arrivals (d : Device) (src kind : Nat) (b : Bytes) : (d.raiseMgmt src kind b).arrivals = d.arrivals := by
  unfold Device.raiseMgmt; simp
@[simp] theorem Device.raiseMgmt_srcRefs (d : Device) (src kind : Nat) (b : Bytes) : (d.raiseMgmt src kind b).srcRefs = d.srcRefs := by
  unfold Device.raiseMgmt; simp
@[simp] theorem Device.raiseMgmt_mirrors (d : Device) (src kind : Nat) (b : Bytes) : (d.raiseMgmt src kind b).mirrors = d.mirrors := by
  unfold Device.raiseMgmt; simp
@[simp] theorem Device.raiseMgmt_mirrorStaged (d : Device) (src kind : Nat) (b : Bytes) : (d.raiseMgmt src kind b).mirrorStaged = d.mirrorStaged := by
  unfold Device.raiseMgmt; simp
@[simp] theorem Device.raiseMgmt_mirrorFrozen (d : Device) (src kind : Nat) (b : Bytes) : (d.raiseMgmt src kind b).mirrorFrozen = d.mirrorFrozen := by
  unfold Device.raiseMgmt; simp
@[simp] theorem Device.raiseMgmt_twinGrads (d : Device) (src kind : Nat) (b : Bytes) : (d.raiseMgmt src kind b).twinGrads = d.twinGrads := by
  unfold Device.raiseMgmt; simp
@[simp] theorem Device.raiseMgmt_regathers (d : Device) (src kind : Nat) (b : Bytes) : (d.raiseMgmt src kind b).regathers = d.regathers := by
  unfold Device.raiseMgmt; simp
@[simp] theorem Device.raiseMgmt_solver (d : Device) (src kind : Nat) (b : Bytes) : (d.raiseMgmt src kind b).solver = d.solver := by
  unfold Device.raiseMgmt; simp
@[simp] theorem Device.raiseMgmt_dma (d : Device) (src kind : Nat) (b : Bytes) : (d.raiseMgmt src kind b).dma = d.dma := by
  unfold Device.raiseMgmt; simp
@[simp] theorem Device.raiseMgmt_power (d : Device) (src kind : Nat) (b : Bytes) : (d.raiseMgmt src kind b).power = d.power := by
  unfold Device.raiseMgmt; simp
@[simp] theorem Device.raiseMgmt_hosts (d : Device) (src kind : Nat) (b : Bytes) : (d.raiseMgmt src kind b).hosts = d.hosts := by
  unfold Device.raiseMgmt; simp
@[simp] theorem Device.raiseMgmt_links (d : Device) (src kind : Nat) (b : Bytes) : (d.raiseMgmt src kind b).links = d.links := by
  unfold Device.raiseMgmt; simp
@[simp] theorem Device.raiseMgmt_mem (d : Device) (src kind : Nat) (b : Bytes) : (d.raiseMgmt src kind b).mem = d.mem := by
  unfold Device.raiseMgmt; simp
@[simp] theorem Device.raiseMgmt_observe (d : Device) (src kind : Nat) (b : Bytes) : (d.raiseMgmt src kind b).observe = d.observe := by
  unfold Device.raiseMgmt; simp
@[simp] theorem Device.raiseMgmt_ctr (d : Device) (src kind : Nat) (b : Bytes) : (d.raiseMgmt src kind b).ctr = d.ctr := by
  unfold Device.raiseMgmt; simp
@[simp] theorem Device.raiseLot_time (d : Device) (src kind tag : Nat) (b : Bytes) : (d.raiseLot src kind tag b).time = d.time := by
  unfold Device.raiseLot; simp
@[simp] theorem Device.raiseLot_queues (d : Device) (src kind tag : Nat) (b : Bytes) : (d.raiseLot src kind tag b).queues = d.queues := by
  unfold Device.raiseLot; simp
@[simp] theorem Device.raiseLot_lastFetch (d : Device) (src kind tag : Nat) (b : Bytes) : (d.raiseLot src kind tag b).lastFetch = d.lastFetch := by
  unfold Device.raiseLot; simp
@[simp] theorem Device.raiseLot_streams (d : Device) (src kind tag : Nat) (b : Bytes) : (d.raiseLot src kind tag b).streams = d.streams := by
  unfold Device.raiseLot; simp
@[simp] theorem Device.raiseLot_journal (d : Device) (src kind tag : Nat) (b : Bytes) : (d.raiseLot src kind tag b).journal = d.journal := by
  unfold Device.raiseLot; simp
@[simp] theorem Device.raiseLot_tensors (d : Device) (src kind tag : Nat) (b : Bytes) : (d.raiseLot src kind tag b).tensors = d.tensors := by
  unfold Device.raiseLot; simp
@[simp] theorem Device.raiseLot_gens (d : Device) (src kind tag : Nat) (b : Bytes) : (d.raiseLot src kind tag b).gens = d.gens := by
  unfold Device.raiseLot; simp
@[simp] theorem Device.raiseLot_shards (d : Device) (src kind tag : Nat) (b : Bytes) : (d.raiseLot src kind tag b).shards = d.shards := by
  unfold Device.raiseLot; simp
@[simp] theorem Device.raiseLot_jobs (d : Device) (src kind tag : Nat) (b : Bytes) : (d.raiseLot src kind tag b).jobs = d.jobs := by
  unfold Device.raiseLot; simp
@[simp] theorem Device.raiseLot_arrivals (d : Device) (src kind tag : Nat) (b : Bytes) : (d.raiseLot src kind tag b).arrivals = d.arrivals := by
  unfold Device.raiseLot; simp
@[simp] theorem Device.raiseLot_srcRefs (d : Device) (src kind tag : Nat) (b : Bytes) : (d.raiseLot src kind tag b).srcRefs = d.srcRefs := by
  unfold Device.raiseLot; simp
@[simp] theorem Device.raiseLot_mirrors (d : Device) (src kind tag : Nat) (b : Bytes) : (d.raiseLot src kind tag b).mirrors = d.mirrors := by
  unfold Device.raiseLot; simp
@[simp] theorem Device.raiseLot_mirrorStaged (d : Device) (src kind tag : Nat) (b : Bytes) : (d.raiseLot src kind tag b).mirrorStaged = d.mirrorStaged := by
  unfold Device.raiseLot; simp
@[simp] theorem Device.raiseLot_mirrorFrozen (d : Device) (src kind tag : Nat) (b : Bytes) : (d.raiseLot src kind tag b).mirrorFrozen = d.mirrorFrozen := by
  unfold Device.raiseLot; simp
@[simp] theorem Device.raiseLot_twinGrads (d : Device) (src kind tag : Nat) (b : Bytes) : (d.raiseLot src kind tag b).twinGrads = d.twinGrads := by
  unfold Device.raiseLot; simp
@[simp] theorem Device.raiseLot_regathers (d : Device) (src kind tag : Nat) (b : Bytes) : (d.raiseLot src kind tag b).regathers = d.regathers := by
  unfold Device.raiseLot; simp
@[simp] theorem Device.raiseLot_solver (d : Device) (src kind tag : Nat) (b : Bytes) : (d.raiseLot src kind tag b).solver = d.solver := by
  unfold Device.raiseLot; simp
@[simp] theorem Device.raiseLot_dma (d : Device) (src kind tag : Nat) (b : Bytes) : (d.raiseLot src kind tag b).dma = d.dma := by
  unfold Device.raiseLot; simp
@[simp] theorem Device.raiseLot_power (d : Device) (src kind tag : Nat) (b : Bytes) : (d.raiseLot src kind tag b).power = d.power := by
  unfold Device.raiseLot; simp
@[simp] theorem Device.raiseLot_hosts (d : Device) (src kind tag : Nat) (b : Bytes) : (d.raiseLot src kind tag b).hosts = d.hosts := by
  unfold Device.raiseLot; simp
@[simp] theorem Device.raiseLot_links (d : Device) (src kind tag : Nat) (b : Bytes) : (d.raiseLot src kind tag b).links = d.links := by
  unfold Device.raiseLot; simp
@[simp] theorem Device.raiseLot_mem (d : Device) (src kind tag : Nat) (b : Bytes) : (d.raiseLot src kind tag b).mem = d.mem := by
  unfold Device.raiseLot; simp
@[simp] theorem Device.raiseLot_observe (d : Device) (src kind tag : Nat) (b : Bytes) : (d.raiseLot src kind tag b).observe = d.observe := by
  unfold Device.raiseLot; simp
@[simp] theorem Device.raiseLot_ctr (d : Device) (src kind tag : Nat) (b : Bytes) : (d.raiseLot src kind tag b).ctr = d.ctr := by
  unfold Device.raiseLot; simp
@[simp] theorem Device.raiseSelvage_time (d : Device) (src kind dye : Nat) (b : Bytes) : (d.raiseSelvage src kind dye b).time = d.time := by
  unfold Device.raiseSelvage; simp
@[simp] theorem Device.raiseSelvage_queues (d : Device) (src kind dye : Nat) (b : Bytes) : (d.raiseSelvage src kind dye b).queues = d.queues := by
  unfold Device.raiseSelvage; simp
@[simp] theorem Device.raiseSelvage_lastFetch (d : Device) (src kind dye : Nat) (b : Bytes) : (d.raiseSelvage src kind dye b).lastFetch = d.lastFetch := by
  unfold Device.raiseSelvage; simp
@[simp] theorem Device.raiseSelvage_streams (d : Device) (src kind dye : Nat) (b : Bytes) : (d.raiseSelvage src kind dye b).streams = d.streams := by
  unfold Device.raiseSelvage; simp
@[simp] theorem Device.raiseSelvage_journal (d : Device) (src kind dye : Nat) (b : Bytes) : (d.raiseSelvage src kind dye b).journal = d.journal := by
  unfold Device.raiseSelvage; simp
@[simp] theorem Device.raiseSelvage_tensors (d : Device) (src kind dye : Nat) (b : Bytes) : (d.raiseSelvage src kind dye b).tensors = d.tensors := by
  unfold Device.raiseSelvage; simp
@[simp] theorem Device.raiseSelvage_gens (d : Device) (src kind dye : Nat) (b : Bytes) : (d.raiseSelvage src kind dye b).gens = d.gens := by
  unfold Device.raiseSelvage; simp
@[simp] theorem Device.raiseSelvage_shards (d : Device) (src kind dye : Nat) (b : Bytes) : (d.raiseSelvage src kind dye b).shards = d.shards := by
  unfold Device.raiseSelvage; simp
@[simp] theorem Device.raiseSelvage_jobs (d : Device) (src kind dye : Nat) (b : Bytes) : (d.raiseSelvage src kind dye b).jobs = d.jobs := by
  unfold Device.raiseSelvage; simp
@[simp] theorem Device.raiseSelvage_arrivals (d : Device) (src kind dye : Nat) (b : Bytes) : (d.raiseSelvage src kind dye b).arrivals = d.arrivals := by
  unfold Device.raiseSelvage; simp
@[simp] theorem Device.raiseSelvage_srcRefs (d : Device) (src kind dye : Nat) (b : Bytes) : (d.raiseSelvage src kind dye b).srcRefs = d.srcRefs := by
  unfold Device.raiseSelvage; simp
@[simp] theorem Device.raiseSelvage_mirrors (d : Device) (src kind dye : Nat) (b : Bytes) : (d.raiseSelvage src kind dye b).mirrors = d.mirrors := by
  unfold Device.raiseSelvage; simp
@[simp] theorem Device.raiseSelvage_mirrorStaged (d : Device) (src kind dye : Nat) (b : Bytes) : (d.raiseSelvage src kind dye b).mirrorStaged = d.mirrorStaged := by
  unfold Device.raiseSelvage; simp
@[simp] theorem Device.raiseSelvage_mirrorFrozen (d : Device) (src kind dye : Nat) (b : Bytes) : (d.raiseSelvage src kind dye b).mirrorFrozen = d.mirrorFrozen := by
  unfold Device.raiseSelvage; simp
@[simp] theorem Device.raiseSelvage_twinGrads (d : Device) (src kind dye : Nat) (b : Bytes) : (d.raiseSelvage src kind dye b).twinGrads = d.twinGrads := by
  unfold Device.raiseSelvage; simp
@[simp] theorem Device.raiseSelvage_regathers (d : Device) (src kind dye : Nat) (b : Bytes) : (d.raiseSelvage src kind dye b).regathers = d.regathers := by
  unfold Device.raiseSelvage; simp
@[simp] theorem Device.raiseSelvage_solver (d : Device) (src kind dye : Nat) (b : Bytes) : (d.raiseSelvage src kind dye b).solver = d.solver := by
  unfold Device.raiseSelvage; simp
@[simp] theorem Device.raiseSelvage_dma (d : Device) (src kind dye : Nat) (b : Bytes) : (d.raiseSelvage src kind dye b).dma = d.dma := by
  unfold Device.raiseSelvage; simp
@[simp] theorem Device.raiseSelvage_power (d : Device) (src kind dye : Nat) (b : Bytes) : (d.raiseSelvage src kind dye b).power = d.power := by
  unfold Device.raiseSelvage; simp
@[simp] theorem Device.raiseSelvage_hosts (d : Device) (src kind dye : Nat) (b : Bytes) : (d.raiseSelvage src kind dye b).hosts = d.hosts := by
  unfold Device.raiseSelvage; simp
@[simp] theorem Device.raiseSelvage_links (d : Device) (src kind dye : Nat) (b : Bytes) : (d.raiseSelvage src kind dye b).links = d.links := by
  unfold Device.raiseSelvage; simp
@[simp] theorem Device.raiseSelvage_mem (d : Device) (src kind dye : Nat) (b : Bytes) : (d.raiseSelvage src kind dye b).mem = d.mem := by
  unfold Device.raiseSelvage; simp
@[simp] theorem Device.raiseSelvage_observe (d : Device) (src kind dye : Nat) (b : Bytes) : (d.raiseSelvage src kind dye b).observe = d.observe := by
  unfold Device.raiseSelvage; simp
@[simp] theorem Device.raiseSelvage_ctr (d : Device) (src kind dye : Nat) (b : Bytes) : (d.raiseSelvage src kind dye b).ctr = d.ctr := by
  unfold Device.raiseSelvage; simp
@[simp] theorem Device.raisePower_time (d : Device) (k b i w : Nat) : (d.raisePower k b i w).time = d.time := by
  unfold Device.raisePower; simp
@[simp] theorem Device.raisePower_queues (d : Device) (k b i w : Nat) : (d.raisePower k b i w).queues = d.queues := by
  unfold Device.raisePower; simp
@[simp] theorem Device.raisePower_lastFetch (d : Device) (k b i w : Nat) : (d.raisePower k b i w).lastFetch = d.lastFetch := by
  unfold Device.raisePower; simp
@[simp] theorem Device.raisePower_streams (d : Device) (k b i w : Nat) : (d.raisePower k b i w).streams = d.streams := by
  unfold Device.raisePower; simp
@[simp] theorem Device.raisePower_journal (d : Device) (k b i w : Nat) : (d.raisePower k b i w).journal = d.journal := by
  unfold Device.raisePower; simp
@[simp] theorem Device.raisePower_tensors (d : Device) (k b i w : Nat) : (d.raisePower k b i w).tensors = d.tensors := by
  unfold Device.raisePower; simp
@[simp] theorem Device.raisePower_gens (d : Device) (k b i w : Nat) : (d.raisePower k b i w).gens = d.gens := by
  unfold Device.raisePower; simp
@[simp] theorem Device.raisePower_shards (d : Device) (k b i w : Nat) : (d.raisePower k b i w).shards = d.shards := by
  unfold Device.raisePower; simp
@[simp] theorem Device.raisePower_jobs (d : Device) (k b i w : Nat) : (d.raisePower k b i w).jobs = d.jobs := by
  unfold Device.raisePower; simp
@[simp] theorem Device.raisePower_arrivals (d : Device) (k b i w : Nat) : (d.raisePower k b i w).arrivals = d.arrivals := by
  unfold Device.raisePower; simp
@[simp] theorem Device.raisePower_srcRefs (d : Device) (k b i w : Nat) : (d.raisePower k b i w).srcRefs = d.srcRefs := by
  unfold Device.raisePower; simp
@[simp] theorem Device.raisePower_mirrors (d : Device) (k b i w : Nat) : (d.raisePower k b i w).mirrors = d.mirrors := by
  unfold Device.raisePower; simp
@[simp] theorem Device.raisePower_mirrorStaged (d : Device) (k b i w : Nat) : (d.raisePower k b i w).mirrorStaged = d.mirrorStaged := by
  unfold Device.raisePower; simp
@[simp] theorem Device.raisePower_mirrorFrozen (d : Device) (k b i w : Nat) : (d.raisePower k b i w).mirrorFrozen = d.mirrorFrozen := by
  unfold Device.raisePower; simp
@[simp] theorem Device.raisePower_twinGrads (d : Device) (k b i w : Nat) : (d.raisePower k b i w).twinGrads = d.twinGrads := by
  unfold Device.raisePower; simp
@[simp] theorem Device.raisePower_regathers (d : Device) (k b i w : Nat) : (d.raisePower k b i w).regathers = d.regathers := by
  unfold Device.raisePower; simp
@[simp] theorem Device.raisePower_solver (d : Device) (k b i w : Nat) : (d.raisePower k b i w).solver = d.solver := by
  unfold Device.raisePower; simp
@[simp] theorem Device.raisePower_dma (d : Device) (k b i w : Nat) : (d.raisePower k b i w).dma = d.dma := by
  unfold Device.raisePower; simp
@[simp] theorem Device.raisePower_power (d : Device) (k b i w : Nat) : (d.raisePower k b i w).power = d.power := by
  unfold Device.raisePower; simp
@[simp] theorem Device.raisePower_hosts (d : Device) (k b i w : Nat) : (d.raisePower k b i w).hosts = d.hosts := by
  unfold Device.raisePower; simp
@[simp] theorem Device.raisePower_links (d : Device) (k b i w : Nat) : (d.raisePower k b i w).links = d.links := by
  unfold Device.raisePower; simp
@[simp] theorem Device.raisePower_mem (d : Device) (k b i w : Nat) : (d.raisePower k b i w).mem = d.mem := by
  unfold Device.raisePower; simp
@[simp] theorem Device.raisePower_observe (d : Device) (k b i w : Nat) : (d.raisePower k b i w).observe = d.observe := by
  unfold Device.raisePower; simp
@[simp] theorem Device.raisePower_ctr (d : Device) (k b i w : Nat) : (d.raisePower k b i w).ctr = d.ctr := by
  unfold Device.raisePower; simp
@[simp] theorem Device.raiseBoth_time (d : Device) (src kind tag : Nat) (b : Bytes) : (d.raiseBoth src kind tag b).time = d.time := by
  unfold Device.raiseBoth; split <;> simp
@[simp] theorem Device.raiseBoth_queues (d : Device) (src kind tag : Nat) (b : Bytes) : (d.raiseBoth src kind tag b).queues = d.queues := by
  unfold Device.raiseBoth; split <;> simp
@[simp] theorem Device.raiseBoth_lastFetch (d : Device) (src kind tag : Nat) (b : Bytes) : (d.raiseBoth src kind tag b).lastFetch = d.lastFetch := by
  unfold Device.raiseBoth; split <;> simp
@[simp] theorem Device.raiseBoth_streams (d : Device) (src kind tag : Nat) (b : Bytes) : (d.raiseBoth src kind tag b).streams = d.streams := by
  unfold Device.raiseBoth; split <;> simp
@[simp] theorem Device.raiseBoth_journal (d : Device) (src kind tag : Nat) (b : Bytes) : (d.raiseBoth src kind tag b).journal = d.journal := by
  unfold Device.raiseBoth; split <;> simp
@[simp] theorem Device.raiseBoth_tensors (d : Device) (src kind tag : Nat) (b : Bytes) : (d.raiseBoth src kind tag b).tensors = d.tensors := by
  unfold Device.raiseBoth; split <;> simp
@[simp] theorem Device.raiseBoth_gens (d : Device) (src kind tag : Nat) (b : Bytes) : (d.raiseBoth src kind tag b).gens = d.gens := by
  unfold Device.raiseBoth; split <;> simp
@[simp] theorem Device.raiseBoth_shards (d : Device) (src kind tag : Nat) (b : Bytes) : (d.raiseBoth src kind tag b).shards = d.shards := by
  unfold Device.raiseBoth; split <;> simp
@[simp] theorem Device.raiseBoth_jobs (d : Device) (src kind tag : Nat) (b : Bytes) : (d.raiseBoth src kind tag b).jobs = d.jobs := by
  unfold Device.raiseBoth; split <;> simp
@[simp] theorem Device.raiseBoth_arrivals (d : Device) (src kind tag : Nat) (b : Bytes) : (d.raiseBoth src kind tag b).arrivals = d.arrivals := by
  unfold Device.raiseBoth; split <;> simp
@[simp] theorem Device.raiseBoth_srcRefs (d : Device) (src kind tag : Nat) (b : Bytes) : (d.raiseBoth src kind tag b).srcRefs = d.srcRefs := by
  unfold Device.raiseBoth; split <;> simp
@[simp] theorem Device.raiseBoth_mirrors (d : Device) (src kind tag : Nat) (b : Bytes) : (d.raiseBoth src kind tag b).mirrors = d.mirrors := by
  unfold Device.raiseBoth; split <;> simp
@[simp] theorem Device.raiseBoth_mirrorStaged (d : Device) (src kind tag : Nat) (b : Bytes) : (d.raiseBoth src kind tag b).mirrorStaged = d.mirrorStaged := by
  unfold Device.raiseBoth; split <;> simp
@[simp] theorem Device.raiseBoth_mirrorFrozen (d : Device) (src kind tag : Nat) (b : Bytes) : (d.raiseBoth src kind tag b).mirrorFrozen = d.mirrorFrozen := by
  unfold Device.raiseBoth; split <;> simp
@[simp] theorem Device.raiseBoth_twinGrads (d : Device) (src kind tag : Nat) (b : Bytes) : (d.raiseBoth src kind tag b).twinGrads = d.twinGrads := by
  unfold Device.raiseBoth; split <;> simp
@[simp] theorem Device.raiseBoth_regathers (d : Device) (src kind tag : Nat) (b : Bytes) : (d.raiseBoth src kind tag b).regathers = d.regathers := by
  unfold Device.raiseBoth; split <;> simp
@[simp] theorem Device.raiseBoth_solver (d : Device) (src kind tag : Nat) (b : Bytes) : (d.raiseBoth src kind tag b).solver = d.solver := by
  unfold Device.raiseBoth; split <;> simp
@[simp] theorem Device.raiseBoth_dma (d : Device) (src kind tag : Nat) (b : Bytes) : (d.raiseBoth src kind tag b).dma = d.dma := by
  unfold Device.raiseBoth; split <;> simp
@[simp] theorem Device.raiseBoth_power (d : Device) (src kind tag : Nat) (b : Bytes) : (d.raiseBoth src kind tag b).power = d.power := by
  unfold Device.raiseBoth; split <;> simp
@[simp] theorem Device.raiseBoth_hosts (d : Device) (src kind tag : Nat) (b : Bytes) : (d.raiseBoth src kind tag b).hosts = d.hosts := by
  unfold Device.raiseBoth; split <;> simp
@[simp] theorem Device.raiseBoth_links (d : Device) (src kind tag : Nat) (b : Bytes) : (d.raiseBoth src kind tag b).links = d.links := by
  unfold Device.raiseBoth; split <;> simp
@[simp] theorem Device.raiseBoth_mem (d : Device) (src kind tag : Nat) (b : Bytes) : (d.raiseBoth src kind tag b).mem = d.mem := by
  unfold Device.raiseBoth; split <;> simp
@[simp] theorem Device.raiseBoth_observe (d : Device) (src kind tag : Nat) (b : Bytes) : (d.raiseBoth src kind tag b).observe = d.observe := by
  unfold Device.raiseBoth; split <;> simp
@[simp] theorem Device.raiseBoth_ctr (d : Device) (src kind tag : Nat) (b : Bytes) : (d.raiseBoth src kind tag b).ctr = d.ctr := by
  unfold Device.raiseBoth; split <;> simp
@[simp] theorem Device.wrapEvent_time (d : Device) (lot h i : Nat) (v : Shard) : (d.wrapEvent lot h i v).time = d.time := by
  unfold Device.wrapEvent Device.stateEvent; split <;> simp
@[simp] theorem Device.wrapEvent_queues (d : Device) (lot h i : Nat) (v : Shard) : (d.wrapEvent lot h i v).queues = d.queues := by
  unfold Device.wrapEvent Device.stateEvent; split <;> simp
@[simp] theorem Device.wrapEvent_lastFetch (d : Device) (lot h i : Nat) (v : Shard) : (d.wrapEvent lot h i v).lastFetch = d.lastFetch := by
  unfold Device.wrapEvent Device.stateEvent; split <;> simp
@[simp] theorem Device.wrapEvent_streams (d : Device) (lot h i : Nat) (v : Shard) : (d.wrapEvent lot h i v).streams = d.streams := by
  unfold Device.wrapEvent Device.stateEvent; split <;> simp
@[simp] theorem Device.wrapEvent_journal (d : Device) (lot h i : Nat) (v : Shard) : (d.wrapEvent lot h i v).journal = d.journal := by
  unfold Device.wrapEvent Device.stateEvent; split <;> simp
@[simp] theorem Device.wrapEvent_tensors (d : Device) (lot h i : Nat) (v : Shard) : (d.wrapEvent lot h i v).tensors = d.tensors := by
  unfold Device.wrapEvent Device.stateEvent; split <;> simp
@[simp] theorem Device.wrapEvent_gens (d : Device) (lot h i : Nat) (v : Shard) : (d.wrapEvent lot h i v).gens = d.gens := by
  unfold Device.wrapEvent Device.stateEvent; split <;> simp
@[simp] theorem Device.wrapEvent_shards (d : Device) (lot h i : Nat) (v : Shard) : (d.wrapEvent lot h i v).shards = d.shards := by
  unfold Device.wrapEvent Device.stateEvent; split <;> simp
@[simp] theorem Device.wrapEvent_jobs (d : Device) (lot h i : Nat) (v : Shard) : (d.wrapEvent lot h i v).jobs = d.jobs := by
  unfold Device.wrapEvent Device.stateEvent; split <;> simp
@[simp] theorem Device.wrapEvent_arrivals (d : Device) (lot h i : Nat) (v : Shard) : (d.wrapEvent lot h i v).arrivals = d.arrivals := by
  unfold Device.wrapEvent Device.stateEvent; split <;> simp
@[simp] theorem Device.wrapEvent_srcRefs (d : Device) (lot h i : Nat) (v : Shard) : (d.wrapEvent lot h i v).srcRefs = d.srcRefs := by
  unfold Device.wrapEvent Device.stateEvent; split <;> simp
@[simp] theorem Device.wrapEvent_mirrors (d : Device) (lot h i : Nat) (v : Shard) : (d.wrapEvent lot h i v).mirrors = d.mirrors := by
  unfold Device.wrapEvent Device.stateEvent; split <;> simp
@[simp] theorem Device.wrapEvent_mirrorStaged (d : Device) (lot h i : Nat) (v : Shard) : (d.wrapEvent lot h i v).mirrorStaged = d.mirrorStaged := by
  unfold Device.wrapEvent Device.stateEvent; split <;> simp
@[simp] theorem Device.wrapEvent_mirrorFrozen (d : Device) (lot h i : Nat) (v : Shard) : (d.wrapEvent lot h i v).mirrorFrozen = d.mirrorFrozen := by
  unfold Device.wrapEvent Device.stateEvent; split <;> simp
@[simp] theorem Device.wrapEvent_twinGrads (d : Device) (lot h i : Nat) (v : Shard) : (d.wrapEvent lot h i v).twinGrads = d.twinGrads := by
  unfold Device.wrapEvent Device.stateEvent; split <;> simp
@[simp] theorem Device.wrapEvent_regathers (d : Device) (lot h i : Nat) (v : Shard) : (d.wrapEvent lot h i v).regathers = d.regathers := by
  unfold Device.wrapEvent Device.stateEvent; split <;> simp
@[simp] theorem Device.wrapEvent_solver (d : Device) (lot h i : Nat) (v : Shard) : (d.wrapEvent lot h i v).solver = d.solver := by
  unfold Device.wrapEvent Device.stateEvent; split <;> simp
@[simp] theorem Device.wrapEvent_dma (d : Device) (lot h i : Nat) (v : Shard) : (d.wrapEvent lot h i v).dma = d.dma := by
  unfold Device.wrapEvent Device.stateEvent; split <;> simp
@[simp] theorem Device.wrapEvent_power (d : Device) (lot h i : Nat) (v : Shard) : (d.wrapEvent lot h i v).power = d.power := by
  unfold Device.wrapEvent Device.stateEvent; split <;> simp
@[simp] theorem Device.wrapEvent_hosts (d : Device) (lot h i : Nat) (v : Shard) : (d.wrapEvent lot h i v).hosts = d.hosts := by
  unfold Device.wrapEvent Device.stateEvent; split <;> simp
@[simp] theorem Device.wrapEvent_links (d : Device) (lot h i : Nat) (v : Shard) : (d.wrapEvent lot h i v).links = d.links := by
  unfold Device.wrapEvent Device.stateEvent; split <;> simp
@[simp] theorem Device.wrapEvent_mem (d : Device) (lot h i : Nat) (v : Shard) : (d.wrapEvent lot h i v).mem = d.mem := by
  unfold Device.wrapEvent Device.stateEvent; split <;> simp
@[simp] theorem Device.wrapEvent_observe (d : Device) (lot h i : Nat) (v : Shard) : (d.wrapEvent lot h i v).observe = d.observe := by
  unfold Device.wrapEvent Device.stateEvent; split <;> simp
@[simp] theorem Device.wrapEvent_ctr (d : Device) (lot h i : Nat) (v : Shard) : (d.wrapEvent lot h i v).ctr = d.ctr := by
  unfold Device.wrapEvent Device.stateEvent; split <;> simp
@[simp] theorem Device.addNwatch_time (d : Device) (tag k n : Nat) : (d.addNwatch tag k n).time = d.time := by
  unfold Device.addNwatch; simp only []; split <;> rfl
@[simp] theorem Device.addNwatch_queues (d : Device) (tag k n : Nat) : (d.addNwatch tag k n).queues = d.queues := by
  unfold Device.addNwatch; simp only []; split <;> rfl
@[simp] theorem Device.addNwatch_lastFetch (d : Device) (tag k n : Nat) : (d.addNwatch tag k n).lastFetch = d.lastFetch := by
  unfold Device.addNwatch; simp only []; split <;> rfl
@[simp] theorem Device.addNwatch_streams (d : Device) (tag k n : Nat) : (d.addNwatch tag k n).streams = d.streams := by
  unfold Device.addNwatch; simp only []; split <;> rfl
@[simp] theorem Device.addNwatch_journal (d : Device) (tag k n : Nat) : (d.addNwatch tag k n).journal = d.journal := by
  unfold Device.addNwatch; simp only []; split <;> rfl
@[simp] theorem Device.addNwatch_tensors (d : Device) (tag k n : Nat) : (d.addNwatch tag k n).tensors = d.tensors := by
  unfold Device.addNwatch; simp only []; split <;> rfl
@[simp] theorem Device.addNwatch_gens (d : Device) (tag k n : Nat) : (d.addNwatch tag k n).gens = d.gens := by
  unfold Device.addNwatch; simp only []; split <;> rfl
@[simp] theorem Device.addNwatch_shards (d : Device) (tag k n : Nat) : (d.addNwatch tag k n).shards = d.shards := by
  unfold Device.addNwatch; simp only []; split <;> rfl
@[simp] theorem Device.addNwatch_jobs (d : Device) (tag k n : Nat) : (d.addNwatch tag k n).jobs = d.jobs := by
  unfold Device.addNwatch; simp only []; split <;> rfl
@[simp] theorem Device.addNwatch_arrivals (d : Device) (tag k n : Nat) : (d.addNwatch tag k n).arrivals = d.arrivals := by
  unfold Device.addNwatch; simp only []; split <;> rfl
@[simp] theorem Device.addNwatch_srcRefs (d : Device) (tag k n : Nat) : (d.addNwatch tag k n).srcRefs = d.srcRefs := by
  unfold Device.addNwatch; simp only []; split <;> rfl
@[simp] theorem Device.addNwatch_mirrors (d : Device) (tag k n : Nat) : (d.addNwatch tag k n).mirrors = d.mirrors := by
  unfold Device.addNwatch; simp only []; split <;> rfl
@[simp] theorem Device.addNwatch_mirrorStaged (d : Device) (tag k n : Nat) : (d.addNwatch tag k n).mirrorStaged = d.mirrorStaged := by
  unfold Device.addNwatch; simp only []; split <;> rfl
@[simp] theorem Device.addNwatch_mirrorFrozen (d : Device) (tag k n : Nat) : (d.addNwatch tag k n).mirrorFrozen = d.mirrorFrozen := by
  unfold Device.addNwatch; simp only []; split <;> rfl
@[simp] theorem Device.addNwatch_twinGrads (d : Device) (tag k n : Nat) : (d.addNwatch tag k n).twinGrads = d.twinGrads := by
  unfold Device.addNwatch; simp only []; split <;> rfl
@[simp] theorem Device.addNwatch_regathers (d : Device) (tag k n : Nat) : (d.addNwatch tag k n).regathers = d.regathers := by
  unfold Device.addNwatch; simp only []; split <;> rfl
@[simp] theorem Device.addNwatch_solver (d : Device) (tag k n : Nat) : (d.addNwatch tag k n).solver = d.solver := by
  unfold Device.addNwatch; simp only []; split <;> rfl
@[simp] theorem Device.addNwatch_dma (d : Device) (tag k n : Nat) : (d.addNwatch tag k n).dma = d.dma := by
  unfold Device.addNwatch; simp only []; split <;> rfl
@[simp] theorem Device.addNwatch_events (d : Device) (tag k n : Nat) : (d.addNwatch tag k n).events = d.events := by
  unfold Device.addNwatch; simp only []; split <;> rfl
@[simp] theorem Device.addNwatch_power (d : Device) (tag k n : Nat) : (d.addNwatch tag k n).power = d.power := by
  unfold Device.addNwatch; simp only []; split <;> rfl
@[simp] theorem Device.addNwatch_hosts (d : Device) (tag k n : Nat) : (d.addNwatch tag k n).hosts = d.hosts := by
  unfold Device.addNwatch; simp only []; split <;> rfl
@[simp] theorem Device.addNwatch_links (d : Device) (tag k n : Nat) : (d.addNwatch tag k n).links = d.links := by
  unfold Device.addNwatch; simp only []; split <;> rfl
@[simp] theorem Device.addNwatch_mem (d : Device) (tag k n : Nat) : (d.addNwatch tag k n).mem = d.mem := by
  unfold Device.addNwatch; simp only []; split <;> rfl
@[simp] theorem Device.addNwatch_ctr (d : Device) (tag k n : Nat) : (d.addNwatch tag k n).ctr = d.ctr := by
  unfold Device.addNwatch; simp only []; split <;> rfl
@[simp] theorem Device.countCore_time (d : Device) (core ev tag n : Nat) : (d.countCore core ev tag n).time = d.time := by
  unfold Device.countCore; split <;> rfl
@[simp] theorem Device.countCore_queues (d : Device) (core ev tag n : Nat) : (d.countCore core ev tag n).queues = d.queues := by
  unfold Device.countCore; split <;> rfl
@[simp] theorem Device.countCore_lastFetch (d : Device) (core ev tag n : Nat) : (d.countCore core ev tag n).lastFetch = d.lastFetch := by
  unfold Device.countCore; split <;> rfl
@[simp] theorem Device.countCore_streams (d : Device) (core ev tag n : Nat) : (d.countCore core ev tag n).streams = d.streams := by
  unfold Device.countCore; split <;> rfl
@[simp] theorem Device.countCore_journal (d : Device) (core ev tag n : Nat) : (d.countCore core ev tag n).journal = d.journal := by
  unfold Device.countCore; split <;> rfl
@[simp] theorem Device.countCore_tensors (d : Device) (core ev tag n : Nat) : (d.countCore core ev tag n).tensors = d.tensors := by
  unfold Device.countCore; split <;> rfl
@[simp] theorem Device.countCore_gens (d : Device) (core ev tag n : Nat) : (d.countCore core ev tag n).gens = d.gens := by
  unfold Device.countCore; split <;> rfl
@[simp] theorem Device.countCore_shards (d : Device) (core ev tag n : Nat) : (d.countCore core ev tag n).shards = d.shards := by
  unfold Device.countCore; split <;> rfl
@[simp] theorem Device.countCore_jobs (d : Device) (core ev tag n : Nat) : (d.countCore core ev tag n).jobs = d.jobs := by
  unfold Device.countCore; split <;> rfl
@[simp] theorem Device.countCore_arrivals (d : Device) (core ev tag n : Nat) : (d.countCore core ev tag n).arrivals = d.arrivals := by
  unfold Device.countCore; split <;> rfl
@[simp] theorem Device.countCore_srcRefs (d : Device) (core ev tag n : Nat) : (d.countCore core ev tag n).srcRefs = d.srcRefs := by
  unfold Device.countCore; split <;> rfl
@[simp] theorem Device.countCore_mirrors (d : Device) (core ev tag n : Nat) : (d.countCore core ev tag n).mirrors = d.mirrors := by
  unfold Device.countCore; split <;> rfl
@[simp] theorem Device.countCore_mirrorStaged (d : Device) (core ev tag n : Nat) : (d.countCore core ev tag n).mirrorStaged = d.mirrorStaged := by
  unfold Device.countCore; split <;> rfl
@[simp] theorem Device.countCore_mirrorFrozen (d : Device) (core ev tag n : Nat) : (d.countCore core ev tag n).mirrorFrozen = d.mirrorFrozen := by
  unfold Device.countCore; split <;> rfl
@[simp] theorem Device.countCore_twinGrads (d : Device) (core ev tag n : Nat) : (d.countCore core ev tag n).twinGrads = d.twinGrads := by
  unfold Device.countCore; split <;> rfl
@[simp] theorem Device.countCore_regathers (d : Device) (core ev tag n : Nat) : (d.countCore core ev tag n).regathers = d.regathers := by
  unfold Device.countCore; split <;> rfl
@[simp] theorem Device.countCore_solver (d : Device) (core ev tag n : Nat) : (d.countCore core ev tag n).solver = d.solver := by
  unfold Device.countCore; split <;> rfl
@[simp] theorem Device.countCore_dma (d : Device) (core ev tag n : Nat) : (d.countCore core ev tag n).dma = d.dma := by
  unfold Device.countCore; split <;> rfl
@[simp] theorem Device.countCore_events (d : Device) (core ev tag n : Nat) : (d.countCore core ev tag n).events = d.events := by
  unfold Device.countCore; split <;> rfl
@[simp] theorem Device.countCore_power (d : Device) (core ev tag n : Nat) : (d.countCore core ev tag n).power = d.power := by
  unfold Device.countCore; split <;> rfl
@[simp] theorem Device.countCore_hosts (d : Device) (core ev tag n : Nat) : (d.countCore core ev tag n).hosts = d.hosts := by
  unfold Device.countCore; split <;> rfl
@[simp] theorem Device.countCore_links (d : Device) (core ev tag n : Nat) : (d.countCore core ev tag n).links = d.links := by
  unfold Device.countCore; split <;> rfl
@[simp] theorem Device.countCore_mem (d : Device) (core ev tag n : Nat) : (d.countCore core ev tag n).mem = d.mem := by
  unfold Device.countCore; split <;> rfl
@[simp] theorem Device.countCore_ctr (d : Device) (core ev tag n : Nat) : (d.countCore core ev tag n).ctr = d.ctr := by
  unfold Device.countCore; split <;> rfl
@[simp] theorem Device.releaseExtents_time (d : Device) (xs : List Nat) : (d.releaseExtents xs).time = d.time := by
  unfold Device.releaseExtents; refine foldl_keeps (fun x : Device => x.time) _ (fun d x => ?_) _ _; dsimp only; split
  · rfl
  · split <;> simp
@[simp] theorem Device.releaseExtents_queues (d : Device) (xs : List Nat) : (d.releaseExtents xs).queues = d.queues := by
  unfold Device.releaseExtents; refine foldl_keeps (fun x : Device => x.queues) _ (fun d x => ?_) _ _; dsimp only; split
  · rfl
  · split <;> simp
@[simp] theorem Device.releaseExtents_lastFetch (d : Device) (xs : List Nat) : (d.releaseExtents xs).lastFetch = d.lastFetch := by
  unfold Device.releaseExtents; refine foldl_keeps (fun x : Device => x.lastFetch) _ (fun d x => ?_) _ _; dsimp only; split
  · rfl
  · split <;> simp
@[simp] theorem Device.releaseExtents_streams (d : Device) (xs : List Nat) : (d.releaseExtents xs).streams = d.streams := by
  unfold Device.releaseExtents; refine foldl_keeps (fun x : Device => x.streams) _ (fun d x => ?_) _ _; dsimp only; split
  · rfl
  · split <;> simp
@[simp] theorem Device.releaseExtents_journal (d : Device) (xs : List Nat) : (d.releaseExtents xs).journal = d.journal := by
  unfold Device.releaseExtents; refine foldl_keeps (fun x : Device => x.journal) _ (fun d x => ?_) _ _; dsimp only; split
  · rfl
  · split <;> simp
@[simp] theorem Device.releaseExtents_tensors (d : Device) (xs : List Nat) : (d.releaseExtents xs).tensors = d.tensors := by
  unfold Device.releaseExtents; refine foldl_keeps (fun x : Device => x.tensors) _ (fun d x => ?_) _ _; dsimp only; split
  · rfl
  · split <;> simp
@[simp] theorem Device.releaseExtents_gens (d : Device) (xs : List Nat) : (d.releaseExtents xs).gens = d.gens := by
  unfold Device.releaseExtents; refine foldl_keeps (fun x : Device => x.gens) _ (fun d x => ?_) _ _; dsimp only; split
  · rfl
  · split <;> simp
@[simp] theorem Device.releaseExtents_shards (d : Device) (xs : List Nat) : (d.releaseExtents xs).shards = d.shards := by
  unfold Device.releaseExtents; refine foldl_keeps (fun x : Device => x.shards) _ (fun d x => ?_) _ _; dsimp only; split
  · rfl
  · split <;> simp
@[simp] theorem Device.releaseExtents_jobs (d : Device) (xs : List Nat) : (d.releaseExtents xs).jobs = d.jobs := by
  unfold Device.releaseExtents; refine foldl_keeps (fun x : Device => x.jobs) _ (fun d x => ?_) _ _; dsimp only; split
  · rfl
  · split <;> simp
@[simp] theorem Device.releaseExtents_arrivals (d : Device) (xs : List Nat) : (d.releaseExtents xs).arrivals = d.arrivals := by
  unfold Device.releaseExtents; refine foldl_keeps (fun x : Device => x.arrivals) _ (fun d x => ?_) _ _; dsimp only; split
  · rfl
  · split <;> simp
@[simp] theorem Device.releaseExtents_srcRefs (d : Device) (xs : List Nat) : (d.releaseExtents xs).srcRefs = d.srcRefs := by
  unfold Device.releaseExtents; refine foldl_keeps (fun x : Device => x.srcRefs) _ (fun d x => ?_) _ _; dsimp only; split
  · rfl
  · split <;> simp
@[simp] theorem Device.releaseExtents_mirrors (d : Device) (xs : List Nat) : (d.releaseExtents xs).mirrors = d.mirrors := by
  unfold Device.releaseExtents; refine foldl_keeps (fun x : Device => x.mirrors) _ (fun d x => ?_) _ _; dsimp only; split
  · rfl
  · split <;> simp
@[simp] theorem Device.releaseExtents_mirrorStaged (d : Device) (xs : List Nat) : (d.releaseExtents xs).mirrorStaged = d.mirrorStaged := by
  unfold Device.releaseExtents; refine foldl_keeps (fun x : Device => x.mirrorStaged) _ (fun d x => ?_) _ _; dsimp only; split
  · rfl
  · split <;> simp
@[simp] theorem Device.releaseExtents_mirrorFrozen (d : Device) (xs : List Nat) : (d.releaseExtents xs).mirrorFrozen = d.mirrorFrozen := by
  unfold Device.releaseExtents; refine foldl_keeps (fun x : Device => x.mirrorFrozen) _ (fun d x => ?_) _ _; dsimp only; split
  · rfl
  · split <;> simp
@[simp] theorem Device.releaseExtents_twinGrads (d : Device) (xs : List Nat) : (d.releaseExtents xs).twinGrads = d.twinGrads := by
  unfold Device.releaseExtents; refine foldl_keeps (fun x : Device => x.twinGrads) _ (fun d x => ?_) _ _; dsimp only; split
  · rfl
  · split <;> simp
@[simp] theorem Device.releaseExtents_regathers (d : Device) (xs : List Nat) : (d.releaseExtents xs).regathers = d.regathers := by
  unfold Device.releaseExtents; refine foldl_keeps (fun x : Device => x.regathers) _ (fun d x => ?_) _ _; dsimp only; split
  · rfl
  · split <;> simp
@[simp] theorem Device.releaseExtents_solver (d : Device) (xs : List Nat) : (d.releaseExtents xs).solver = d.solver := by
  unfold Device.releaseExtents; refine foldl_keeps (fun x : Device => x.solver) _ (fun d x => ?_) _ _; dsimp only; split
  · rfl
  · split <;> simp
@[simp] theorem Device.releaseExtents_dma (d : Device) (xs : List Nat) : (d.releaseExtents xs).dma = d.dma := by
  unfold Device.releaseExtents; refine foldl_keeps (fun x : Device => x.dma) _ (fun d x => ?_) _ _; dsimp only; split
  · rfl
  · split <;> simp
@[simp] theorem Device.releaseExtents_power (d : Device) (xs : List Nat) : (d.releaseExtents xs).power = d.power := by
  unfold Device.releaseExtents; refine foldl_keeps (fun x : Device => x.power) _ (fun d x => ?_) _ _; dsimp only; split
  · rfl
  · split <;> simp
@[simp] theorem Device.releaseExtents_hosts (d : Device) (xs : List Nat) : (d.releaseExtents xs).hosts = d.hosts := by
  unfold Device.releaseExtents; refine foldl_keeps (fun x : Device => x.hosts) _ (fun d x => ?_) _ _; dsimp only; split
  · rfl
  · split <;> simp
@[simp] theorem Device.releaseExtents_links (d : Device) (xs : List Nat) : (d.releaseExtents xs).links = d.links := by
  unfold Device.releaseExtents; refine foldl_keeps (fun x : Device => x.links) _ (fun d x => ?_) _ _; dsimp only; split
  · rfl
  · split <;> simp
@[simp] theorem Device.releaseExtents_observe (d : Device) (xs : List Nat) : (d.releaseExtents xs).observe = d.observe := by
  unfold Device.releaseExtents; refine foldl_keeps (fun x : Device => x.observe) _ (fun d x => ?_) _ _; dsimp only; split
  · rfl
  · split <;> simp
@[simp] theorem Device.releaseExtents_ctr (d : Device) (xs : List Nat) : (d.releaseExtents xs).ctr = d.ctr := by
  unfold Device.releaseExtents; refine foldl_keeps (fun x : Device => x.ctr) _ (fun d x => ?_) _ _; dsimp only; split
  · rfl
  · split <;> simp
@[simp] theorem Device.sweepOrphans_time (d : Device) : (d.sweepOrphans).time = d.time := by
  unfold Device.sweepOrphans; simp
@[simp] theorem Device.sweepOrphans_queues (d : Device) : (d.sweepOrphans).queues = d.queues := by
  unfold Device.sweepOrphans; simp
@[simp] theorem Device.sweepOrphans_lastFetch (d : Device) : (d.sweepOrphans).lastFetch = d.lastFetch := by
  unfold Device.sweepOrphans; simp
@[simp] theorem Device.sweepOrphans_streams (d : Device) : (d.sweepOrphans).streams = d.streams := by
  unfold Device.sweepOrphans; simp
@[simp] theorem Device.sweepOrphans_journal (d : Device) : (d.sweepOrphans).journal = d.journal := by
  unfold Device.sweepOrphans; simp
@[simp] theorem Device.sweepOrphans_tensors (d : Device) : (d.sweepOrphans).tensors = d.tensors := by
  unfold Device.sweepOrphans; simp
@[simp] theorem Device.sweepOrphans_gens (d : Device) : (d.sweepOrphans).gens = d.gens := by
  unfold Device.sweepOrphans; simp
@[simp] theorem Device.sweepOrphans_shards (d : Device) : (d.sweepOrphans).shards = d.shards := by
  unfold Device.sweepOrphans; simp
@[simp] theorem Device.sweepOrphans_jobs (d : Device) : (d.sweepOrphans).jobs = d.jobs := by
  unfold Device.sweepOrphans; simp
@[simp] theorem Device.sweepOrphans_arrivals (d : Device) : (d.sweepOrphans).arrivals = d.arrivals := by
  unfold Device.sweepOrphans; simp
@[simp] theorem Device.sweepOrphans_srcRefs (d : Device) : (d.sweepOrphans).srcRefs = d.srcRefs := by
  unfold Device.sweepOrphans; simp
@[simp] theorem Device.sweepOrphans_mirrors (d : Device) : (d.sweepOrphans).mirrors = d.mirrors := by
  unfold Device.sweepOrphans; simp
@[simp] theorem Device.sweepOrphans_mirrorStaged (d : Device) : (d.sweepOrphans).mirrorStaged = d.mirrorStaged := by
  unfold Device.sweepOrphans; simp
@[simp] theorem Device.sweepOrphans_mirrorFrozen (d : Device) : (d.sweepOrphans).mirrorFrozen = d.mirrorFrozen := by
  unfold Device.sweepOrphans; simp
@[simp] theorem Device.sweepOrphans_twinGrads (d : Device) : (d.sweepOrphans).twinGrads = d.twinGrads := by
  unfold Device.sweepOrphans; simp
@[simp] theorem Device.sweepOrphans_regathers (d : Device) : (d.sweepOrphans).regathers = d.regathers := by
  unfold Device.sweepOrphans; simp
@[simp] theorem Device.sweepOrphans_solver (d : Device) : (d.sweepOrphans).solver = d.solver := by
  unfold Device.sweepOrphans; simp
@[simp] theorem Device.sweepOrphans_dma (d : Device) : (d.sweepOrphans).dma = d.dma := by
  unfold Device.sweepOrphans; simp
@[simp] theorem Device.sweepOrphans_power (d : Device) : (d.sweepOrphans).power = d.power := by
  unfold Device.sweepOrphans; simp
@[simp] theorem Device.sweepOrphans_hosts (d : Device) : (d.sweepOrphans).hosts = d.hosts := by
  unfold Device.sweepOrphans; simp
@[simp] theorem Device.sweepOrphans_links (d : Device) : (d.sweepOrphans).links = d.links := by
  unfold Device.sweepOrphans; simp
@[simp] theorem Device.sweepOrphans_observe (d : Device) : (d.sweepOrphans).observe = d.observe := by
  unfold Device.sweepOrphans; simp
@[simp] theorem Device.sweepOrphans_ctr (d : Device) : (d.sweepOrphans).ctr = d.ctr := by
  unfold Device.sweepOrphans; simp

/-! ### Reads after updates -/

@[simp] theorem Device.queue_setQueue (d : Device) (l q l' q' : Nat) (v : SubQueue) :
    (d.setQueue l q v).queue l' q' = if queueKey l' q' = queueKey l q then v else d.queue l' q' := Tab.look_put _ _ _ _ _

@[simp] theorem Device.stream_setStream (d : Device) (i j : Nat) (v : Stream) :
    (d.setStream i v).stream j = if j = i then v else d.stream j := Tab.look_put _ _ _ _ _

@[simp] theorem Device.job_setJob (d : Device) (i j : Nat) (v : Job) :
    (d.setJob i v).job j = if j = i then v else d.job j := Tab.look_put _ _ _ _ _

@[simp] theorem Device.lotState_setLotState (d : Device) (i j : Nat) (v : LotState) :
    (d.setLotState i v).lotState j = if j = i then v else d.lotState j := Tab.look_put _ _ _ _ _

@[simp] theorem Device.attachment_setAttachment (d : Device) (i j : Nat) (v : Attachment) :
    (d.setAttachment i v).attachment j = if j = i then v else d.attachment j := Tab.look_put _ _ _ _ _

@[simp] theorem Device.port_setPort (d : Device) (i j : Nat) (v : Port) :
    (d.setPort i v).port j = if j = i then v else d.port j := Tab.look_put _ _ _ _ _

@[simp] theorem Device.channel_setChannel (d : Device) (i j : Nat) (v : DmaChannel) :
    (d.setChannel i v).channel j = if j = i then v else d.channel j := Tab.look_put _ _ _ _ _

@[simp] theorem Device.unit_setUnit (d : Device) (i j : Nat) (v : SolverUnit) :
    (d.setUnit i v).unit j = if j = i then v else d.unit j := Tab.look_put _ _ _ _ _

@[simp] theorem Device.evq_setEvq (d : Device) (i j : Nat) (v : EventQueue) :
    (d.setEvq i v).evq j = if j = i then v else d.evq j := Tab.look_put _ _ _ _ _

@[simp] theorem Device.source_setSource (d : Device) (i j : Nat) (v : EventSource) :
    (d.setSource i v).source j = if j = i then v else d.source j := Tab.look_put _ _ _ _ _

@[simp] theorem Device.cluster_setCluster (d : Device) (i j : Nat) (v : Domain) :
    (d.setCluster i v).cluster j = if j = i then v else d.cluster j := Tab.look_put _ _ _ _ _

@[simp] theorem Device.coreDom_setCoreDom (d : Device) (i j : Nat) (v : Domain) :
    (d.setCoreDom i v).coreDom j = if j = i then v else d.coreDom j := Tab.look_put _ _ _ _ _

@[simp] theorem Device.stackDom_setStackDom (d : Device) (i j : Nat) (v : Domain) :
    (d.setStackDom i v).stackDom j = if j = i then v else d.stackDom j := Tab.look_put _ _ _ _ _

@[simp] theorem Device.tensor_modTensor (d : Device) (key k : Nat) (f : Tensor → Tensor) :
    (d.modTensor key f).tensor k = if k = key then (d.tensor key).map f else d.tensor k := by
  unfold Device.modTensor Device.tensor
  split <;> simp_all <;> split <;> simp_all

/-- The journal entry of a number after one entry was changed by a function that keeps its number. -/
theorem Device.entry_modEntry (d : Device) (id k : Nat) (f : Entry → Entry) (hf : ∀ e, e.id = id → (f e).id = id) :
    (d.modEntry id f).entry k = if k = id then (d.entry id).map f else d.entry k := by
  unfold Device.modEntry Device.entry
  dsimp only
  generalize d.journal = l
  induction l with
  | nil => simp
  | cons x t ih =>
    by_cases hx : x.id = id
    · have := hf x hx
      by_cases hk : k = id
      · subst hk; simp_all
      · simp only [List.map_cons, hx, if_true, List.find?_cons, this]
        have h1 : ¬ id = k := fun h => hk h.symm
        simp_all
    · simp only [List.map_cons, hx, if_false, List.find?_cons]
      by_cases hk : k = id
      · subst hk; simp_all
      · simp_all

/-- A command that is staged has been executed, with its result words. -/
theorem Device.executed_stageOk (d : Device) (id r0 r1 : Nat) (h : (d.entry id).isSome = true) : Executed (d.stageOk id r0 r1) id r0 r1 := by
  obtain ⟨e, he⟩ := Option.isSome_iff_exists.mp h
  unfold Executed Device.stageOk
  rw [Device.entry_modEntry _ _ _ _ (by intro e h; exact h), if_pos rfl, he]
  refine ⟨_, rfl, rfl, ?_, rfl, rfl⟩
  dsimp only
  split
  · rfl
  · split <;> rfl

end Sys2Proof.Machine
end

