-- ==== Sys2Proof/Laws/Journal.lean ====
section
/-!
SUPPORT. What the operations that every opcode shares can do: the command that a row acts on, the run of its meaning, its failure, the lookup of a
handle, and the run of an engine's work on a core.
-/
namespace Sys2Proof.Machine

/-- A handle that names a tensor for new commands, and named it at a command's dispatch, names it for the command (R37, R49, R50). -/
theorem Device.find_of_lookup {d : Device} {e : Entry} {h : Nat} {x : Nat × Tensor} (hl : d.lookup e.lot h = some x)
    (ht : e.tensors.contains x.1 = true) : d.find e h = .ok x := by
  revert hl
  unfold Device.lookup Device.find
  simp only
  split
  · intro hl
    split at hl
    · rename_i hc
      simp only [Bool.and_eq_true] at hc
      cases hl
      simp_all
    · cases hl
  · intro hl; cases hl

/-- The command that a row acts on is in the journal, is dispatched, and has the row's opcode. -/
theorem Device.ready_spec {d : Device} {st : Nat} {op : Opcode} {e : Entry} (h : d.ready st op = some e) :
    e ∈ d.journal ∧ e.stream = st ∧ e.phase = .dispatched ∧ e.op = op := by
  unfold Device.ready at h
  split at h
  · rename_i x xs hx
    split at h
    · rename_i hc
      cases h
      have hm : e ∈ d.streamEntries st :=
        (List.dropWhile_sublist _).subset (hx ▸ List.mem_cons_self)
      simp only [Device.streamEntries, List.mem_filter] at hm
      simp only [Bool.and_eq_true, decide_eq_true_eq] at hc hm
      exact ⟨hm.1, hm.2, hc.1, hc.2⟩
    · cases h
  · cases h

/-- The command that a row acts on has an entry under its number. -/
theorem Device.ready_entry {d : Device} {st : Nat} {op : Opcode} {e : Entry} (h : d.ready st op = some e) : (d.entry e.id).isSome = true := by
  unfold Device.entry
  rw [List.find?_isSome]
  exact ⟨e, (Device.ready_spec h).1, by simp⟩

/-- A run whose meaning completes stages the command with its result words. -/
theorem Device.runOp_ok {d d1 : Device} {st r0 r1 : Nat} {op : Opcode} {e : Entry} {body : Entry → Device → Res (Nat × Nat × Device)}
    (hr : d.running = true) (hd : d.ready st op = some e) (hb : body e d = .ok (r0, r1, d1)) : d.runOp st op body = d1.stageOk e.id r0 r1 := by
  simp [Device.runOp, hr, hd, hb]

/-- A run whose meaning fails fails the command. -/
theorem Device.runOp_fail {d d1 : Device} {st : Nat} {op : Opcode} {e : Entry} {s : Status} {body : Entry → Device → Res (Nat × Nat × Device)}
    (hr : d.running = true) (hd : d.ready st op = some e) (hb : body e d = .error (.fail s d1)) : d.runOp st op body = d1.failEntry e.id s := by
  simp [Device.runOp, hr, hd, hb]

/-- A run whose meaning waits leaves the command dispatched, with what it waits for. -/
theorem Device.runOp_wait {d d1 : Device} {st : Nat} {op : Opcode} {e : Entry} {w : Wait} {body : Entry → Device → Res (Nat × Nat × Device)}
    (hr : d.running = true) (hd : d.ready st op = some e) (hb : body e d = .error (.wait w d1)) :
    d.runOp st op body = d1.modEntry e.id fun e => { e with wait := w } := by
  simp [Device.runOp, hr, hd, hb]

/-- A run where no command of the opcode is ready does nothing. -/
theorem Device.runOp_none {d : Device} {st : Nat} {op : Opcode} {body : Entry → Device → Res (Nat × Nat × Device)}
    (h : d.running = false ∨ d.ready st op = none) : d.runOp st op body = d := by
  unfold Device.runOp
  rcases h with h | h <;> simp [h]

/-- A command that is staged with a good status keeps its result words. -/
theorem Device.markFailure_stageOk (d : Device) (id r0 r1 : Nat) : (d.stageOk id r0 r1).markFailure id = d.stageOk id r0 r1 := by
  unfold Device.markFailure Device.stageOk Device.modEntry
  simp only [List.map_map]
  congr 1
  apply List.map_congr_left
  intro a _
  simp only [Function.comp]
  split
  · simp_all
    intro h
    exfalso
    revert h
    split
    · decide
    · split <;> decide
  · simp_all

/-- The record of a command that fails: staged with its status, without staging and without results. -/
def Entry.failed (e : Entry) (st : Status) : Entry :=
  { e with staging := [], shards := [], twins := [], extents := [], claims := [], status := st, phase := .staged, wait := .nothing, result0 := 0, result1 := 0 }

/-- What dropping a command's staging leaves in the journal. -/
theorem Device.dropStaging_journal (d : Device) (id : Nat) :
    (d.dropStaging id).journal = (d.modEntry id fun e => { e with staging := [], shards := [], twins := [], extents := [], claims := [] }).journal := by
  unfold Device.dropStaging
  split
  · rename_i h
    unfold Device.entry at h
    simp only [List.find?_eq_none, decide_eq_true_eq] at h
    simp only [Device.modEntry]
    symm
    conv => rhs; rw [← List.map_id d.journal]
    apply List.map_congr_left
    intro a ha
    simp [h a ha]
  · simp

/-- A failure of one command: its record is that of a failed command, and every other record is as it was. -/
theorem Device.entry_failOne (d : Device) (id k : Nat) (st : Status) :
    (d.failOne id st).entry k = if k = id then (d.entry id).map fun e => e.failed st else d.entry k := by
  have h : ∀ (d1 : Device) (j : Nat), d1.journal = d.journal → (d1.dropStaging id).entry j
      = if j = id then (d.entry id).map fun e => { e with staging := [], shards := [], twins := [], extents := [], claims := [] } else d.entry j := by
    intro d1 j hj
    have e1 : (d1.dropStaging id).entry j
        = (d1.modEntry id fun e => { e with staging := [], shards := [], twins := [], extents := [], claims := [] }).entry j := by
      unfold Device.entry; rw [Device.dropStaging_journal]
    rw [e1, Device.entry_modEntry]
    case hf => intro e h; exact h
    unfold Device.entry; rw [hj]
  unfold Device.failOne
  rw [Device.entry_modEntry]
  case hf => intro e h; exact h
  simp only
  rw [h, h, if_pos rfl]
  · split
    · simp [Option.map_map, Function.comp_def, Entry.failed]
    · rfl
  · rfl
  · rfl

/-- The failures of several commands leave the record of another as it was. -/
theorem Device.entry_failAll (es : List Entry) (f : Entry → Status) (d : Device) (k : Nat) (h : ∀ x ∈ es, x.id ≠ k) :
    (es.foldl (fun d x => d.failOne x.id (f x)) d).entry k = d.entry k := by
  induction es generalizing d with
  | nil => rfl
  | cons a t ih =>
    simp only [List.foldl_cons]
    rw [ih _ fun x hx => h x (List.mem_cons_of_mem _ hx), Device.entry_failOne, if_neg (Ne.symm (h a List.mem_cons_self))]

/-- What `failEntry` leaves of the command that fails: its record is that of a failed command. -/
theorem Device.entry_failEntry {d : Device} {id : Nat} {st : Status} {e : Entry} (h : d.entry id = some e) :
    (d.failEntry id st).entry id = some (e.failed st) := by
  have hid : e.id = id := by
    unfold Device.entry at h; simpa using List.find?_some h
  have h1 : (d.failOne id st).entry id = some (e.failed st) := by simp [Device.entry_failOne, h]
  have later : ∀ (d1 : Device), ∀ x ∈ d1.laterEntries e, x.id ≠ id := by
    intro d1 x hx
    simp only [Device.laterEntries, List.mem_filter, decide_eq_true_eq] at hx
    omega
  unfold Device.failEntry
  simp only [h]
  split
  · rw [Device.entry_failAll _ (fun _ => .eStreamState) _ _ fun x hx => later _ x (List.mem_filter.1 hx).1]
    exact h1
  · split
    · exact h1
    · split
      · exact h1
      · rw [Device.entry_failAll _ (fun _ => .ePriorFailed) _ _ fun x hx => later _ x (List.mem_filter.1 hx).1]
        exact h1

/-- What `failOne` leaves of the streams: all of them. -/
theorem Device.failOne_streams (d : Device) (id : Nat) (st : Status) : (d.failOne id st).streams = d.streams := by
  unfold Device.failOne Device.dropStaging
  simp only
  split <;> simp [Device.modEntry]

/-- A failure halts the command's stream (R58), that of a STREAM_OPEN and of a STREAM_CLOSE apart. -/
theorem Device.failEntry_halts {d : Device} {id : Nat} {st : Status} {e : Entry} (h : d.entry id = some e) (ho : e.op ≠ .streamOpen)
    (hc : e.op ≠ .streamClose) (hs : st.good = false) :
    (d.failEntry id st).stream e.stream = { d.stream e.stream with haltedBy := some id } := by
  have fold : ∀ (es : List Entry) (d1 : Device), (es.foldl (fun d x => d.failOne x.id .ePriorFailed) d1).streams = d1.streams := by
    intro es
    induction es with
    | nil => intro d1; rfl
    | cons a t ih => intro d1; simp only [List.foldl_cons]; rw [ih, Device.failOne_streams]
  unfold Device.failEntry
  simp only [h, ho, hc, hs, if_false, Bool.false_eq_true]
  have e1 : ∀ (d1 d2 : Device) (i : Nat), d1.streams = d2.streams → d1.stream i = d2.stream i := by
    intro d1 d2 i hd; unfold Device.stream; rw [hd]
  rw [e1 _ _ _ (fold _ _)]
  simp only [Device.stream_setStream, if_true]
  rw [e1 _ _ _ (Device.failOne_streams d id st)]

/-! ### The engines of a core -/

/-- An engine's work that succeeds on a core that runs a launch. -/
theorem State.onCore_ok {s t : State} {core : CoreId} {e : Entry} {body : Entry → State → Except Status State} (h : Runs s core e)
    (hb : body e s = .ok t) : s.onCore core body = t := by
  simp [State.onCore, h.1, h.2, hb]

/-- An engine's work that fails on a core that runs a launch fails the launch. -/
theorem State.onCore_fail {s : State} {core : CoreId} {e : Entry} {st : Status} {body : Entry → State → Except Status State} (h : Runs s core e)
    (hb : body e s = .error st) : s.onCore core body = s.failKernel e.id core st := by
  simp [State.onCore, h.1, h.2, hb]

/-- The launch that a core runs has its record in the journal, and is dispatched. -/
theorem State.kernelOf_spec {s : State} {core : Nat} {e : Entry} (h : s.kernelOf core = some e) :
    s.dev.entry e.id = some e ∧ e.phase = .dispatched ∧ (s.eng.core core).kernel = some e.id := by
  unfold State.kernelOf at h
  split at h
  · rename_i id hk
    simp only [Option.filter_eq_some_iff, decide_eq_true_eq] at h
    have hid : e.id = id := by
      have := h.1; unfold Device.entry at this; simpa using List.find?_some this
    subst hid
    exact ⟨h.1, h.2, hk⟩
  · cases h

/-! ### Bytes -/

/-- The number of bytes that a read gives. -/
@[simp] theorem readBytes_length (m : List Host.Cell) (a n : Nat) : (readBytes m a n).length = n := by
  induction n generalizing a with
  | zero => rfl
  | succ n ih => simp [readBytes, ih]

/-- Each byte of a read is the byte of the memory. -/
theorem readBytes_getD (m : List Host.Cell) (a n i : Nat) (h : i < n) : (readBytes m a n).getD i 0 = readByte m (a + i) := by
  induction n generalizing a i with
  | zero => omega
  | succ n ih =>
    cases i with
    | zero => simp [readBytes]
    | succ i => simp only [readBytes, List.getD_cons_succ]; rw [ih _ _ (by omega)]; congr 1; omega

/-- Bytes just written are read back. -/
theorem readBytes_writeBytes (m : List Host.Cell) (a : Nat) (bs : Bytes) : readBytes (writeBytes m a bs) a bs.length = bs := by
  apply List.ext_getElem
  · simp
  · intro i h1 h2
    have h3 := readBytes_getD (writeBytes m a bs) a bs.length i h2
    rw [readByte_writeBytes, if_pos (by omega)] at h3
    simp only [Nat.add_sub_cancel_left] at h3
    simp only [List.getD_eq_getElem?_getD, List.getElem?_eq_getElem h1, List.getElem?_eq_getElem h2, Option.getD_some] at h3
    exact h3

end Sys2Proof.Machine
end

