-- ==== Sys2Proof/Tests/Slice0.lean ====
section
/-!
SUPPORT. Tests of single commands on small states, the refusal of ill-formed commands, and for every statement with hypotheses a state and
operands that meet them. Expected results are worked by hand from the manual.
-/
open Sys2Proof Sys2Proof.Machine
set_option maxRecDepth 20000
set_option exponentiation.threshold 2000

namespace Sys2Proof.Tests

/-! ### Small states -/

/-- A packet with fields at offsets: offset, bytes, value. -/
def pk (fs : List (Nat × Nat × Nat)) : Bytes := fs.foldl (fun b f => wrAt b f.1 (toLE f.2.1 f.2.2)) (zeros 64)

/-- The power block of a Ready device. -/
def up : Power := { locked := true, coldDue := false, stage := 7 }

/-- Lots 0 and 1, with 4 queues, 8 streams and a quota of 16 MiB each. -/
def lotTable : List LotEntry :=
  [{ valid := true, queues := 4, streamBase := 0, streamCount := 8 },
   { valid := true, tag := 1, queues := 4, streamBase := 8, streamCount := 8, memQuota := 2 ^ 24, pinQuota := 2 ^ 24, scratchMib := 1
     solverShare := 4, solveMax := 8, statsMax := 8, hubDma := 3, auxPorts := 1 }]

/-- A Ready device with an attached host that holds the management role and configuration version 1. -/
def dev0 : Device :=
  { power := up
    hosts := { version := 1, installed := true, holder := some 0, image := { lots := lotTable }
               attaches := [(0, { link := 2, perst := true, ready := true, hostVer := 1 })] } }

/-- A dispatched command of stream 9 of lot 1. -/
def cmd (op : Opcode) (fs : List (Nat × Nat × Nat)) : Entry :=
  { id := 1, lot := 1, queue := 0, stream := 9, seq := 5, op := op, packet := pk ((12, 2, 1) :: fs), phase := .dispatched }

/-- A Ready device on which that command is first in its stream. -/
def on (e : Entry) (d : Device := dev0) : State :=
  { dev := { d with journal := [e], streams := [(9, { state := .enabled, queue := some (1, 0), job := 3 })] } }

/-- A tensor of 4 KiB of FP32 in lot 1, index 7, generation 2. -/
def tensor7 : Tensor := { gen := 2, committed := true, fmt := .fp32, dims := [1024], size := 4096, extents := [100], job := 3 }

/-- Its handle and key. -/
def h7 : Nat := 2 * 2 ^ 24 + 7
def k7 : Nat := 2 ^ 24 + 7

/-- A Ready device with that tensor. -/
def dev7 (t : Tensor := tensor7) : Device := { dev0 with tensors := [(k7, t)], mem := { dev0.mem with owners := [(100, .lot 1)] } }

/-- The Ready device with nothing to do. -/
def dev0State : State := { dev := dev0 }

/-- A computation that ends in a value with a decidable property has such a value. -/
theorem ok_of {ε α : Type} (r : Except ε α) (f : α → Bool) (h : (match r with | .ok b => f b | .error _ => false) = true) : ∃ b, r = .ok b ∧ f b = true := by
  cases r with
  | ok b => exact ⟨b, rfl, h⟩
  | error e => cases h

/-- The same for three computations in turn. -/
theorem ok3_of {ε α β γ : Type} (r : Except ε α) (g : α → Except ε β) (h : α → β → Except ε γ)
    (p : (match r with | .ok a => (match g a with | .ok b => (match h a b with | .ok _ => true | .error _ => false) | .error _ => false) | .error _ => false)
      = true) : ∃ a b c, r = .ok a ∧ g a = .ok b ∧ h a b = .ok c := by
  split at p
  · rename_i a
    split at p
    · rename_i b hb
      split at p
      · rename_i c hc; exact ⟨a, b, c, rfl, hb, hc⟩
      · cases p
    · cases p
  · cases p

/-- An optional value with a decidable property. -/
theorem some_of {α : Type} (r : Option α) (f : α → Bool) (h : (match r with | some b => f b | none => false) = true) : ∃ b, r = some b ∧ f b = true := by
  cases r with
  | some b => exact ⟨b, rfl, h⟩
  | none => cases h

/-! ### Ill-formed commands -/

theorem test_wf_registerWrite : (Instr.registerWrite { attach := 0 } 0x00006 true 0).wf = false := by decide
theorem test_wf_registerReadClear : (Instr.registerReadClear { attach := 0 } 0x00002 false).wf = false := by decide
theorem test_wf_dmaDescriptor : (Instr.dmaDescriptor 575 {}
    (some { stream := 9, core := 8, store := 0, slot := 0, offset := 0, length := 64, toTensor := false })).wf = false := by decide
theorem test_wf_c2Entry : (Instr.c2Entry (.stack 0) none).wf = false := by decide
theorem test_wf_c3Entry : (Instr.c3Entry (.stack 0) none).wf = false := by decide
theorem test_wf_wake : (Instr.wake .package .scanHalt).wf = false := by decide
theorem test_wf_flitReceive : (Instr.flitReceive 0 { bytes := [] } true 0).wf = false := by decide
theorem test_wf_identityReceive : (Instr.identityReceive 0 []).wf = false := by decide
theorem test_wf_ledgerSramError : (Instr.ledgerSramError 2 4000 true).wf = false := by decide
theorem test_wf_reductionContribution : (Instr.reductionContribution 0 0 0 [1]).wf = false := by decide

/-- A 32-lane row operand of FP32 at an address. -/
def view (a : Nat) : OperandView := { base := a, fmt := .fp32, laneStride := 4, kStride := 1 }

theorem test_wf_matrixTile : (Instr.matrixTile 0 { rows := 0, cols := 1, depth := 1, a := view 0, b := view 64, out := { base := 128, fmt := .fp32, stride := 1 } }).wf = false := by
  decide
theorem test_wf_vectorOperation : (Instr.vectorOperation 0 { op := .add, dst := { base := 0, fmt := .fp32, extents := [4], strides := [1] }, srcs := [] }).wf = false := by
  decide
theorem test_wf_broadcastLoad : (Instr.broadcastLoad 0 [{ base := 0, fmt := .fp32, extents := [4], strides := [] }] [4]).wf = false := by decide
theorem test_wf_permute : (Instr.permute 0 { width := 3, groups := 1, src := 0, dst := 4096, index := 8192 }).wf = false := by decide
theorem test_wf_shuffle : (Instr.shuffle 0 { pattern := .reverse, width := 3, groups := 1, src := 0, dst := 4096 }).wf = false := by decide
theorem test_wf_mxUnpack : (Instr.mxUnpack 0 { fmt := .fp32, block := 32, blocks := 1, plane := 0, scales := 64, data := 128 }).wf = false := by decide
theorem test_wf_mxPack : (Instr.mxPack 0 { fmt := .mx8, block := 8, blocks := 1, plane := 0, scales := 64, data := 128 }).wf = false := by decide
theorem test_wf_sp24Pack : (Instr.sp24Pack 0 { fmt := .code, groups := 1, values := 0, meta24 := 64, data := 128 }).wf = false := by decide
theorem test_wf_sp24Unpack : (Instr.sp24Unpack 0 { fmt := .mx8, groups := 1, values := 0, meta24 := 64, data := 128 }).wf = false := by decide
theorem test_wf_interleave : (Instr.interleave 0 { width := 4, count := 1, parts := [], whole := 0 }).wf = false := by decide
theorem test_wf_deinterleave : (Instr.deinterleave 0 { width := 3, count := 1, parts := [0, 64], whole := 128 }).wf = false := by decide

/-- An atomic without operands. -/
def noAtomic : Atomic := { core := 0, stream := 9, addr := 0, kind := .w32, operands := [] }

theorem test_wf_atomics : [Instr.atomicAdd noAtomic, .atomicMin noAtomic, .atomicMax noAtomic, .atomicAnd noAtomic, .atomicOr noAtomic,
    .atomicXor noAtomic, .atomicSwap noAtomic, .atomicCas noAtomic].all (fun i => i.wf = false) = true := by decide

/-- An ill-formed command without an operation to fail changes nothing, here a flit of no bytes. -/
theorem test_illFormed_changesNothing : exec (.flitReceive 0 { bytes := [] } true 0) State.reset = .next State.reset := rfl

/-! ### Witnesses: queue, journal, streams -/

theorem witness_StepRunsFront : (step { dev0State with pending := [Instr.mctpMessage .control] }) = exec (.mctpMessage .control) dev0State := rfl
theorem witness_IdleStepTicks : dev0State.pending = [] ∧ dev0State.dev.clocked = true ∧ State.reset.dev.clocked = false := by decide
theorem witness_ExecTotal : (Instr.wf .powerOn = true ∧ (Instr.flitReceive 0 { bytes := [] } true 0).wf = false) := by decide
theorem witness_StoresStayCanonical : dev0State.eng.wf = true ∧ step dev0State = .next dev0State.tick := ⟨by decide, rfl⟩
theorem witness_MemoryStaysCanonical : dev0State.dev.mem.wf = true ∧ step dev0State = .next dev0State.tick := ⟨by decide, rfl⟩
theorem witness_FormatsRoundTrip : fp32 ∈ [fp64, fp32, fp16, bf16, e4m3, e5m2, e2m3, e2m1, acc48] ∧ 0x80000001 < 2 ^ (1 + fp32.ebits + fp32.mbits)
    ∧ decodeF fp32 0x80000001 ≠ .nan ∧ fp32.nan = some 0x7FC00000 := by decide

/-- Queue 0 of lot 1 with one entry waiting. -/
def fetching (p : Bytes) : State × List HostReturn :=
  ({ dev := { dev0 with queues := [(16, { enable := true, rung := true, tail := 1 })], streams := [(9, { state := .enabled, queue := some (1, 0) })] } },
    [{ addr := 0, data := p }])

/-- A fence of no stream, and a packet without an opcode. -/
def goodPacket : Bytes := pk [(0, 2, 0x0103), (4, 4, 2 ^ 18 + 9), (12, 2, 1)]
def badPacket : Bytes := pk [(0, 2, 0xFFFF), (4, 4, 2 ^ 18 + 9)]
def openPacket : Bytes := pk [(0, 2, 0x0101), (4, 4, 2 ^ 18 + 10), (12, 2, 1)]

def closePacket : Bytes := pk [(0, 2, 0x0102), (4, 4, 2 ^ 18 + 9), (12, 2, 1)]

/-- What COMMAND_FETCH reads there. -/
def readOf (x : State × List HostReturn) : Option (Except Nat Bytes) × Device :=
  Device.readEntry { x.1.dev.strike [] with lastFetch := queueKey 1 0 } 1 0 x.2

/-- The queue may be fetched from in its turn, and its entry reads as a packet for which there is room. -/
def taking (x : State × List HostReturn) (p : Bytes) : Prop :=
  x.1.dev.running = true ∧ (x.1.dev.strike []).mayFetch 1 0 = true ∧ (x.1.dev.strike []).inTurn 1 0 = true
    ∧ readOf x = (some (.ok p), (readOf x).2) ∧ (readOf x).2.journalFull 1 (journalNeed p) = false ∧ (readOf x).2.journalHeld 1 0 = false

/-- The same queue with other stream contexts. -/
def fetchingOn (p : Bytes) (streams : Table Stream) (journal : List Entry := []) : State × List HostReturn :=
  ({ dev := { (fetching p).1.dev with streams := streams, journal := journal } }, (fetching p).2)

/-- Stream 9, ENABLED and mirrored, and stream 10, DISABLING with an open pending or not. -/
def mirrored : Table Stream := [(9, { state := .enabled, queue := some (1, 0), mirror := true })]
def disabling (id : Option Nat) : Table Stream := [(10, { state := .disabling, queue := some (1, 0), pendingOpen := id })]

theorem witness_FetchIdle : State.reset.dev.running = false ∧ dev0State.dev.running = true ∧ (dev0State.dev.strike []).mayFetch 1 0 = false := by decide
theorem witness_FetchAccepts : taking (fetching goodPacket) goodPacket ∧ (readOf (fetching goodPacket)).2.headerCheck 1 0 goodPacket = none
    ∧ Opcode.ofCode (rd goodPacket 0 2) = some .streamFence ∧ ((readOf (fetching goodPacket)).2.stream 9).mirror = false :=
  ⟨⟨rfl, rfl, rfl, rfl, by decide, by decide⟩, rfl, rfl, rfl⟩
theorem witness_FetchHolds : taking (fetchingOn goodPacket mirrored) goodPacket ∧ (readOf (fetchingOn goodPacket mirrored)).2.headerCheck 1 0 goodPacket = none
    ∧ ((readOf (fetchingOn goodPacket mirrored)).2.stream 9).mirror = true := ⟨⟨rfl, rfl, rfl, rfl, by decide, by decide⟩, rfl, rfl⟩
theorem witness_FetchAcceptsClose : taking (fetching closePacket) closePacket ∧ (readOf (fetching closePacket)).2.headerCheck 1 0 closePacket = none
    ∧ Opcode.ofCode (rd closePacket 0 2) = some .streamClose ∧ ((readOf (fetching closePacket)).2.stream 9).state = .enabled :=
  ⟨⟨rfl, rfl, rfl, rfl, by decide, by decide⟩, rfl, rfl, rfl⟩
theorem witness_FetchAcceptsOpen : taking (fetching openPacket) openPacket ∧ (readOf (fetching openPacket)).2.headerCheck 1 0 openPacket = none
    ∧ Opcode.ofCode (rd openPacket 0 2) = some .streamOpen ∧ ((readOf (fetching openPacket)).2.stream 10).state = .disabled :=
  ⟨⟨rfl, rfl, rfl, rfl, by decide, by decide⟩, rfl, rfl, rfl⟩
theorem witness_FetchDefersOpen : let x := fetchingOn openPacket (disabling none)
    taking x openPacket ∧ (readOf x).2.headerCheck 1 0 openPacket = none ∧ ((readOf x).2.stream 10).state ≠ .disabled
      ∧ ((readOf x).2.stream 10).pendingOpen = none := ⟨⟨rfl, rfl, rfl, rfl, by decide, by decide⟩, rfl, by decide, rfl⟩
theorem witness_FetchSupersedes : let x := fetchingOn openPacket (disabling (some 4)) [{ cmd .streamOpen [] with id := 4, stream := 10 }]
    taking x openPacket ∧ (readOf x).2.headerCheck 1 0 openPacket = none ∧ ((readOf x).2.stream 10).pendingOpen = some 4
      ∧ ((readOf x).2.entry 4).isSome = true := ⟨⟨rfl, rfl, rfl, rfl, by decide, by decide⟩, rfl, rfl, rfl⟩
theorem witness_FetchRejects : taking (fetching badPacket) badPacket ∧ (readOf (fetching badPacket)).2.headerCheck 1 0 badPacket = some .eOpcode :=
  ⟨⟨rfl, rfl, rfl, rfl, by decide, by decide⟩, rfl⟩
theorem witness_FetchStalls : let x : State × List HostReturn := ({ dev := { (fetching goodPacket).1.dev with queues :=
      [(16, { enable := true, rung := true, tail := 1 }), (17, { enable := true, stalled := 2 ^ 40 })] } }, (fetching goodPacket).2)
    (x.1.dev.strike []).mayFetch 1 0 = true ∧ readOf x = (some (.ok goodPacket), (readOf x).2) ∧ (readOf x).2.journalHeld 1 0 = true :=
  ⟨rfl, rfl, by decide⟩
theorem witness_FetchPauses : let s : State :=
      { dev := { dev0 with queues := [(16, { enable := true, rung := true, tail := 1, sqLoc := true, sqBase := 2 ^ 9 })]
                           mem := { dev0.mem with owners := [(1, .lot 1)], poison := [2 ^ 21] } } }
    (s.dev.strike []).mayFetch 1 0 = true ∧ (readOf (s, [])).1 = some (.error (2 ^ 21)) := ⟨rfl, rfl⟩

/-- An entry held for the twin. -/
def heldFor (p : Bytes) : State := { dev := { (fetching p).1.dev with queues := [(16, { enable := true, unsettled := some p })] } }

theorem witness_MirrorAck : let s := heldFor goodPacket
    s.dev.running = true ∧ (s.dev.queue 1 0).unsettled = some goodPacket
      ∧ (s.dev.setQueue 1 0 { s.dev.queue 1 0 with unsettled := none }).headerCheck 1 0 goodPacket = none
      ∧ Opcode.ofCode (rd goodPacket 0 2) = some .streamFence := ⟨rfl, rfl, rfl, rfl⟩
theorem witness_MirrorAckRejects : let s := heldFor badPacket
    s.dev.running = true ∧ (s.dev.setQueue 1 0 { s.dev.queue 1 0 with unsettled := none }).headerCheck 1 0 badPacket = some .eOpcode := ⟨rfl, rfl⟩

/-- A command that was accepted and is not dispatched yet. -/
def waiting (op : Opcode) (fs : List (Nat × Nat × Nat) := []) : Entry := { cmd op fs with phase := .accepted }

/-- The next command of stream 9 is this one, not held by a halt. -/
def dispatchable (s : State) (e : Entry) : Prop :=
  s.dev.running = true ∧ s.dev.nextToDispatch 9 = some e ∧ (s.dev.stream 9).haltsEntry e = false

theorem witness_Dispatch : let e := waiting .tensorFree
    dispatchable (on e) e ∧ (on e).dev.hosts.install = none ∧ rd e.packet 12 2 = (on e).dev.hosts.version ∧ reservedOk e.op e.packet = true
      ∧ (needsJob e.op e.packet = false ∨ ((on e).dev.stream 9).job ≠ 0) ∧ e.blockStatus = .ok := ⟨⟨rfl, rfl, rfl⟩, rfl, rfl, rfl, by decide, rfl⟩
theorem witness_DispatchClose : dispatchable (on (waiting .streamClose)) (waiting .streamClose) := ⟨rfl, rfl, rfl⟩
theorem witness_DispatchFence : let e := waiting .streamFence
    dispatchable (on e) e ∧ reservedOk e.op e.packet = true ∧ (on e).dev.fenceCheck e = none := ⟨⟨rfl, rfl, rfl⟩, rfl, rfl⟩
theorem witness_DispatchStale : let e := waiting .tensorFree [(12, 2, 2)]
    dispatchable (on e) e ∧ (rd e.packet 2 2).testBit 2 = false ∧ rd e.packet 12 2 ≠ (on e).dev.hosts.version := ⟨⟨rfl, rfl, rfl⟩, by decide⟩
theorem witness_DispatchReserved : let e := waiting .tensorFree [(20, 4, 1)]
    dispatchable (on e) e ∧ reservedOk e.op e.packet = false := ⟨⟨rfl, rfl, rfl⟩, rfl⟩
theorem witness_DispatchNoJob : let e := waiting .collective
    let s : State := { dev := (on e).dev.setStream 9 { (on e).dev.stream 9 with job := 0 } }
    dispatchable s e ∧ reservedOk e.op e.packet = true ∧ needsJob e.op e.packet = true ∧ (s.dev.stream 9).job = 0 := ⟨⟨rfl, rfl, rfl⟩, rfl, rfl, rfl⟩
theorem witness_DispatchBlock : let e := { waiting .opLaunch with blockStatus := .eTagViolation }
    dispatchable (on e) e ∧ reservedOk e.op e.packet = true ∧ e.blockStatus ≠ .ok := ⟨⟨rfl, rfl, rfl⟩, rfl, by decide⟩
theorem witness_DispatchFenceFails : let e := waiting .streamFence [(16, 1, 1), (24, 4, 9)]
    dispatchable (on e) e ∧ reservedOk e.op e.packet = true ∧ (on e).dev.fenceCheck e = some .eParam := ⟨⟨rfl, rfl, rfl⟩, rfl, rfl⟩
theorem witness_DispatchDrains : let e := waiting .tensorFree
    let s : State := { dev := { (on e).dev with hosts := { (on e).dev.hosts with install := some { entry := 4, image := {}, version := 2 } } } }
    dispatchable s e ∧ s.dev.hosts.install.isSome = true := ⟨⟨rfl, rfl, rfl⟩, rfl⟩
theorem witness_HaltedStream : let e := { waiting .tensorFree with id := 2 }
    let s : State := { dev := { (on e).dev with streams := [(9, { state := .enabled, queue := some (1, 0), haltedBy := some 1 })] } }
    s.dev.running = true ∧ s.dev.nextToDispatch 9 = some e ∧ (s.dev.stream 9).haltsEntry e = true := ⟨rfl, rfl, rfl⟩
theorem witness_CommitFailed : let e := { cmd .tensorFree [] with phase := .staged, status := .eHandle }
    (on e).dev.running = true ∧ (on e).dev.headOf 9 = some e ∧ e.phase = .staged ∧ e.status.good = false := ⟨rfl, rfl, rfl, rfl⟩
theorem witness_CommitGood : let e := { cmd .tensorFree [] with phase := .staged }
    (on e).dev.running = true ∧ (on e).dev.headOf 9 = some e ∧ e.status.good = true ∧ ((on e).dev.withInits e).entry e.id = some e
      ∧ ((on e).dev.withInits e).mirrored e = true ∧ ((on e).dev.withInits e).shadowSpoiled e = false := ⟨rfl, rfl, rfl, rfl, rfl, rfl⟩
/-- A launch without dispatches that has run to its end, and a command that has not run. -/
theorem witness_CommitLaunch : let e := { cmd .opLaunch [] with ran := true }
    (on e).dev.headOf 9 = some e ∧ (on e).dev.launchDone e = true := ⟨rfl, rfl⟩
theorem witness_CommitNotYet : let e := cmd .tensorFree []
    (on e).dev.headOf 9 = some e ∧ (on e).dev.launchDone e = false ∧ e.phase ≠ .staged := ⟨rfl, rfl, by decide⟩

/-- A reply decided for queue 0 of lot 1, in a ring of 16 with this TAIL and HEAD. -/
def replying (tail head : Nat) (hold quiet : Bool := false) (loc : Bool := false) : State :=
  { dev := { dev0 with
      mem := { dev0.mem with owners := [(1, .lot 1)] }
      tensors := [(2 ^ 24 + 7, { gen := 2, committed := true, fmt := .uint8, dims := [64], size := 64, extents := [1], pinned := true })]
      queues := [(16, { enable := true, rqTail := tail, rqHead := head, replyHold := hold, rqLoc := loc, rqBase := if loc then 2 ^ 9 else 0
                        replies := [{ dye := 1, stream := 9, seq := 5, status := .ok, quiet := quiet }] })] } }

theorem witness_ReplyWrite : ((replying 15 3).dev.queue 1 0).replies ≠ [] ∧ (replying 15 3).dev.clocked = true
    ∧ ((replying 15 3).dev.queue 1 0).replyHold = false ∧ (replying 15 3).dev.ringReachable 1 0 = true ∧ ((replying 15 3).dev.queue 1 0).ringFull = false
    ∧ ((replying 15 3).dev.queue 1 0).rqLoc = false := by decide
theorem witness_ReplyWriteLocal : let s := replying 15 3 false false true
    s.dev.ringReachable 1 0 = true ∧ (s.dev.queue 1 0).ringFull = false ∧ (s.dev.queue 1 0).rqLoc = true := by decide
theorem witness_ReplyWriteKept : (replying 2 3).dev.ringReachable 1 0 = true ∧ ((replying 2 3).dev.queue 1 0).ringFull = true
    ∧ ((replying 2 3 true).dev.queue 1 0).replyHold = true ∧ ((replying 2 3 false true).dev.queue 1 0).replies.all (·.quiet) = true := by decide
/-- The reply at the last entry of a ring wraps TAIL to 0 and turns PHASE. -/
theorem test_replyWrite_wraps : (match exec (.replyWrite 1 0) (replying 15 3) with
    | .next t => (t.dev.queue 1 0).rqTail = 0 && !(t.dev.queue 1 0).rqPhase
    | _ => false) = true := by decide

theorem witness_StreamOpen : Turn (on (cmd .streamOpen [])) 9 .streamOpen (cmd .streamOpen []) := ⟨rfl, rfl⟩
theorem witness_StreamClose : Turn (on (cmd .streamClose [])) 9 .streamClose (cmd .streamClose [])
    ∧ ((on (cmd .streamClose [])).dev.streamEntries 9).head? = some (cmd .streamClose []) ∧ ((on (cmd .streamClose [])).dev.stream 9).pendingOpen = none :=
  ⟨⟨rfl, rfl⟩, rfl, rfl⟩
theorem witness_StreamCloseOpens : let e := cmd .streamClose []
    let s : State := { dev := { (on e).dev with journal := [e, { waiting .streamOpen with id := 2 }]
                                                streams := [(9, { state := .disabling, queue := some (1, 0), pendingOpen := some 2 })] } }
    Turn s 9 .streamClose e ∧ (s.dev.streamEntries 9).head? = some e ∧ (s.dev.entry 2).isSome = true := ⟨⟨rfl, rfl⟩, rfl, rfl⟩
theorem witness_StreamCloseWaits : let e := { cmd .streamClose [] with id := 2 }
    let f := { cmd .tensorFree [] with phase := .committed }
    let s : State := { dev := { (on e).dev with journal := [f, e] } }
    Turn s 9 .streamClose e ∧ (s.dev.streamEntries 9).head? = some f := ⟨⟨rfl, rfl⟩, rfl⟩

/-- A fence of SEQ 3 of stream 10, with TIMEOUT 7, dispatched, with its entry satisfied or not, at TIME 7. -/
def fence (done : Bool) : Entry :=
  { cmd .streamFence [(16, 1, 1), (20, 4, 7), (24, 4, 10), (28, 4, 3)] with ran := true, received := if done then [0] else [] }
def fenced (done : Bool) : State := { dev := { (on (fence done)).dev with time := 7 } }

theorem witness_FenceDone : Turn (fenced true) 9 .streamFence (fence true) ∧ (fence true).fenceDone = true := ⟨⟨rfl, rfl⟩, rfl⟩
theorem witness_FenceWaits : Turn (fenced false) 9 .streamFence (fence false) ∧ (fence false).fenceDone = false
    ∧ (fenced false).dev.entry (fence false).id = some (fence false) := ⟨⟨rfl, rfl⟩, rfl, rfl⟩
theorem witness_FenceTimeout : let e := fence false
    (fenced false).dev.runningEntry 9 .streamFence = some e ∧ (fenced false).dev.running = true ∧ e.ran = true ∧ e.param 20 4 ≠ 0
      ∧ e.dispatchedAt + e.param 20 4 ≤ (fenced false).dev.time := ⟨rfl, rfl, rfl, by decide, by decide⟩

/-- The first command of stream 9, waiting for something after its DEADLINE. -/
def late (op : Opcode) (w : Wait) : Entry := { cmd op [(40, 8, 100), (48, 8, 100)] with wait := w }
def lateState (e : Entry) : State := { dev := { (on e).dev with time := 100 } }

theorem witness_QuotaWait : let e := late .rethread .quota
    (lateState e).dev.running = true ∧ (lateState e).dev.entry e.id = some e
      ∧ (((lateState e).dev.streamEntries 9).find? fun x => x.phase = .dispatched && x.wait = .quota && x.deadline ≠ 0
          && x.deadline ≤ (lateState e).dev.time) = some e :=
  ⟨rfl, rfl, rfl⟩
theorem witness_JobDeadline : let e := late .collective .peers
    (lateState e).dev.running = true ∧ (lateState e).dev.entry e.id = some e
      ∧ (((lateState e).dev.streamEntries 9).find? fun x => x.phase = .dispatched && x.wait = .peers) = some e ∧ e.deadline ≠ 0
      ∧ e.deadline ≤ (lateState e).dev.time := ⟨rfl, rfl, rfl, by decide, by decide⟩
theorem witness_SolveDeadline : let e := cmd .solve []
    let z : Solve := { entry := 1, lot := 1, stream := 9, priority := 0, deadline := 100, admitted := 0, fn := 0 }
    let s : State := { dev := { (lateState e).dev with solver := { (lateState e).dev.solver with solves := [z] } } }
    s.dev.running = true ∧ (s.dev.solver.solves.find? fun z => z.stream = 9 && z.waits && z.deadline ≠ 0 && z.deadline ≤ s.dev.time) = some z
      ∧ s.dev.entry z.entry = some e := ⟨rfl, rfl, rfl⟩

/-! ### Witnesses: tensors -/

/-- TENSOR_CREATE of 1024 FP32 elements, and one of a format that there is none of. -/
def create : Entry := cmd .tensorCreate [(16, 1, 0x02), (17, 1, 1), (19, 1, 0xFF), (20, 4, 1024)]
def createBad : Entry := cmd .tensorCreate [(16, 1, 0xEE), (17, 1, 1), (19, 1, 0xFF), (20, 4, 1024)]

theorem freeKey_nil (k : Nat) : freeKey k ([] : Table Tensor) = k := rfl
theorem witness_TensorCreateFails : Turn (on createBad) 9 .tensorCreate createBad ∧ createOk createBad.packet = none := ⟨⟨rfl, rfl⟩, rfl⟩
theorem witness_TensorCreate : Turn (on create) 9 .tensorCreate create ∧ createOk create.packet = some (.fp32, [1024])
    ∧ (on create).dev.heldExtents 1 + (extentsOf (tensorBytes .fp32 [1024] false 0) + 0) ≤ (on create).dev.quotaExtents 1
    ∧ (∃ ix, (on create).dev.freeIndex 1 (Config.tensorIndex create.id) = some ix)
    ∧ (∃ xs d1, (on create).dev.placeNew 1 (List.range Config.memStacks) (extentsOf (tensorBytes .fp32 [1024] false 0)) none [] = some (xs, d1))
    ∧ ∀ (d1 : Device) (key : Nat) (t : Tensor), t.param = (create.param 18 1).testBit 3 → d1.newCopyExtents key t = 0 ∧ d1.newCopies key t = some d1 := by
  refine ⟨⟨rfl, rfl⟩, rfl, by decide, ?_, ⟨_, _, rfl⟩, ?_⟩
  · refine ⟨1 + Config.tensorIndex create.id % (2 ^ 24 - 1), ?_⟩
    have h : (on create).dev.tensors = [] := rfl
    simp only [Device.freeIndex, h, freeKey_nil, tensorKeyOf]
    rw [if_pos (by omega)]
    congr 1; omega
  · intro d1 key t h
    have hp : t.param = false := h
    simp [Device.newCopyExtents, Device.newCopies, hp]

/-- A command on tensor 7. -/
def cmd7 (op : Opcode) (fs : List (Nat × Nat × Nat)) : Entry := { cmd op ((16, 4, h7) :: fs) with tensors := [k7] }
def on7 (e : Entry) (t : Tensor := tensor7) : State := on e (dev7 t)
def free7 : Entry := cmd7 .tensorFree []
def hint7 : Entry := cmd7 .tensorHint [(21, 1, 3)]
def pin7 (action : Nat) : Entry := cmd7 .tensorPin [(20, 1, action)]

theorem witness_TensorFree : Turn (on7 free7) 9 .tensorFree free7 ∧ (on7 free7).dev.find free7 (free7.param 16 4) = .ok (k7, tensor7) := ⟨⟨rfl, rfl⟩, rfl⟩
theorem witness_TensorHint : Turn (on7 hint7) 9 .tensorHint hint7 ∧ (on7 hint7).dev.find hint7 (hint7.param 16 4) = .ok (k7, tensor7) ∧ hint7.param 21 1 ≤ 3 :=
  ⟨⟨rfl, rfl⟩, rfl, by decide⟩
theorem witness_TensorUnpin : Turn (on7 (pin7 0)) 9 .tensorPin (pin7 0) ∧ (on7 (pin7 0)).dev.find (pin7 0) ((pin7 0).param 16 4) = .ok (k7, tensor7)
    ∧ (pin7 0).param 24 4 = 0 ∧ (pin7 0).param 20 1 = 0 := ⟨⟨rfl, rfl⟩, rfl, rfl, rfl⟩
theorem witness_TensorPin : Turn (on7 (pin7 1)) 9 .tensorPin (pin7 1) ∧ (on7 (pin7 1)).dev.find (pin7 1) ((pin7 1).param 16 4) = .ok (k7, tensor7)
    ∧ (pin7 1).param 24 4 = 0 ∧ (pin7 1).param 20 1 = 1
    ∧ ((on7 (pin7 1)).dev.pinnedExtents 1 + (on7 (pin7 1)).dev.pinsStaged 1 (pin7 1).id + tensor7.extents.length) * Config.extentBytes
      ≤ ((on7 (pin7 1)).dev.lot 1).pinQuota := ⟨⟨rfl, rfl⟩, rfl, rfl, rfl, by decide⟩
/-- A pin to stack 19, with copies to make. -/
theorem witness_TensorPinMoves : let e := cmd7 .tensorPin [(20, 1, 1), (24, 4, 2 ^ 19)]
    let s := on7 e
    Turn s 9 .tensorPin e ∧ e.param 24 4 ≠ 0
      ∧ (let stackIds := bitsOf Config.memStacks (e.param 24 4)
         (tensor7.extents.filter fun x => !stackIds.contains (extentStack x)).length ≤ (stackIds.map s.dev.freeIn).sum
          ∧ (match s.dev.claim e [(k7, 0, tensor7.extents.length * Config.extentBytes)] with
            | .ok d1 => (match ((d1.abandonMoves k7).modEntry e.id fun x => { x with ran := true }).pinMoves e k7 tensor7 stackIds with
              | .ok _ => True | .error _ => False)
            | .error _ => False)) := ⟨⟨rfl, rfl⟩, by decide, by decide, trivial⟩
theorem witness_TensorCommits : (dev7).tensor k7 = some tensor7 ∧ k7 = tensorKeyOf free7.lot (free7.param 16 4 % 2 ^ 24) ∧ (pin7 0).param 20 1 = 0
    ∧ (pin7 1).param 20 1 = 1 ∧ (pin7 1).staging = [] ∧ { create with tensors := [k7] }.tensors = [k7] := by decide
theorem witness_StorageReturn : let t : Tensor := { tensor7 with live := false }
    (dev7 t).tensor (tensorKeyOf 1 7) = some t ∧ (dev7 t).clocked = true ∧ t.live = false ∧ t.committed = true
      ∧ (dev7 t).inUse (tensorKeyOf 1 7) = false ∧ tensor7.live = true := by decide

/-! ### Witnesses: launches, the shuttle, DMA -/

/-- A code object at index 8, two rows of 4 FP32 elements at index 9, and a launch with those rows and tensor 7 in its slots. -/
def code8 : Tensor := { gen := 1, committed := true, fmt := .code, dims := [64], size := 64, extents := [101], job := 3 }
def rows9 : Tensor := { gen := 1, committed := true, fmt := .fp32, dims := [4, 2], size := 32, extents := [102], job := 3 }
def h8 : Nat := 2 ^ 24 + 8
def h9 : Nat := 2 ^ 24 + 9
def k8 : Nat := 2 ^ 24 + 8
def k9 : Nat := 2 ^ 24 + 9
def devLaunch : Device := { dev7 with tensors := [(k7, tensor7), (k8, code8), (k9, rows9)] }
def launch8 : Entry := { cmd .opLaunch [(16, 4, h8), (32, 1, 2), (33, 1, 0), (36, 4, h7), (40, 4, h9)] with tensors := [k7, k8, k9] }
def graph8 : Entry := { cmd .graphLaunch [(16, 4, h8), (40, 2, 1), (44, 4, 1)] with tbl := toLE 4 h7, tensors := [k7, k8, k9] }
def reads2 : CodeDecl := { slots := [{ reads := true }, { reads := true, writes := true }] }

theorem witness_OpLaunch : let s := on launch8 devLaunch
    Turn s 9 .opLaunch launch8 ∧ launch8.ran = false ∧ opLaunchParams launch8 = true ∧ reads2.fp64Stage = false
      ∧ s.dev.find launch8 (launch8.param 16 4) = .ok (k8, code8) ∧ code8.fmt = .code ∧ code8.lost = false ∧ launch8.slots = 2
      ∧ s.dev.tapped launch8 reads2 = [] ∧ s.dev.checkSlot { launch8 with decl := reads2 } reads2 false 0 = .ok ()
      ∧ s.dev.checkSlot { launch8 with decl := reads2 } reads2 false 1 = .ok ()
      ∧ ∃ d1, s.dev.claim { launch8 with decl := reads2 } [(k9, 0, 32)] = .ok d1 :=
  ⟨⟨rfl, rfl⟩, rfl, rfl, rfl, rfl, rfl, rfl, rfl, rfl, rfl, rfl, _, rfl⟩
theorem witness_GraphLaunch : let s := on graph8 devLaunch
    Turn s 9 .graphLaunch graph8 ∧ graph8.ran = false ∧ graphLaunchParams graph8 = true ∧ graph8.slots = 1
      ∧ s.dev.find graph8 (graph8.param 16 4) = .ok (k8, code8) ∧ s.dev.checkSlot { graph8 with decl := reads2 } reads2 false 0 = .ok ()
      ∧ ∃ d1, launchStart graph8 reads2 true s.dev = .ok d1 := ⟨⟨rfl, rfl⟩, rfl, rfl, rfl, rfl, rfl, _, rfl⟩
theorem witness_LaunchFails : let e := { launch8 with packet := wrAt launch8.packet 32 (toLE 1 255) }
    Turn (on e devLaunch) 9 .opLaunch e ∧ e.ran = false ∧ opLaunchParams e = false := ⟨⟨rfl, rfl⟩, rfl, rfl⟩
theorem witness_LaunchRuns : let e := { launch8 with ran := true, decl := { reads2 with records := [0] } }
    let f := { launch8 with ran := true }
    (on e devLaunch).dev.launchDone e = false ∧ Turn (on f devLaunch) 9 .opLaunch f ∧ (on f devLaunch).dev.launchDone f = true :=
  ⟨rfl, ⟨rfl, rfl⟩, rfl⟩

/-- A launch that runs, with a dispatch record of 2 tokens over 2 experts, and what the dispatch has left: expert 1 has token 1. -/
def running8 : Entry :=
  { launch8 with ran := true, decl := { reads2 with records := [0] }, args := toLE 4 2 ++ toLE 2 2 ++ [1, 0] ++ toLE 4 1 ++ [0, 0xFF, 0, 0] }
def record8 : ShuttleRecord := { tokens := 2, experts := 2, topk := 1, policy := 0, renorm := false, depth := 0, capacity := 1, score := 0, list := 0xFF }
def result8 : ShuttleResult :=
  { entry := 1, record := 0, bytes := wrAt (wrAt (zeros 256) 16 (toLE 4 1)) (record8.layout.1 + 8) (toLE 4 1), weights := [0, 0] }

/-- That launch on core 0. -/
def running8State (ss : List ShuttleResult := []) : State :=
  { on running8 { devLaunch with mem := { devLaunch.mem with structures := ss } } with eng := { cores := [(0, { kernel := some 1 })] } }

theorem witness_KernelEntry : (on running8 devLaunch).dev.running = true ∧ (on running8 devLaunch).dev.launchOf 9 = some running8
    ∧ (on running8 devLaunch).dev.coreReady 0 = true ∧ (on running8 devLaunch).kernelOf 0 = none
    ∧ (running8State).kernelOf 0 = some running8 := ⟨rfl, rfl, rfl, rfl, rfl⟩
theorem witness_ShuttleSelect : let s := running8State
    s.dev.running = true ∧ s.dev.launchOf 9 = some running8 ∧ 0 < running8.decl.records.length ∧ running8.shuttle 0 = some record8 ∧ record8.list = 0xFF
      ∧ s.dev.servingCluster = some 0 ∧ s.dev.find running8 (running8.slotHandle record8.score) = .ok (k7, tensor7)
      ∧ (∃ raw d1, s.dev.fetchExtents 1 tensor7.extents 0 16 0 = .ok (raw, d1) ∧ d1.scratchOwned running8 = true) :=
  ⟨rfl, rfl, by decide, rfl, rfl, rfl, rfl, _, _, rfl, rfl⟩
theorem witness_ShuttleWaits : let s : State :=
      { dev := { (on running8 devLaunch).dev with
          power := { up with clusters := (List.range Config.clusters).map fun c => (c, ({ state := .disabled } : Domain)) } } }
    s.dev.running = true ∧ s.dev.launchOf 9 = some running8 ∧ s.dev.servingCluster = none := ⟨rfl, rfl, rfl⟩
theorem witness_ShuttleGather : let s := running8State [result8]
    s.dev.dispatched running8 0 = some result8 ∧ s.kernelOf 0 = some running8 ∧ s.dev.find running8 (running8.slotHandle 1) = .ok (k9, rows9)
      ∧ rows9.rowsOk = true ∧ (rows9.rowSpans 0).1.2 = 16 ∧ (rows9.rowSpans 0).2.2 = 0 ∧ spanOk 64 16 = true ∧ spanOk 128 0 = true
      ∧ listRow record8 result8.bytes 1 0 = some (some 1) ∧ listRow record8 result8.bytes 1 127 = some none
      ∧ listRow record8 result8.bytes 1 128 = none ∧ listRow record8 result8.bytes 0 0 = none
      ∧ ∃ bs d1, s.dev.rowBytes running8 k9 rows9 1 = .ok (bs, d1) :=
  ⟨rfl, rfl, rfl, rfl, rfl, rfl, rfl, rfl, rfl, rfl, rfl, rfl, _, _, rfl⟩
theorem witness_ShuttleCombine : ∃ u, shuttleCombine record8 result8 0 1 1 1 1 1 running8 (running8State [result8]) = .ok u := ⟨_, rfl⟩

/-- A DMA_COPY of 64 bytes by an inline descriptor on channel 512, inside the pinned tensor 7. -/
def copy7 : Entry := cmd .dmaCopy [(16, 2, 512), (18, 1, 1), (20, 4, 1), (32, 8, 100 * 2 ^ 21), (40, 8, 100 * 2 ^ 21 + 64), (48, 4, 64)]
def reshuffle7 : Entry := { copy7 with op := .dmaReshuffle }
def channel512 (v : DmaChannel) (e : Entry) : State :=
  on e { dev7 { tensor7 with pinned := true } with
    dma := [(512, v)], mem := { owners := [(100, .lot 1)], cells := [(100 * 2 ^ 21 + 63, 0xAB)] } }

theorem witness_DmaCommands : [copy7, reshuffle7].all (fun e => let s := channel512 { state := .enabled } e
    s.dev.running && (s.dev.ready 9 e.op == some e) && (s.dev.entry e.id == some e) && e.channel == 512 && !(operatorChannel 512)
      && (s.dev.channelLot 512 == some 1) && e.param 20 4 == 1 && e.inline && e.param 24 8 == 0 && ((s.dev.channel 512).state == .enabled)
      && (s.dev.channel 512).slot.isNone && !((s.dev.channel 512).halted) && !(s.dev.channelQueue 512 e)
      && (match s.dev.dmaDispatch e with | .ok _ => true | .error _ => false)) = true := by decide
theorem witness_DmaNotGranted : let e := { copy7 with packet := wrAt copy7.packet 16 (toLE 2 514) }
    Turn (channel512 {} e) 9 .dmaCopy e ∧ e.channel = 514 ∧ (channel512 {} e).dev.channelLot 514 = none ∧ e.sticky = 0 := ⟨⟨rfl, rfl⟩, by decide, rfl, rfl⟩

/-- The channel while it works on that command, whose chain has been read. -/
def copying7 : Entry := { copy7 with wait := .channel, ran := true, chain := [{ addr := 0, bytes := copy7.packet.drop 32 }] }
def copying : State := channel512 { state := .enabled, slot := some 1 } copying7

theorem witness_DmaDescriptor : let v := descriptorOf (copy7.packet.drop 32)
    copying.dev.running = true ∧ (copying.dev.channel 512).slot = some copying7.id ∧ copying.dev.entry copying7.id = some copying7
      ∧ copying7.chain[(copying.dev.channel 512).index]? = some { addr := 0, bytes := copy7.packet.drop 32 } ∧ v.fieldsOk (copy7.packet.drop 32) = true
      ∧ v.mode = 0 ∧ v.flags = 0 ∧ v.runs .dmaCopy 512 = true ∧ copying.dev.mem.faulty = []
      ∧ (∃ srcs d1, (copying.dev.strike []).readPlaneList copying7 [] (v.flags.testBit 0) v.srcPlanes = .ok (srcs, d1)
        ∧ ∃ d2, (v.dstPlanes.zip (v.move srcs)).foldlM (fun d p => d.writePlane copying7 (v.flags.testBit 1) p.1.1 p.2) d1 = .ok d2) :=
  ⟨rfl, rfl, rfl, rfl, rfl, rfl, rfl, rfl, rfl, _, _, rfl, _, rfl⟩
theorem witness_DmaJump : let b := (zeros 32).set 20 15
    (descriptorOf b).mode = 15 ∧ (descriptorOf b).fieldsOk b = true ∧ (descriptorOf b).flags = 0 ∧ (descriptorOf b).src % 64 = 0 := by decide
theorem test_dmaDescriptor_copies : (match exec (.dmaDescriptor 512 {} none) copying with
    | .next t => readByte t.dev.mem.cells (100 * 2 ^ 21 + 127) = 0xAB
    | _ => false) = true := by decide

/-- The launch on core 0, which loads 8 bytes of tensor 7 and stores 8 bytes into the rows. -/
def onCore0 : State := { on running8 { devLaunch with mem := { owners := [(100, .lot 1), (102, .lot 1)], cells := [(100 * 2 ^ 21 + 7, 0xCD)] } } with
  eng := { cores := [(0, { kernel := some 1 })] } }
def load7 : OperatorMove := { stream := 9, core := 0, store := 64, slot := 0, offset := 0, length := 8, toTensor := false }
def store9 : OperatorMove := { load7 with slot := 1, offset := 24, toTensor := true }

theorem witness_OperatorMove : operatorChannel 12 = true ∧ load7.core.val / 8 = 12 / 16 ∧ onCore0.dev.running = true ∧ onCore0.kernelOf 0 = some running8
    ∧ running8.stream = load7.stream.val ∧ (onCore0.dev.strike []).find running8 (running8.slotHandle 0) = .ok (k7, tensor7) ∧ (0 : Nat) < running8.slots
    ∧ (running8.decl.slot 0).reads = true ∧ load7.offset + load7.length ≤ tensor7.size ∧ spanOk load7.store load7.length = true
    ∧ ∃ b d1, (onCore0.dev.strike []).fetchTensor running8 k7 0 8 = .ok (b, d1) :=
  ⟨rfl, rfl, rfl, rfl, rfl, rfl, by decide, rfl, by decide, by decide, _, _, rfl⟩
theorem witness_OperatorStore : (onCore0.dev.strike []).find running8 (running8.slotHandle 1) = .ok (k9, rows9) ∧ (1 : Nat) < running8.slots
    ∧ (running8.decl.slot 1).writes = true ∧ store9.offset + store9.length ≤ rows9.size
    ∧ ∃ d1, (onCore0.dev.strike []).putTensor running8 k9 24 (onCore0.eng.read 0 64 8) = .ok d1 := ⟨rfl, by decide, rfl, by decide, _, rfl⟩
theorem test_operatorMove_loads : (match exec (.dmaDescriptor 12 {} (some load7)) onCore0 with
    | .next t => t.eng.read 0 71 1 = [0xCD]
    | _ => false) = true := by decide

/-- The physical function of attachment 0, and the virtual functions of lot 1 and of a lot that is not enabled. -/
def pf : Fn := { attach := 0 }
def vf1 : Fn := { attach := 0, vf := some 1 }
def vf2 : Fn := { attach := 0, vf := some 2 }

theorem witness_DmaRequests : (channel512 {} copy7).dev.ownsChannel vf1 512 = true ∧ ((channel512 {} copy7).dev.channel 512).state = .disabled
    ∧ (copying.dev.channel 512).state = .enabled ∧ copying.dev.ownsChannel vf1 512 = true ∧ copying.dev.ownsChannel vf2 512 = false := by decide

/-! ### Witnesses: job-wide commands, the mapping, collectives

Two devices in a box along A, joined by port 0; this one is rank 0. -/

def pairLinks : Links := { dims := 1, log2 := [1, 0, 0], coord := 0, role := 0, ports := [(0, { state := .enabled, lstate := 4, credits := [4, 4, 4, 4, 4, 4, 4, 4] })] }
def pairJob : Job := { lot := 1, declared := true, mapGen := 1, log2 := [1, 0, 0], entries := [1, 1, 1, 1, 1] }

/-- A command of job 3 on the pair, with the match of rank 1 for it. -/
def paired (e : Entry) (d : Device := dev0) (j : Job := pairJob) : State :=
  on { e with ordinal := 1 } { d with links := pairLinks, jobs := [(3, j)], arrivals := [{ stream := 9, ordinal := 1, member := 1, digest := e.matchDigest }] }

theorem witness_JobMatchArrival : dev0State.dev.clocked = true ∧ (dev0State.dev.arrivals.any fun x => x.stream = 9 && x.ordinal = 1 && x.member = 1) = false
    ∧ State.reset.dev.clocked = false := ⟨rfl, rfl, rfl⟩

/-- A job-wide command on tensors 7 and 8. -/
def wide (op : Opcode) (fs : List (Nat × Nat × Nat)) : Entry := { cmd op fs with tensors := [k7, k8], ordinal := 1 }
def barrier : Entry := wide .collective [(16, 1, 6), (18, 1, 15)]

theorem witness_JobMatch : let d := (paired barrier).dev
    (∀ a ∈ d.arrivals.filter fun a => a.stream = barrier.stream && a.ordinal = 1, a.digest = barrier.matchDigest)
      ∧ (∀ m ∈ [1], ∃ a ∈ d.arrivals.filter fun a => a.stream = barrier.stream && a.ordinal = 1, a.member = m)
      ∧ (∀ m ∈ [1], (d.routeTo ((d.job (d.stream barrier.stream).job).posOf m) 1).isSome = true)
      ∧ ∃ m ∈ [2], ∀ a ∈ d.arrivals.filter fun a => a.stream = barrier.stream && a.ordinal = 1, a.member ≠ m := by decide
theorem witness_JobMatchDiffers : let d := { (paired barrier).dev with arrivals := [{ stream := 9, ordinal := 1, member := 1, digest := barrier.matchDigest + 1 }] }
    ∃ a ∈ d.arrivals.filter fun a => a.stream = barrier.stream && a.ordinal = 1, a.digest ≠ barrier.matchDigest := by decide

/-- MAP_DECLARE of the pair's box, and its query into tensor 7 of 256 bytes. -/
def declare : Entry := wide .mapDeclare [(21, 1, 1), (24, 4, 1), (28, 4, 1), (32, 4, 1), (36, 4, 1), (40, 4, 1)]
def query : Entry := wide .mapDeclare [(16, 1, 1), (44, 4, h7)]
def bytes7 : Tensor := { tensor7 with fmt := .uint8, dims := [256], size := 256 }

theorem witness_MapDeclare : let s := paired declare dev0 {}
    let box : Job := { origin := (boxOf declare.packet).1, log2 := (boxOf declare.packet).2 }
    Turn s 9 .mapDeclare declare ∧ rd declare.packet 16 1 = 0 ∧ rd declare.packet 44 4 = 0 ∧ s.dev.links.boxFits box.origin box.log2 = true
      ∧ ((entriesAt declare.packet 24).zipIdx.all fun x => entryOk box.log2.sum x.2 x.1) = true ∧ (s.dev.job 3).declared = false
      ∧ box.contains s.dev.links.coord = true
      ∧ ∃ d1, matchGroup declare (othersOf box.size (box.rankOf s.dev.links.coord)) s.dev = .ok d1 :=
  ⟨⟨rfl, rfl⟩, rfl, rfl, by decide, by decide, rfl, by decide, _, rfl⟩
theorem witness_MapQuery : let s := paired query (dev7 bytes7)
    Turn s 9 .mapDeclare query ∧ rd query.packet 16 1 = 1 ∧ s.dev.find query (rd query.packet 44 4) = .ok (k7, bytes7) ∧ bytes7.fmt = .uint8
      ∧ 256 ≤ bytes7.count
      ∧ ∃ d1 d2, s.dev.claim query [(k7, 0, 256)] = .ok d1 ∧ d1.putTensor query k7 0 (d1.laydownRecord 3) = .ok d2 :=
  ⟨⟨rfl, rfl⟩, rfl, rfl, rfl, by decide, _, _, rfl, rfl⟩

/-- A REDRAW of all phases to a cut along T, from step 2. -/
def redraw : Entry := wide .redraw [(16, 1, 0x1F), (20, 4, 0x10), (24, 4, 0x10), (28, 4, 0x10), (32, 4, 0x10), (36, 4, 0x10), (40, 8, 2)]
def kJob : Job := { pairJob with entries := [1, 1, 1, 1, 0x10001] }

theorem witness_Redraw : let s := paired redraw dev0 kJob
    let new := redrawEntries kJob redraw.packet
    let o := cutsOf (kJob.entries.getD 4 0)
    let n := cutsOf (new.getD 4 0)
    Turn s 9 .redraw redraw ∧ s.dev.job 3 = kJob ∧ kJob.declared = true ∧ kJob.pendingMap = none
      ∧ (new.zipIdx.all fun x => entryOk kJob.log2.sum x.2 x.1) = true ∧ n.t + n.k = o.t + o.k ∧ n.e = o.e ∧ kJob.counter + 2 ≤ rd redraw.packet 40 8
      ∧ ∃ d1, matchGroup redraw (othersOf kJob.size (s.dev.rank kJob)) s.dev = .ok d1 :=
  ⟨⟨rfl, rfl⟩, rfl, rfl, rfl, by decide, by decide, by decide, by decide, _, rfl⟩
theorem witness_MappingCommits : rd declare.packet 16 1 = 0 ∧ ((paired redraw dev0 kJob).dev.job 3).counter + 1 < rd redraw.packet 40 8 := by decide

/-- A RETHREAD of the PARAMETER tensor 7, whose rows are cut over two holders, under a pending entry that gives every device what it holds. -/
def rethread7 : Entry := wide .rethread [(16, 4, h7)]
def param7 : Tensor := { tensor7 with param := true, shardDim := some 0, dims := [4], size := 32 }
def pendMap : PendingMap := { mask := 16, entries := [1, 1, 1, 1, 0x10001], fromStep := 1 }
def pendJob : Job := { pairJob with entries := [1, 1, 1, 1, 0x10], pendingMap := some pendMap }

theorem witness_Rethread : let s := paired rethread7 (dev7 param7) pendJob
    Turn s 9 .rethread rethread7 ∧ rethread7.param 16 4 ≠ 0 ∧ rethread7.param 24 8 = 0 ∧ rethread7.param 32 2 = 0
      ∧ s.dev.find rethread7 (rethread7.param 16 4) = .ok (k7, param7) ∧ pendMap.mask.testBit 4 = true
      ∧ pendMap.entries.getD 4 0 ≠ pendJob.entries.getD 4 0 ∧ param7.param = true ∧ param7.job = 3 ∧ pendJob.rethreaded.contains k7 = false
      ∧ param7.cutOk (cutsOf (pendMap.entries.getD 4 0)) = true ∧ pendMap.fromStep ≤ pendJob.counter + 1 ∧ pendMap.fromStep ≤ pendJob.jobStep + 1
      ∧ (s.dev.journal.any fun x => x.id ≠ rethread7.id && x.inFlight && x.shards.any fun y => y.tensor = k7) = false
      ∧ pendJob.size ≤ ({ shards := [], complete := 1 } : RethreadInput).complete + 1 ∧ s.dev.rethreadPlan pendJob param7 = ([], [])
      ∧ ∃ d1, matchGroup rethread7 (othersOf pendJob.size (s.dev.rank pendJob)) s.dev = .ok d1 :=
  ⟨⟨rfl, rfl⟩, by decide, rfl, rfl, rfl, by decide, by decide, rfl, rfl, by decide, by decide, by decide, by decide, rfl, by decide, by decide, _, rfl⟩

/-- What is staged, received or frozen of shard 0 of tensor 7. -/
def staged7 (v : Shard := {}) : StagedShard := { tensor := k7, index := 0, shard := v }

theorem witness_RethreadCommit : let x := staged7 { version := 4 }
    { rethread7 with shards := [x] }.shards = [x] ∧ (paired rethread7 (dev7 param7) pendJob).dev.tensor x.tensor = some param7 ∧ x.roots = none
      ∧ x.contexts = [] := ⟨rfl, rfl, rfl, rfl⟩

/-- A collective with FN, OP and GROUP over tensor 7. -/
def small7 : Tensor := { tensor7 with dims := [2], size := 8 }
def coll (fn : Nat) (fs : List (Nat × Nat × Nat) := []) : Entry := wide .collective ([(16, 1, fn), (18, 1, 15), (20, 4, h7), (24, 4, h7)] ++ fs)
def reduce7 : Entry := coll 1
def bcast7 : Entry := coll 4 [(28, 2, 1)]
def peer1 : List PeerData := [{ member := 1, data := toLE 4 0x3F800000 ++ toLE 4 0x40000000 }]

theorem witness_Barrier : let s := paired barrier
    Turn s 9 .collective barrier ∧ collectiveParams barrier = true ∧ (s.dev.job 3).declared = true ∧ barrier.param 16 1 = 6
      ∧ groupOf (cutsOf ((s.dev.job 3).entryFor (barrier.param 19 1) barrier.step)) (barrier.param 18 1) 2 0 = [0, 1]
      ∧ ∃ d1, matchGroup barrier [1] s.dev = .ok d1 :=
  ⟨⟨rfl, rfl⟩, by decide, rfl, by decide, by decide, _, rfl⟩

/-- All that the statement of COLLECTIVE asks of one with data, up to the last write of its result. -/
def collects (e : Entry) (src : Tensor) (out : Nat × Bytes) : Prop :=
  let s := paired e (dev7 src)
  Turn s 9 .collective e ∧ collectiveParams e = true ∧ s.dev.find e (e.param 20 4) = .ok (k7, src) ∧ s.dev.find e (e.param 24 4) = .ok (k7, src)
    ∧ collectiveFits (e.param 16 1) (e.param 17 1) 2 src src = true ∧ src.lost = false
    ∧ ∃ d0 d1 mine d2 d3, s.dev.claim e [(k7, 0, src.size)] = .ok d0 ∧ matchGroup e [1] d0 = .ok d1
      ∧ d1.fetchTensor e k7 0 src.size = .ok (mine, d2) ∧ d2.putTensor e k7 out.1 out.2 = .ok d3

theorem witness_AllReduce : collects reduce7 small7 (0, reduceBytes .fp32 0 2 [zeros 8, toLE 4 0x3F800000 ++ toLE 4 0x40000000]) :=
  ⟨⟨rfl, rfl⟩, by decide, rfl, rfl, by decide, rfl, _, _, _, _, _, rfl, rfl, rfl, rfl⟩
theorem witness_Broadcast : collects bcast7 small7 (0, toLE 4 0x3F800000 ++ toLE 4 0x40000000) ∧ bcast7.param 28 2 = 1 :=
  ⟨⟨⟨rfl, rfl⟩, by decide, rfl, rfl, by decide, rfl, _, _, _, _, _, rfl, rfl, rfl, rfl⟩, by decide⟩
theorem witness_AllToAll : collects (coll 5) small7 (4, toLE 4 0x40000000) :=
  ⟨⟨rfl, rfl⟩, by decide, rfl, rfl, by decide, rfl, _, _, _, _, _, rfl, rfl, rfl, rfl⟩
theorem witness_GatherAndScatter : collectiveFits 2 0 2 small7 { small7 with dims := [1], size := 4 } = true
    ∧ collectiveFits 3 0 2 { small7 with dims := [1], size := 4 } small7 = true ∧ collectiveParams (coll 2) = true ∧ collectiveParams (coll 3) = true := by
  decide
/-- 0 from this device and 1 and 2 from the other: their sums are staged in the tensor. -/
theorem test_allReduce_sums : (match exec (.collective 9 peer1 false) (paired reduce7 (dev7 small7)) with
    | .next t => (match t.dev.fetchTensor reduce7 k7 0 8 with | .ok x => x.1 = toLE 4 0x3F800000 ++ toLE 4 0x40000000 | _ => false)
    | _ => false) = true := by decide

/-- A job of this device alone, and a command of it on tensor 7 and a PARAMETER tensor at index 8. -/
def soloJob : Job := { lot := 1, declared := true, mapGen := 1 }
def master8 : Tensor := { gen := 1, committed := true, fmt := .fp32, dims := [2], size := 8, extents := [101], job := 3, param := true, working := 5 }
def solo (e : Entry) (t : Tensor := small7) (v : Shard := {}) (j : Job := soloJob) : State :=
  on e { dev0 with
    links := { coord := 0, role := 0 }, jobs := [(3, j)], tensors := [(k7, t), (k8, master8)], shards := [(shardKey k8 0, v)]
    mem := { owners := [(100, .lot 1), (101, .lot 1)], cells := [(101 * 2 ^ 21 + 2, 0x80), (101 * 2 ^ 21 + 3, 0x3F), (101 * 2 ^ 21 + 7, 0x40)] } }
def deliver : Entry := wide .collective [(16, 1, 7), (19, 1, 1), (20, 4, h7), (24, 4, h8), (32, 8, 1)]

theorem witness_GradDeliver : let s := solo deliver
    let c := cutsOf (soloJob.entryFor 1 deliver.step)
    let o := cutsOf (soloJob.optEntry k8)
    Turn s 9 .collective deliver ∧ deliver.param 16 1 = 7 ∧ collectiveParams deliver = true ∧ s.dev.job 3 = soloJob ∧ soloJob.declared = true
      ∧ s.dev.find deliver (deliver.param 20 4) = .ok (k7, small7) ∧ s.dev.find deliver (deliver.param 24 4) = .ok (k8, master8) ∧ master8.param = true
      ∧ master8.job = 3 ∧ small7.fmt = .fp32 ∧ master8.cutOk o = true ∧ master8.shardDim = none ∧ master8.expert = false
      ∧ small7.count = prod (master8.sliceDims c) ∧ small7.lost = false
      ∧ ∃ d1 d2 mine rs d3, matchGroup deliver (othersOf soloJob.size 0) s.dev = .ok d1 ∧ d1.awaitsRethread k8 master8 1 = false
        ∧ d1.fetchTensor deliver k7 0 8 = .ok (mine, d2)
        ∧ (((d2.ownedShards k8 master8).filter fun i => (d2.shardOf k8 i).step < 1 || (d2.shardOf k8 i).version = 0).mapM fun i =>
              (master8.reduceShard c soloJob.size (master8.parts o) i (fun r => if r = 0 then some mine else none)).map fun b => (i, b)) = some rs
        ∧ rs.foldlM (fun d r => d.stageRetained deliver k8 master8 r.1 { step := 1, data := r.2, nonfinite := false }) d2 = .ok d3 :=
  ⟨⟨rfl, rfl⟩, by decide, by decide, rfl, rfl, rfl, rfl, rfl, rfl, rfl, by decide, rfl, by decide, by decide, rfl,
    _, _, _, _, _, rfl, rfl, rfl, rfl, rfl⟩

theorem witness_SrcCommitAck : let r : SrcRef := { stream := 9, members := [1, 2], extents := [100] }
    let d : Device := { dev0 with srcRefs := [r] }
    d.clocked = true ∧ (d.srcRefs.find? fun r => r.stream = 9 && r.members.contains 2) = some r := by decide
theorem witness_MirrorAck7 : let e := { cmd .shardUpdate [] with shards := [staged7] }
    let d := (on e).dev
    d.clocked = true ∧ ((d.streamEntries 9).find? fun e => e.inFlight && e.shards.any fun x =>
      !x.acked && x.index = 0 && x.tensor = tensorKeyOf e.lot (h7 % 2 ^ 24)) = some e ∧ d.entry e.id = some e := ⟨rfl, rfl, rfl⟩

/-- The image of shard 0 of tensor 7 at the twin. -/
def image7 : ShardImage :=
  { handle := h7, shard := 0, version := 4, step := 3, master := [1, 2], updates := 3, flags := 0, comp := [], moment := [], sketch := [] }

theorem witness_CommitNotice : dev0.heldExtents 1 + extentsOf 2 ≤ dev0.quotaExtents 1 ∧ (∃ xs d1, dev0.placeCopy 1 2 = some (xs, d1))
    ∧ ({ dev0 with hosts := { dev0.hosts with image := {} } } : Device).quotaExtents 1 < 1 ∧ dev0.clocked = true := ⟨by decide, ⟨_, _, rfl⟩, by decide, rfl⟩

/-! ### Witnesses: gathers, updates, steps -/

/-- A launch on core 0 that reads PARAMETER tensor 8 in the forward phase of step 1; its shard has a version of a step. -/
def gather8 : Entry :=
  { cmd .opLaunch [(16, 4, h8), (32, 1, 1), (33, 1, 0), (36, 4, h8)] with ran := true, decl := reads2, step := 1, ordinal := 1, tensors := [k7, k8] }
def gatheringOf (v : Shard) (e : Entry := gather8) : State := { solo e small7 v with eng := { cores := [(0, { kernel := some 1 })] } }
def gathering : State := gatheringOf { version := 1 }

/-- What that launch asks for, in a phase, its slot marked for a backward regather or not. -/
def asked (phase : Nat := 0) (regather : Bool := false) : GatherRequest :=
  { lot := 1, user := 0, job := 3, step := 1, phase := phase, handle := h8, shard := 0, regather := regather, version := 1 }

theorem witness_GatherForward : let d := gathering.dev
    let v := d.shardOf k8 0
    v.split = false ∧ v.version ≠ 0 ∧ (asked).phase ≠ 0xFF ∧ master8.job = (asked).job ∧ master8.job ≠ 0 ∧ (asked).regather = false
      ∧ d.awaitsRethread k8 master8 1 = false ∧ v.step + 1 = (asked).step ∧ ∃ m d1, d.fetchMaster 1 k8 0 1 = .ok (m, d1) :=
  ⟨rfl, by decide, by decide, rfl, by decide, rfl, by decide, by decide, _, _, rfl⟩
theorem witness_GatherPins : let d := gathering.dev
    let v := d.shardOf k8 0
    ∃ m d1, d.fetchMaster 1 k8 0 1 = .ok (m, d1)
      ∧ (let r := d1.serve 1 (some 1) k8 master8 0 { version := v.version, step := v.step, master := m, comp := v.comp }
         ∃ d2, r.2.pin (asked 0 true) (some gather8) k8 v.version r.1 = .ok d2) := ⟨_, _, rfl, _, rfl⟩
theorem witness_GatherHeld : let h : HeldVersion := { version := 1, step := 0, flags := 0, updates := 0, digest := 0, time := 0, master := zeros 8, comp := [] }
    let d := (gatheringOf { version := 2, step := 1, held := some h }).dev
    (d.shardOf k8 0).step = (asked).step ∧ (d.shardOf k8 0).held = some h ∧ ∃ d1, d.readCopy h.extents = .ok d1 := ⟨rfl, rfl, _, rfl⟩
theorem witness_GatherBackward : let b : PinBuffer := { version := 1, bits := zeros 2, users := [(0, 1)] }
    let d := (gatheringOf { version := 2, step := 1, pins := [b] }).dev
    (asked 1 true).phase = 1 ∧ versionNear (asked 1 true).version (d.shardOf k8 0).version = true
      ∧ (d.shardOf k8 0).pins.find? (fun b => b.version = 1) = some b ∧ ∃ d1, d.readCopy b.extents = .ok d1 := ⟨rfl, rfl, rfl, _, rfl⟩
theorem witness_GatherStops : ((gatheringOf { split := true }).dev.shardOf k8 0).split = true ∧ ((gatheringOf {}).dev.shardOf k8 0).version = 0
    ∧ (asked).step < ((gatheringOf { version := 3, step := 2 }).dev.shardOf k8 0).step
    ∧ (asked 0xFF).phase = 0xFF := ⟨rfl, rfl, by decide, rfl⟩
theorem witness_GatherOwn : let s := gathering
    s.dev.running = true ∧ s.dev.launchOf 9 = some gather8 ∧ s.dev.gathersFrom gather8 0 = some (k8, master8)
      ∧ (s.dev.ownedShards k8 master8).contains 0 = true
      ∧ ∃ c d1, gatherBody (some gather8) (s.dev.askOf gather8 1 k8 master8 0 0) k8 master8 s.dev = .ok (c, d1)
          ∧ (∃ k, ({ s with dev := d1 } : State).kernelOf 0 = some k ∧ k.id = gather8.id)
          ∧ spanOk 64 (master8.widen (d1.partsOf k8 master8) c.scale c.bits).length = true :=
  ⟨rfl, rfl, rfl, by decide, _, _, rfl, ⟨_, rfl, rfl⟩, by decide⟩
/-- The FP32 master 1, 2 arrives by way of FP8 E4M3 as BF16. -/
theorem test_shardGather : (match exec (.shardGather 9 0 0 .own (0, 64)) gathering with
    | .next t => t.eng.read 0 64 4 = toLE 2 0x3F80 ++ toLE 2 0x4000
    | _ => false) = true := by decide

/-- The same launch on the pair of devices, where another device owns shard 1; and a user of that box. -/
def row8 : Tensor := { master8 with shardDim := some 0, dims := [4], size := 8 }
def gathering2 : State :=
  { paired gather8 { (solo gather8 small7 { version := 1 }).dev with tensors := [(k7, small7), (k8, row8)] } { pairJob with entries := [1, 1, 1, 1, 0x10] } with
    eng := { cores := [(0, { kernel := some 1 })] } }
def user1 : GatherRequest := { (asked) with user := 1 }

theorem witness_GatherRemote : let s := gathering2
    s.dev.running = true ∧ s.dev.launchOf 9 = some gather8 ∧ s.dev.gathersFrom gather8 0 = some (k8, row8)
      ∧ (s.dev.ownedShards k8 row8).contains 1 = false ∧ (s.dev.askOf gather8 1 k8 row8 0 1).handle = h8
      ∧ (s.dev.askOf gather8 1 k8 row8 0 1).phase ≠ 1 ∧ s.kernelOf 0 = some gather8 := ⟨rfl, rfl, rfl, by decide, by decide, by decide, rfl⟩
theorem witness_GatherServe : let s := gathering2
    s.dev.lookup 1 h8 = some (k8, row8) ∧ user1.user ≠ s.dev.rank (s.dev.job 3) ∧ s.dev.servesShard k8 row8 0 = true
      ∧ (∃ p vc, s.dev.routeTo ((s.dev.job 3).posOf 1) 2 = some (p, vc) ∧ (s.dev.port p).canSend vc = true)
      ∧ ∃ c d1, gatherBody none user1 k8 row8 s.dev = .ok (c, d1) := ⟨rfl, by decide, by decide, ⟨_, _, rfl, by decide⟩, _, _, rfl⟩

/-- SHARD_UPDATE of shard 0 of tensor 8 for step 1, learning rate 1/2, β1 and β2 0, ε 1, and no weight decay. -/
def update8 : Entry := { cmd .shardUpdate [(16, 4, h8), (20, 4, 0), (24, 8, 1), (32, 4, 0x3F000000), (44, 4, 0x3F800000)] with tensors := [k8] }
def grad8 (bits : Nat := 0x3F800000) : Retained := { step := 1, data := toLE 4 bits ++ toLE 4 0 }
def updating (bits : Nat := 0x3F800000) : State := solo update8 small7 { master8.newShard 1 with version := 1, retained := some (grad8 bits) }

/-- What the statement of the update of one shard asks, with the next master. -/
def updatable (s : State) (bad : Bool) : Prop :=
  let d := s.dev
  let v := d.shardOf k8 0
  ∃ h d1 master d2, hyperOf update8 = some h ∧ d.entry update8.id = some update8 ∧ v.step ≠ 1 ∧ d.readCopy v.extents = .ok d1
    ∧ master8.rootAligned (d.partsOf k8 master8) 0 (none, none) = true ∧ (update8.param 52 1).testBit 0 = false
    ∧ d1.fetchMaster update8.lot k8 0 update8.op.traffic = .ok (master, d2)
    ∧ ∃ g, v.retained = some g ∧ g.step = 1 ∧ g.extents = []
      ∧ (let u := master8.update h false (d.partsOf k8 master8) 0 1 (none, none) v g master
         u.bad = bad ∧ ∃ d3 xs d4, d2.putMaster update8 k8 0 u.master = .ok d3
          ∧ d3.takeCopy update8 (u.comp.length + u.moment.length + u.sketch.length) = .ok (xs, d4))

theorem witness_UpdateShard : updatable (updating) false := ⟨_, _, _, _, rfl, rfl, by decide, rfl, by decide, rfl, rfl, _, rfl, rfl, rfl, by decide, _, _, _, rfl, rfl⟩
theorem witness_UpdateSkips : updatable (updating 0x7F800000) true := ⟨_, _, _, _, rfl, rfl, by decide, rfl, by decide, rfl, rfl, _, rfl, rfl, rfl, by decide, _, _, _, rfl, rfl⟩
theorem witness_ShardUpdate : let d := (updating).dev
    ∃ h d1 d2 x, Turn (updating) 9 .shardUpdate update8 ∧ hyperOf update8 = some h ∧ d.find update8 (update8.param 16 4) = .ok (k8, master8)
      ∧ master8.job = (d.stream update8.stream).job ∧ (d.ownedShards k8 master8).contains (update8.param 20 4) = true
      ∧ d.claim update8 (d.masterRanges k8 master8 [0]) = .ok d1 ∧ (d.shardOf k8 0).version ≠ 0 ∧ d.awaitsRethread k8 master8 1 = false
      ∧ [0].foldlM (fun d i => d.updateShard update8 h k8 master8 1 i) d1 = .ok d2 ∧ d2.entry update8.id = some x :=
  ⟨_, _, _, _, ⟨rfl, rfl⟩, rfl, rfl, rfl, by decide, rfl, by decide, by decide, rfl, rfl⟩

/-- STEP_COMMIT of step 1, with the shard at that step. -/
def commit1 : Entry := wide .stepCommit [(16, 8, 1)]
def stepping (v : Shard := { version := 2, step := 1 }) (e : Entry := commit1) : State := solo e small7 v

theorem witness_StepCommit : let s := stepping
    Turn s 9 .stepCommit commit1 ∧ s.dev.entry commit1.id = some commit1 ∧ commit1.param 16 8 = (s.dev.job 3).counter + 1
      ∧ ((s.dev.jobShards 1 3).any fun x => (s.dev.shardOf x.1 x.2.2).step < 1) = false ∧ (s.dev.jobShards 1 3).length = 1
      ∧ (s.dev.job 3).size ≤ ({} : StepInput).counters.length + 1 ∧ (∀ x ∈ s.dev.jobShards 1 3, (s.dev.job 3).digestDue x.1 1 = false) :=
  ⟨⟨rfl, rfl⟩, rfl, by decide, by decide, by decide, by decide, by decide⟩
theorem witness_StepWaits : ((stepping { version := 1 }).dev.jobShards 1 3).any (fun x => ((stepping { version := 1 }).dev.shardOf x.1 x.2.2).step < 1) = true
    ∧ ({} : StepInput).counters.length + 1 < pairJob.size
    ∧ (let e := wide .stepCommit [(16, 8, 2)]; Turn (stepping {} e) 9 .stepCommit e ∧ e.param 16 8 ≠ ((stepping {} e).dev.job 3).counter + 1) :=
  ⟨by decide, by decide, ⟨⟨rfl, rfl⟩, by decide⟩⟩
theorem witness_StepSplits : let s : State := { dev := (stepping).dev.setJob 3 { (stepping).dev.job 3 with digestForce := [k8] } }
    let i : StepInput := { replicas := [(h8, 0, [{ device := 1, digest := 5, image := image7 }])] }
    (s.dev.job 3).digestDue k8 1 = true ∧ (i.replicas.find? fun r => r.1 = master8.handle k8 && r.2.1 = 0).isSome = true
      ∧ majority [(s.dev.shardOf k8 0).digest, 5] = none := ⟨by decide, by decide, by decide⟩
theorem witness_PhaseBoundary : let s : State := { dev := { dev0 with jobs := [(3, soloJob)] } }
    s.dev.running = true ∧ s.dev.phaseEnded 3 = true ∧ (s.dev.job 3).phase ≠ 2 ∧ State.reset.dev.running = false := ⟨rfl, by decide, by decide, rfl⟩
theorem witness_PhaseStays : let e := { launch8 with ran := true }
    let s := on e { dev0 with jobs := [(3, soloJob)] }
    ∃ e ∈ s.dev.journal, (s.dev.stream e.stream).job = 3 ∧ e.status.good = true ∧ e.op = .opLaunch ∧ e.phase = .dispatched ∧ e.ran = true
      ∧ e.phaseByte = (s.dev.job 3).phase := ⟨_, List.mem_singleton.mpr rfl, rfl, rfl, rfl, rfl, rfl, rfl⟩

def digest (action handle : Nat) : Entry := wide .digestCheck [(16, 4, handle), (20, 4, 65535), (24, 1, action)]

theorem witness_DigestCheck : Turn (solo (digest 0 h8)) 9 .digestCheck (digest 0 h8)
    ∧ (solo (digest 0 h8)).dev.find (digest 0 h8) ((digest 0 h8).param 16 4) = .ok (k8, master8) ∧ master8.param = true
    ∧ (digest 0 h8).param 24 1 = 0 ∧ (digest 0 h8).param 20 4 ≤ 65535
    ∧ Turn (solo (digest 1 0)) 9 .digestCheck (digest 1 0) ∧ (digest 1 0).param 16 4 = 0 ∧ (digest 1 0).param 24 1 = 1
    ∧ Turn (solo (digest 2 0)) 9 .digestCheck (digest 2 0) ∧ (digest 2 0).param 24 1 = 2
    ∧ Turn (solo (digest 3 0)) 9 .digestCheck (digest 3 0) ∧ 2 < (digest 3 0).param 24 1 :=
  ⟨⟨rfl, rfl⟩, rfl, rfl, by decide, by decide, ⟨rfl, rfl⟩, by decide, by decide, ⟨rfl, rfl⟩, by decide, ⟨rfl, rfl⟩, by decide⟩

/-! ### Witnesses: securing, difference streams, snapshots, adoption -/

def secure (fs : List (Nat × Nat × Nat)) : Entry := wide .secureNow fs
def diffJob : Job := { soloJob with diff := some { settings := { ring := 0x10000, ringBytes := 2 ^ 20 } } }

theorem witness_SecureQuery : Turn (solo (secure [(16, 1, 4)])) 9 .secureNow (secure [(16, 1, 4)]) ∧ (secure [(16, 1, 4)]).param 17 1 = 0
    ∧ (secure [(16, 1, 4)]).param 18 1 = 0 := ⟨⟨rfl, rfl⟩, rfl, rfl⟩
theorem witness_SecurePass : let e := secure []
    Turn (solo e small7 {} diffJob) 9 .secureNow e ∧ e.param 16 1 = 0 ∧ ((solo e small7 {} diffJob).dev.job 3).diff.isSome = true
      ∧ ∃ d1, secureMatch e (solo e small7 {} diffJob).dev = .ok d1 := ⟨⟨rfl, rfl⟩, rfl, rfl, _, rfl⟩
theorem witness_SecureRecovery : let e := secure [(16, 1, 1), (24, 4, 10000000)]
    Turn (paired e) 9 .secureNow e ∧ e.param 16 1 = 1 ∧ e.param 17 1 = 0 ∧ e.param 18 1 = 0 ∧ e.param 24 4 ≤ 10000000 ∧ pairJob.size ≠ 1
      ∧ ∃ d1, secureMatch e (paired e).dev = .ok d1 := ⟨⟨rfl, rfl⟩, rfl, rfl, rfl, by decide, by decide, _, rfl⟩
theorem witness_SecureTensor : let e := secure [(16, 1, 2), (17, 1, 2), (20, 4, h8)]
    Turn (solo e) 9 .secureNow e ∧ e.param 16 1 = 2 ∧ e.param 18 1 = 0 ∧ (solo e).dev.find e (e.param 20 4) = .ok (k8, master8) ∧ e.param 17 1 = 2
      ∧ ∃ d1, secureMatch e (solo e).dev = .ok d1 := ⟨⟨rfl, rfl⟩, rfl, rfl, rfl, rfl, _, rfl⟩
theorem witness_SecureCursor : let e := secure [(16, 1, 3), (17, 1, 1), (20, 4, h7)]
    Turn (solo e) 9 .secureNow e ∧ e.param 16 1 = 3 ∧ e.param 18 1 = 0 ∧ (solo e).dev.find e (e.param 20 4) = .ok (k7, small7) ∧ small7.param = false
      ∧ small7.size ≤ 4096 ∧ ((solo e).dev.job 3).cursors.length < 16 ∧ ∃ d1, secureMatch e (solo e).dev = .ok d1 :=
  ⟨⟨rfl, rfl⟩, rfl, rfl, rfl, rfl, by decide, by decide, _, rfl⟩
theorem witness_SecureCommits : (secure []).param 16 1 = 0 ∧ (secure [(16, 1, 1)]).param 16 1 = 1 ∧ (secure [(16, 1, 2), (17, 1, 2)]).param 17 1 ≠ 0
    ∧ (secure [(16, 1, 3)]).param 16 1 = 3 ∧ (secure [(16, 1, 5)]).param 20 4 = 0 := by decide

/-- A restore of the SPLIT shard of the mirrored tensor 8 from its frozen copy of the secured step 1. -/
def image8 : ShardImage :=
  { handle := h8, shard := 0, version := 2, step := 1, updates := 1, flags := 0, master := toLE 8 0, comp := toLE 8 0, moment := toLE 8 0, sketch := [] }
def restore8 : Entry := secure [(16, 1, 5), (20, 4, h8)]
def splitJob : Job := { pairJob with secured := some 1 }
def restoring : State :=
  paired restore8 { (solo restore8).dev with shards := [(shardKey k8 0, { master8.newShard 1 with version := 3, step := 2, split := true, frozen := [image8] })] } splitJob

theorem witness_Restore : let d := restoring.dev
    Turn restoring 9 .secureNow restore8 ∧ restore8.param 16 1 = 5 ∧ restore8.param 17 1 = 0 ∧ restore8.param 18 1 = 0 ∧ restore8.param 20 4 ≠ 0
      ∧ d.find restore8 (restore8.param 20 4) = .ok (k8, master8) ∧ (restore8.param 32 8).testBit 63 = false ∧ restore8.param 32 8 = 0
      ∧ splitJob.secured = some 1 ∧ splitJob.lastRethread = none ∧ ([] : Bytes).length ≤ restore8.param 40 8 ∧ d.isMirror k8 master8 = true
      ∧ (((d.ownedShards k8 master8).filter fun i => (d.shardOf k8 i).split).map fun i => (k8, master8, i)) = [(k8, master8, 0)]
      ∧ d.restoreImage (recordsOf []) k8 master8 0 1 = some image8
      ∧ ∃ d2 d3, d.claim restore8 (d.masterRanges k8 master8 [0]) = .ok d2
        ∧ [image8].foldlM (fun d i => d.stageRestore restore8 k8 master8 i 1) d2 = .ok d3 :=
  ⟨⟨rfl, rfl⟩, rfl, rfl, rfl, by decide, rfl, rfl, rfl, rfl, rfl, by decide, by decide, by decide, rfl, _, _, rfl, rfl⟩
theorem witness_StageRestore : let d := restoring.dev
    d.entry restore8.id = some restore8 ∧ ∃ d1 xs d2, d.putMaster restore8 k8 0 image8.master = .ok d1 ∧ d1.takeCopy restore8 16 = .ok (xs, d2) :=
  ⟨rfl, _, _, _, rfl, rfl⟩

def diffCtl (fs : List (Nat × Nat × Nat)) : Entry := cmd .diffStreamCtl fs
def toPort : Entry := diffCtl [(16, 1, 2), (17, 1, 92), (20, 4, 64)]
def toHost : Entry := diffCtl [(16, 1, 1), (20, 4, 65536), (24, 8, 64), (32, 8, 2 ^ 20)]

theorem witness_DiffCtl : Turn (solo (diffCtl [])) 9 .diffStreamCtl (diffCtl []) ∧ (diffCtl []).param 16 1 = 0 ∧ (diffCtl []).param 17 1 = 0
    ∧ Turn (solo toPort) 9 .diffStreamCtl toPort ∧ toPort.param 16 1 = 2 ∧ (diffSettings toPort.packet).backlog = 64
    ∧ (diffSettings toPort.packet).port = some 92 ∧ (diffSettings toPort.packet).ring = 0 ∧ ((solo toPort).dev.lot 1).auxPorts.testBit 0 = true
    ∧ Turn (solo toHost) 9 .diffStreamCtl toHost ∧ toHost.param 16 1 = 1 ∧ toHost.param 17 1 = 0 ∧ (diffSettings toHost.packet).backlog = 65536
    ∧ (diffSettings toHost.packet).port = none ∧ (diffSettings toHost.packet).ringBytes % 4096 = 0 ∧ 2 ^ 20 ≤ (diffSettings toHost.packet).ringBytes
    ∧ (diffSettings toHost.packet).ring % 64 = 0 :=
  ⟨⟨rfl, rfl⟩, rfl, rfl, ⟨rfl, rfl⟩, rfl, rfl, rfl, rfl, rfl, ⟨rfl, rfl⟩, rfl, rfl, rfl, rfl, by decide, by decide, by decide⟩
theorem witness_DiffCommit : rd toHost.packet 16 1 ≠ 0 ∧ ((solo toHost).dev.job 3).diff = none ∧ diffJob.diff.isSome = true
    ∧ rd (diffCtl []).packet 16 1 = 0 := by decide

/-- A stream whose backlog holds a record of 64 bytes, its ring of 1 MiB empty, with PRODUCER somewhere; and one on auxiliary port 92. -/
def diffing (producer : Nat := 0) : DiffStream :=
  { settings := { ring := 0x10000, ringBytes := 2 ^ 20 }, producer := producer, consumer := producer, backlog := [{ kind := 2, step := 1, bytes := zeros 64 }] }
def diffingPort : DiffStream := { (diffing) with settings := { ring := 0, ringBytes := 0, port := some 92 } }

theorem witness_DiffRecord : let s := solo (diffCtl []) small7 {} { soloJob with diff := some (diffing) }
    (s.dev.job 3).sink 0 = some (diffing) ∧ s.dev.running = true ∧ (diffing).settings.port = none ∧ s.dev.hostReachable (s.dev.job 3).lot = true
      ∧ ((diffing).acknowledge 0).nextWrite.isSome = true ∧ (s.dev.job 3).sink 1 = none := ⟨rfl, rfl, rfl, by decide, by decide, rfl⟩
/-- A record that fits; one that needs a PAD to the ring's end; and a ring without room. -/
theorem witness_DiffNextWrite : let cap := (diffing).settings.ringBytes - 64
    (diffing).producer + 64 ≤ cap ∧ ((diffing).producer + cap - (diffing).consumer) % cap + 64 < cap
      ∧ (let y : DiffStream := { diffing (cap - 64) with backlog := [{ kind := 2, step := 1, bytes := zeros 128 }] }
         cap < y.producer + 128 ∧ (y.producer + cap - y.consumer) % cap + (cap - y.producer) + 128 < cap)
      ∧ (let y : DiffStream := { (diffing) with consumer := 64 }; cap ≤ (y.producer + cap - y.consumer) % cap + 64) := by decide
theorem witness_DiffPort : let s : State := { dev := { (solo (diffCtl []) small7 {} { soloJob with diff := some diffingPort }).dev with
      links := { ports := [(92, { state := .enabled, lstate := 4, credits := [4, 4, 4, 4, 4, 4, 4, 4] })] } } }
    (s.dev.port 92).canSend 7 = true ∧ (diffingPort.acknowledge 0).settings.port = some 92 ∧ (diffingPort.acknowledge 0).backlog ≠ [] := by decide

/-- A snapshot to the host, to a peer, and one to be received into tensor 7 of bytes. -/
def snap (fs : List (Nat × Nat × Nat)) : Entry := { cmd .snapshotShip fs with tensors := [k7, k8] }
def ship : Entry := snap [(32, 8, 64), (40, 8, 2 ^ 20)]
def shipPeer : Entry := { snap [(29, 1, 1)] with ran := true }
def receive7 : Entry := snap [(29, 1, 2), (52, 4, h7)]

theorem witness_SnapshotToHost : let s := solo ship small7 { master8.newShard 1 with version := 1 }
    Turn s 9 .snapshotShip ship ∧ ship.param 29 1 = 0 ∧ ship.param 52 4 = 0 ∧ ship.param 32 8 % 64 = 0 ∧ ship.param 24 4 = 0
      ∧ ship.image = none ∧ ship.reserved = 0 ∧ s.dev.heldExtents 1 + s.dev.snapExtents ship ≤ s.dev.quotaExtents 1
      ∧ snapStep ship s.dev = (s.dev.job 3).counter
      ∧ (let d1 := s.dev.modEntry ship.id fun x => { x with reserved := s.dev.snapExtents ship }
         ∃ image, d1.snapImage ship (s.dev.job 3).counter = some image ∧ decide (image.length ≤ ship.param 40 8) = true
          ∧ (d1.modEntry ship.id fun x => { x with image := some image, ran := true }).hostReachable 1 = true) :=
  ⟨⟨rfl, rfl⟩, rfl, rfl, by decide, rfl, rfl, rfl, by decide, by decide, _, rfl, by decide, by decide⟩
theorem witness_SnapshotWaits : let e := snap [(16, 8, 1), (32, 8, 64)]
    Turn (solo e) 9 .snapshotShip e ∧ ((solo e).dev.job 3).counter < snapStep e (solo e).dev := ⟨⟨rfl, rfl⟩, by decide⟩
theorem witness_SnapshotReceive : let s := solo receive7 bytes7
    Turn s 9 .snapshotShip receive7 ∧ receive7.param 29 1 = 2 ∧ s.dev.find receive7 (receive7.param 52 4) = .ok (k7, bytes7) ∧ receive7.param 40 8 = 0
      ∧ bytes7.fmt = .uint8 := ⟨⟨rfl, rfl⟩, rfl, rfl, rfl, rfl⟩
theorem witness_SnapshotPeer : let s : State := { (solo shipPeer) with dev := { (solo shipPeer).dev with time := 1000000 } }
    Turn s 9 .snapshotShip shipPeer ∧ shipPeer.ran = true ∧ shipPeer.param 29 1 = 1 ∧ shipPeer.shipAt + 1000000 ≤ s.dev.time :=
  ⟨⟨rfl, rfl⟩, rfl, rfl, by decide⟩
theorem witness_SnapshotArrives : let e := { receive7 with ran := true }
    let s := solo e bytes7
    Turn s 9 .snapshotShip e ∧ e.ran = true ∧ e.param 29 1 = 2 ∧ (recordsOf []).all (fun r => r.1.kind ≠ 2) = true
      ∧ s.dev.find e (e.param 52 4) = .ok (k7, bytes7) ∧ ([] : Bytes).length ≤ bytes7.size
      ∧ ∃ d1 d2, s.dev.claim e [(k7, 0, 0)] = .ok d1 ∧ d1.putTensor e k7 0 [] = .ok d2 := ⟨⟨rfl, rfl⟩, rfl, rfl, by decide, rfl, by decide, _, _, rfl, rfl⟩

/-- A spare to which the image in force gives position 1 of the pair, and the command with which it takes it. -/
def adopt : Entry := { cmd .spareAdopt [(16, 8, 1), (24, 2, 4)] with lot := 0 }
def spare (e : Entry) : State := on e { dev0 with hosts := { dev0.hosts with image := { dev0.hosts.image with coord := 1, dims := 1, log2 := [1, 0, 0] } } }

theorem witness_AdoptLinks : let s := spare adopt
    Turn s 9 .spareAdopt adopt ∧ adopt.ran = false ∧ s.dev.links.role = 1 ∧ adopt.param 16 8 < 2 ^ 14
      ∧ ({ dims := s.dev.hosts.image.dims, log2 := s.dev.hosts.image.log2 } : Links).inShape (adopt.param 16 8) = true
      ∧ s.dev.hosts.image.coord = adopt.param 16 8 ∧ adopt.param 26 1 ≤ 1 ∧ (adopt.param 26 1 = 1 ↔ ({} : AdoptInput).waitOnly = true) :=
  ⟨⟨rfl, rfl⟩, rfl, rfl, by decide, by decide, by decide, by decide, by decide⟩
theorem witness_AdoptState : let e := { adopt with ran := true }
    Turn (spare e) 9 .spareAdopt e ∧ e.ran = true ∧ (spare e).dev.portsTraining = false ∧ e.param 26 1 = 0
      ∧ ∃ d1 n, ((spare e).dev.floodAll (.adopted (spare e).dev.links.coord (spare e).dev.links.adoptGen)).adoptState {} false (e.param 40 8) = some (d1, n) :=
  ⟨⟨rfl, rfl⟩, rfl, by decide, rfl, _, _, rfl⟩
theorem witness_AdoptionNotice : (paired barrier).dev.clocked = true ∧ ((paired barrier).dev.job 3).declared = true
    ∧ ((paired barrier).dev.job 3).contains 1 = true ∧ ((paired barrier).dev.job 3).contains 4 = false := by decide

/-! ### Witnesses: curvature statistics and solves -/

/-- A weight of 32 × 32 at index 8 and a diagonal factor for it at index 7. -/
def weight8 : Tensor := { master8 with dims := [32, 32], size := 4096 }
def factor7 : Tensor := { tensor7 with dims := [32], size := 128 }
def stats7 (flags : Nat) : Entry := wide .statsConfig [(16, 4, h7), (20, 4, h8), (36, 1, 2), (40, 2, 1), (44, 1, flags)]
def context7 : StatsCtx := { weight := k8, kind := 2, enable := true, rows := 1, bytes := 128, width := 32 }
def curvJob : Job := { soloJob with phase := 2 }
def statsDev (c : Table StatsCtx) : Device :=
  { (solo (stats7 0) factor7 {} curvJob).dev with tensors := [(k7, factor7), (k8, weight8)], solver := { contexts := c } }

theorem witness_StatsConfig : let s := on (stats7 0) (statsDev [])
    Turn s 9 .statsConfig (stats7 0) ∧ s.dev.find (stats7 0) ((stats7 0).param 16 4) = .ok (k7, factor7) ∧ ((stats7 0).param 44 1).testBit 2 = false
      ∧ s.dev.find (stats7 0) ((stats7 0).param 20 4) = .ok (k8, weight8) ∧ factor7.dims = factorDims 2 32 weight8 ∧ expertsOf weight8 = 1
      ∧ f32unit ((stats7 0).param 28 4) = true ∧ f32nonneg ((stats7 0).param 32 4) = true ∧ (stats7 0).param 24 4 = 0
      ∧ s.dev.contextCount (some 1) + (s.dev.stagedContexts 1 (some 1)).length < (s.dev.lot 1).statsMax
      ∧ s.dev.contextCount none + (s.dev.stagedContexts 1 none).length < 16384
      ∧ s.dev.heldExtents 1 + 1 * extentsOf (partialBytes 2 32) ≤ s.dev.quotaExtents 1 := by
  refine ⟨⟨rfl, rfl⟩, rfl, rfl, rfl, ?_, ?_, ?_, ?_, ?_, ?_, ?_, ?_⟩ <;> decide
theorem witness_StatsQuery : let s := on (stats7 4) (statsDev [(ctxKey k7 0, context7)])
    Turn s 9 .statsConfig (stats7 4) ∧ s.dev.find (stats7 4) ((stats7 4).param 16 4) = .ok (k7, factor7) ∧ ((stats7 4).param 44 1).testBit 2 = true
      ∧ Tab.find s.dev.solver.contexts (ctxKey k7 0) = some context7 := ⟨⟨rfl, rfl⟩, rfl, rfl, rfl⟩
/-- An ADAPTIVE factor of bytes, of kind 4. -/
theorem witness_StatsConfigBytes : let e := wide .statsConfig [(16, 4, h7), (36, 1, 4), (40, 2, 1)]
    let s := on e { statsDev [] with tensors := [(k7, { bytes7 with dims := [64] }), (k8, weight8)] }
    Turn s 9 .statsConfig e ∧ s.dev.find e (e.param 16 4) = .ok (k7, { bytes7 with dims := [64] }) ∧ e.param 20 4 = 0 ∧ e.param 36 1 = 4 := ⟨⟨rfl, rfl⟩, rfl, rfl, rfl⟩

/-- A context with this many sampled rows, blended with no peer, in the curvature phase of step 1. -/
def blending (c : StatsCtx) : State := { dev := statsDev [(ctxKey k7 0, c)] }

theorem witness_Blend : let s := blending context7
    s.dev.running = true ∧ s.dev.clocked = true ∧ s.dev.lookup 1 h7 = some (k7, factor7) ∧ Tab.find s.dev.solver.contexts (ctxKey k7 0) = some context7
      ∧ s.dev.tensor context7.weight = some weight8 ∧ (s.dev.job weight8.job).phase = 2 ∧ context7.awaits 1 = true
      ∧ s.dev.ownsContext context7.weight weight8 0 = true ∧ context7.rows ≠ 0 ∧ s.dev.heldFor (ctxKey k7 0) = [] ∧ context7.damp ≠ 2
      ∧ (sumElems 2 32).zipIdx.any (fun x => fNonfinite fp32 (treeSum ([(sumElems 2 32).map fun _ => 0].map fun p => p.getD x.2 0))) = false := by decide
theorem witness_BlendEmpty : Tab.find (blending { context7 with rows := 0 }).dev.solver.contexts (ctxKey k7 0) = some { context7 with rows := 0 }
    ∧ ({ context7 with rows := 0 } : StatsCtx).awaits 1 = true ∧ ({ context7 with reducedAt := some 1 } : StatsCtx).awaits 1 = false := by decide
theorem witness_BlendNonfinite : (sumElems 2 32).zipIdx.any (fun x => fNonfinite fp32 (treeSum ([(sumElems 2 32).map fun _ => 0x7F800000].map fun p => p.getD x.2 0)))
    = true := by decide
theorem witness_BlendHeld : let c := { context7 with damp := 2, partner := k8 }
    let s : State := { dev := statsDev [(ctxKey k7 0, c), (ctxKey k8 0, { context7 with damp := 2, partner := k7 })] }
    c.damp = 2 ∧ ∃ p, Tab.find s.dev.solver.contexts (ctxKey c.partner (ctxKey k7 0 % 2 ^ 16)) = some p ∧ p.awaits 1 = true := ⟨rfl, _, rfl, rfl⟩
theorem witness_BlendElsewhere : (paired (stats7 0) { statsDev [] with tensors := [(k7, factor7), (k8, { weight8 with shardDim := some 0 })] }
    { pairJob with entries := [1, 1, 1, 1, 0x10] }).dev.ownsContext (k8 + 1) { weight8 with shardDim := some 0 } 0 = false := by decide

/-- SOLVE, an inverse root of a 2 × 2 factor at index 7 into index 8, with its own ε. -/
def solve7 : Entry := wide .solve [(16, 1, 3), (17, 1, 1), (19, 1, 2), (20, 4, h7), (24, 4, h8), (36, 2, 1), (40, 2, 2), (44, 4, 0x3F800000)]
def square7 : Tensor := { tensor7 with dims := [2, 2], size := 16 }
def out8 : Tensor := { master8 with param := false, dims := [2, 2, 1], size := 16 }
def solving (e : Entry) (ss : List Solve) (us : Table SolverUnit) (time : Nat) : State :=
  on e { (solo e square7).dev with tensors := [(k7, square7), (k8, out8)], solver := { solves := ss, units := us }, time := time }

theorem witness_SolveAdmitted : let s := solving solve7 [] [] 0
    Turn s 9 .solve solve7 ∧ (s.dev.solver.solves.filter fun z => z.lot = 1).length < (s.dev.lot 1).solveMax ∧ solve7.deadline = 0
      ∧ ∃ x d1 y d2, solveShape solve7 s.dev = .ok x ∧ s.dev.claim solve7 (s.dev.solveRanges solve7) = .ok d1 ∧ (d1.dampingOf solve7).isSome = true
        ∧ d1.capture solve7 { x with after := d1.predecessors solve7 } = .ok (y, d2) :=
  ⟨⟨rfl, rfl⟩, by decide, rfl, _, _, _, _, rfl, rfl, rfl, rfl⟩
theorem witness_SolveUnmeetable : let e := { solve7 with packet := wrAt solve7.packet 48 (toLE 8 1) }
    let s := solving e [] [] 0
    Turn s 9 .solve e ∧ e.deadline ≠ 0
      ∧ ∃ x d1 y d2, solveShape e s.dev = .ok x ∧ s.dev.claim e (s.dev.solveRanges e) = .ok d1
        ∧ d1.capture e { x with after := d1.predecessors e } = .ok (y, d2) ∧ d2.admissible y = false ∧ (d2.entry e.id).isSome = true :=
  ⟨⟨rfl, rfl⟩, by decide, _, _, _, _, rfl, rfl, rfl, by decide, rfl⟩

/-- A solve that waits with its inputs, and its command. -/
def waitingSolve : Solve :=
  { entry := 1, lot := 1, stream := 9, priority := 0, deadline := 0, admitted := 0, fn := 3, iters := 1, width := 2, blockN := 2, factorIn := true, auxIn := true }
def ranSolve7 : Entry := { solve7 with ran := true, wait := .solver }

theorem witness_SolveStart : let s := solving ranSolve7 [waitingSolve] [] 0
    s.dev.running = true ∧ (s.dev.takeBlend 0).unitFree 0 = true ∧ (s.dev.takeBlend 0).nextSolve = some waitingSolve
      ∧ (s.dev.takeBlend 0).entry waitingSolve.entry = some ranSolve7 ∧ waitingSolve.result = none
      ∧ ∃ y d1, (s.dev.takeBlend 0).complete ranSolve7 waitingSolve = .ok (y, d1) := ⟨rfl, by decide, rfl, rfl, rfl, _, _, rfl⟩
theorem witness_SolveStartIdle : (solving ranSolve7 [] [] 0).dev.nextSolve = none ∧ State.reset.dev.running = false := ⟨rfl, rfl⟩

/-- A blend of one part, and a unit that it waits for or that runs it. -/
def blendJob : BlendJob := { lot := 1, step := 1, parts := [{ key := ctxKey k7 0, rows := 1, sums := (List.range 32).map fun _ => 0 }] }

theorem witness_TakeBlend : let d := (solving ranSolve7 [] [(0, { blends := [blendJob] })] 0).dev
    (d.unit 0).blends = [blendJob] ∧ (d.unit 0).busy = false ∧ (d.unit 0).blend = none ∧ (d.unit 0).wipeUntil ≤ d.time := by decide
theorem witness_BlendEnds : let s : State := { dev := { statsDev [(ctxKey k7 0, context7)] with
      solver := { contexts := [(ctxKey k7 0, context7)], units := [(0, { blend := some blendJob })] } } }
    s.dev.clocked = true ∧ s.dev.running = true ∧ (s.dev.unit 0).busy = false ∧ (s.dev.unit 0).blend = some blendJob ∧ blendJob.parts.length = 1
      ∧ Tab.find s.dev.solver.contexts (ctxKey k7 0) = some context7 ∧ s.dev.tensor (ctxKey k7 0 / 2 ^ 16) = some factor7 ∧ blendJob.endsAt ≤ s.dev.time := by
  decide

/-- A solve on unit 0 with its result, whose work is done or not. -/
def solveOnUnit (r : SolveResult) (cycles deadline : Nat) (time steps : Nat := 0) : State :=
  solving ranSolve7 [{ waitingSolve with place := .running 0, result := some r, cycles := cycles, deadline := deadline, steps := steps }] [(0, { busy := true, entry := 1 })] time

theorem witness_SolverStep : let r : SolveResult := { out := [0, 0, 0, 0] }
    let s := solveOnUnit r 64 0
    ∃ x e, s.dev.running = true ∧ s.dev.clocked = true ∧ (s.dev.unit 0).busy = true ∧ s.dev.solveOf (s.dev.unit 0).entry = some x
      ∧ s.dev.entry (s.dev.unit 0).entry = some e ∧ x.result = some r ∧ x.deadline = 0 ∧ r.failure = none ∧ x.cycles ≤ 64 * (x.steps + 1)
      ∧ ∃ d1, ((s.dev.setUnit 0 { s.dev.unit 0 with
          corr := satAdd 0xFFFF (s.dev.unit 0).corr 1, uncorr := satAdd 0xFFFF (s.dev.unit 0).uncorr 0 }).modSolve 1 fun _ => { x with steps := x.steps + 1 }).stageSolve
            e { x with steps := x.steps + 1 } r = .ok d1 ∧ (d1.entry 1).isSome = true :=
  ⟨_, _, rfl, rfl, rfl, rfl, rfl, rfl, rfl, rfl, by decide, _, rfl, rfl⟩
theorem witness_SolverStepOn : let s := solveOnUnit { out := [0, 0, 0, 0] } 65 0
    ∃ x, s.dev.solveOf 1 = some x ∧ 64 * (x.steps + 1) < x.cycles ∧ s.dev.givesWay 0 { x with steps := 1 } = false := ⟨_, rfl, by decide, by decide⟩
theorem witness_SolverStepFails : let s := solveOnUnit { failure := some (2, 0), early := true } 30000 0 0 312
    ∃ x r, s.dev.solveOf 1 = some x ∧ x.result = some r ∧ r.failure = some (2, 0) ∧ r.early = true ∧ 20000 ≤ 64 * (x.steps + 1) :=
  ⟨_, _, rfl, rfl, rfl, rfl, by decide⟩
theorem witness_SolverStepLate : let s := solveOnUnit {} 64 10 10
    ∃ x, s.dev.solveOf 1 = some x ∧ x.deadline ≠ 0 ∧ x.deadline ≤ s.dev.time := ⟨_, rfl, by decide, by decide⟩

/-- PRECOND_INSTALL of the root at index 8 for a weight of 2 × 2. -/
def install8 : Entry := wide .precondInstall [(16, 4, h7), (20, 4, h8), (32, 8, 5)]

theorem witness_Precond : let t : Tensor := { square7 with param := true }
    let s := on install8 { (solving install8 [] [] 0).dev with tensors := [(k7, t), (k8, out8)] }
    Turn s 9 .precondInstall install8 ∧ s.dev.find install8 (install8.param 16 4) = .ok (k7, t) ∧ t.dims.length = 2 ∧ install8.param 30 2 < 1
      ∧ (install8.param 28 1).testBit 0 = false
      ∧ ∃ a d1 g d2, s.dev.rootOf install8 (install8.param 20 4) 0 2 = .ok (a, d1) ∧ d1.rootOf install8 (install8.param 24 4) 1 2 = .ok (g, d2)
        ∧ d2.solver = s.dev.solver := ⟨⟨rfl, rfl⟩, rfl, rfl, by decide, rfl, _, _, _, _, rfl, rfl, rfl⟩

/-! ### Witnesses: lots, configuration, roles, domains -/

/-- An entry of the lot table as bytes: 4 queues, 8 streams. -/
def lotBytes (tag : Nat) : Bytes := fit 128 (toLE 1 tag ++ [1, 0, 4] ++ toLE 4 (8 * tag) ++ toLE 4 8 ++ toLE 4 1 ++ zeros 18 ++ [1])

/-- An image of version 2 up to its zeros: the header, the policy (scratch ways 6), lots 0 and 1. The link map overlaps the empty lots. -/
def imageHead : Bytes := toLE 2 1 ++ toLE 2 2 ++ toLE 4 8320
def imageBody : Bytes :=
  toLE 8 0 ++ toLE 8 (2 ^ 61) ++ [0xF0, 0] ++ toLE 2 0 ++ toLE 4 128 ++ toLE 4 384 ++ toLE 4 64 ++ toLE 8 0 ++ zeros 8
    ++ (zeros 22 ++ [6, 0] ++ zeros 40) ++ lotBytes 0 ++ lotBytes 1
def imageCrc : Nat := crc64 (imageHead ++ zeros 8 ++ (imageBody ++ zeros 7936))
def imageStart : Bytes := imageHead ++ toLE 8 imageCrc ++ imageBody
def imageBytes : Bytes := imageStart ++ zeros 7936

theorem crcBits_lt (n c : Nat) (h : c < 2 ^ 64) : crcBits 64 0x42F0E1EBA9EA3693 n c < 2 ^ 64 := by
  induction n generalizing c with
  | zero => exact h
  | succ n ih =>
    refine ih _ ?_
    have m : c * 2 % 2 ^ 64 < 2 ^ 64 := Nat.mod_lt _ (by decide)
    split
    · exact Nat.xor_lt_two_pow m (by decide)
    · exact m
theorem crc64_lt (bs : Bytes) (c : Nat) (h : c < 2 ^ 64) : bs.foldl (crcByte 64 0x42F0E1EBA9EA3693) c < 2 ^ 64 := by
  induction bs generalizing c with
  | nil => exact h
  | cons b t ih =>
    refine ih _ (crcBits_lt _ _ (Nat.xor_lt_two_pow h ?_))
    have := b.isLt
    omega
theorem leNat_toLE (n v : Nat) : leNat (toLE n v) = v % 256 ^ n := by
  induction n generalizing v with
  | zero => simp [toLE, leNat, Nat.mod_one]
  | succ n ih => simp [toLE, leNat, ih, Nat.pow_succ, Nat.mod_mul, Nat.mul_comm]
theorem leNat_zeros (n : Nat) : leNat (zeros n) = 0 := by
  induction n with
  | zero => rfl
  | succ n ih => simp only [zeros, List.replicate_succ, leNat] at *; rw [ih]; rfl
theorem rd_zeros (p : Bytes) (n off k : Nat) (h : p.length ≤ off) : rd (p ++ zeros n) off k = 0 := by
  rw [rd, List.drop_append, List.drop_of_length_le h, List.nil_append, zeros, List.drop_replicate, List.take_replicate]
  exact leNat_zeros _
theorem section_zeros (p : Bytes) (n off k : Nat) (h : p.length ≤ off) (g : off + k ≤ p.length + n) : sectionOf (p ++ zeros n) off k = zeros k := by
  rw [sectionOf, List.drop_append, List.drop_of_length_le h, List.nil_append, zeros, List.drop_replicate, List.take_replicate, zeros]
  congr 1; omega
theorem toLE_length (n v : Nat) : (toLE n v).length = n := by
  induction n generalizing v with
  | zero => rfl
  | succ n ih => simp [toLE, ih]

theorem imageStart_length : imageStart.length = 384 := by
  simp only [imageStart, List.length_append, toLE_length]; decide
theorem imageBytes_length : imageBytes.length = 8320 := by
  rw [imageBytes, List.length_append, imageStart_length, zeros, List.length_replicate]
theorem image_crc : rd imageBytes 8 8 = crc64 (imageBytes.take 8 ++ zeros 8 ++ imageBytes.drop 16) := by
  have a : imageBytes.take 8 = imageHead := rfl
  have b : imageBytes.drop 16 = imageBody ++ zeros 7936 := rfl
  have c : (imageBytes.drop 8).take 8 = toLE 8 imageCrc := rfl
  rw [a, b, rd, c, leNat_toLE, Nat.mod_eq_of_lt]
  · rfl
  · exact crc64_lt _ 0 (by decide)
/-- What the sections of the image hold from lot 2 on. -/
theorem image_lots (i : Nat) (h : 2 ≤ i) (g : i < 64) : sectionOf imageBytes (128 + 128 * i) 128 = zeros 128 :=
  section_zeros _ _ _ _ (by rw [imageStart_length]; omega) (by rw [imageStart_length]; omega)
theorem image_links (p k : Nat) : rd imageBytes (384 + 16 * p) k = 0 ∧ rd imageBytes (384 + 16 * p + 8) k = 0 :=
  ⟨rd_zeros _ _ _ _ (by rw [imageStart_length]; omega), rd_zeros _ _ _ _ (by rw [imageStart_length]; omega)⟩
theorem image_fields : rd imageBytes 36 4 = 128 ∧ rd imageBytes 40 4 = 384 ∧ rd imageBytes 44 4 = 64 ∧ rd imageBytes 52 4 = 0 := by
  refine ⟨rfl, rfl, rfl, rfl⟩
theorem image_reserved : imageReservedOk imageBytes = true := by
  have l : (List.range 64).all (fun i => lotReservedOk (sectionOf imageBytes (128 + 128 * i) 128)) = true := by
    rw [List.all_eq_true]
    intro i hi
    have hi := List.mem_range.mp hi
    by_cases h : 2 ≤ i
    · rw [image_lots i h hi]; decide
    · have : i = 0 ∨ i = 1 := by omega
      rcases this with rfl | rfl
      · have : sectionOf imageBytes (128 + 128 * 0) 128 = lotBytes 0 := rfl
        rw [this]; decide
      · have : sectionOf imageBytes (128 + 128 * 1) 128 = lotBytes 1 := rfl
        rw [this]; decide
  have m : (List.range 96).all (fun p => rd imageBytes (384 + 16 * p) 8 ≤ 1) = true := by
    rw [List.all_eq_true]
    intro p _
    simp [(image_links p 8).1]
  unfold imageReservedOk
  rw [image_fields.1, image_fields.2.1, image_fields.2.2.1]
  simp only [Config.lots, Config.ports] at *
  rw [l, m]
  rfl

def testImage : Image :=
  { lots := parseLot (lotBytes 0) :: parseLot (lotBytes 1) :: List.replicate 62 (parseLot (zeros 128)), links := List.replicate 96 (false, 0)
    coord := 0, policy := parsePolicy (zeros 22 ++ [6, 0] ++ zeros 40) }

theorem image_parses : parseImage imageBytes 8320 = some (2, testImage) := by
  have l : (List.range 64).map (fun i => parseLot (sectionOf imageBytes (128 + 128 * i) 128)) = testImage.lots := by
    have r : List.range 64 = [0, 1] ++ (List.range 62).map (· + 2) := rfl
    have z : (List.range 62).map (fun i => parseLot (sectionOf imageBytes (128 + 128 * (i + 2)) 128)) = (List.range 62).map fun _ => parseLot (zeros 128) := by
      refine List.map_congr_left fun i hi => ?_
      have := List.mem_range.mp hi
      rw [image_lots (i + 2) (by omega) (by omega)]
    rw [r, List.map_append, List.map_map]
    have z' : (List.range 62).map ((fun i => parseLot (sectionOf imageBytes (128 + 128 * i) 128)) ∘ (· + 2)) = _ := z
    rw [z']
    rfl
  have m : (List.range 96).map (fun p => ((rd imageBytes (384 + 16 * p) 1).testBit 0, rd imageBytes (384 + 16 * p + 8) 8)) = testImage.links := by
    have : (List.range 96).map (fun p => ((rd imageBytes (384 + 16 * p) 1).testBit 0, rd imageBytes (384 + 16 * p + 8) 8))
        = (List.range 96).map fun _ => (false, 0) := by
      refine List.map_congr_left fun p _ => ?_
      rw [(image_links p 1).1, (image_links p 8).2]
      rfl
    rw [this]
    rfl
  have s (o n : Nat) (h : o % 64 = 0 ∧ 64 ≤ o ∧ o + n ≤ 8320) : sectionOk imageBytes o n = true := by
    simp [sectionOk, imageBytes_length, h.1, h.2.1, h.2.2]
  unfold parseImage
  simp only [image_fields.1, image_fields.2.1, image_fields.2.2.1, image_fields.2.2.2, imageBytes_length, ← image_crc, image_reserved, l, m, Config.lots,
    Config.ports, s 128 8192 (by decide), s 384 1536 (by decide), s 64 64 (by decide)]
  rfl

def applies : Entry := { cmd .configApply [(24, 4, 8320), (28, 1, 1)] with lot := 0 }
def rollsBack : Entry := { cmd .configRollback [] with lot := 0 }
def creates2 : Entry := { cmd .lotCreate [(24, 1, 1)] with lot := 0 }
def configuring (e : Entry) : State := on e { dev0 with hosts := { dev0.hosts with kept := some (1, testImage) } }

theorem witness_ConfigApply : let host : List HostReturn := [{ addr := 0, data := imageBytes }]
    Turn (configuring applies) 9 .configApply applies ∧ applies.ran = false ∧ (configuring applies).dev.hosts.install = none
      ∧ rd applies.packet 12 2 = (configuring applies).dev.hosts.version ∧ 64 ≤ applies.param 24 4 ∧ applies.param 24 4 ≤ maxImage
      ∧ (configuring applies).dev.readPointed applies host (applies.param 16 8) (applies.param 24 4) ((applies.param 28 1).testBit 0) = .ok imageBytes
      ∧ parseImage imageBytes (applies.param 24 4) = some (2, testImage) ∧ laterVersion (configuring applies).dev.hosts.version 2 = true
      ∧ (configuring applies).dev.checkImage testImage none = none := by
  refine ⟨⟨rfl, rfl⟩, rfl, rfl, rfl, by decide, by decide, ?_, image_parses, by decide, by decide⟩
  have h : fit 8320 imageBytes = imageBytes := by
    rw [fit, imageBytes_length]
    exact (congrArg (List.take 8320) (List.append_nil _)).trans (List.take_of_length_le (Nat.le_of_eq imageBytes_length))
  show (Except.ok (fit 8320 imageBytes) : Res Bytes) = _
  rw [h]
theorem witness_ConfigRollback : Turn (configuring rollsBack) 9 .configRollback rollsBack ∧ (configuring rollsBack).dev.hosts.kept = some (1, testImage)
    ∧ (configuring rollsBack).dev.checkImage testImage none = none ∧ rd rollsBack.packet 12 2 = (configuring rollsBack).dev.hosts.version :=
  ⟨⟨rfl, rfl⟩, rfl, by decide, rfl⟩
def creating2 : State := on creates2 { dev0 with hosts := { dev0.hosts with image := testImage } }

theorem witness_LotCreate : let d := creating2.dev
    let l := parseLot (lotBytes 2)
    let d0 := d.setLotState 2 { d.lotState 2 with pendingBy := none }
    Turn creating2 9 .lotCreate creates2 ∧ lotReservedOk (lotBytes 2) = true ∧ l.valid = true ∧ l.tag = 2 ∧ d.lotDom 2 = .disabled
      ∧ (d.lotState 2).pendingBy ≠ some creates2.id ∧ d0.checkImage (d0.derivedImage 2 l) none = none
      ∧ ∃ b, d.readPointed creates2 [{ addr := 0, data := lotBytes 2 }] 0 128 ((creates2.param 24 1).testBit 0) = .ok b ∧ decide (b = lotBytes 2) = true :=
  ⟨⟨rfl, rfl⟩, by decide, by decide, by decide, by decide, by decide, by decide, ok_of _ _ (by decide)⟩

def destroy (tag : Nat) : Entry := { cmd .lotDestroy [(16, 1, tag)] with lot := 0 }

theorem witness_LotDestroyDisabled : Turn (on (destroy 2)) 9 .lotDestroy (destroy 2) ∧ 1 ≤ (destroy 2).param 16 1 ∧ (destroy 2).param 16 1 < Config.lots
    ∧ (on (destroy 2)).dev.lotDom ((destroy 2).param 16 1) = .disabled := ⟨⟨rfl, rfl⟩, by decide, by decide, rfl⟩
theorem witness_LotDestroyEnabled : Turn (on (destroy 1)) 9 .lotDestroy (destroy 1) ∧ (on (destroy 1)).dev.lotDom ((destroy 1).param 16 1) = .enabled
    ∧ rd (destroy 1).packet 12 2 = (on (destroy 1)).dev.hosts.version := ⟨⟨rfl, rfl⟩, rfl, rfl⟩
theorem witness_LotDestroyQuiet : let s := on (destroy 1) { dev0 with hosts := { dev0.hosts with lots := [(1, { destroying := some 1 })] } }
    Turn s 9 .lotDestroy (destroy 1) ∧ s.dev.lotDom 1 = .disabling ∧ (s.dev.lotState 1).destroying = some (destroy 1).id ∧ s.dev.destroyQuiet 1 = true
      ∧ s.dev.hosts.install = none := ⟨⟨rfl, rfl⟩, rfl, rfl, by decide, rfl⟩
theorem witness_Installation : let i : Install := { entry := 1, image := testImage, version := 2, limitAt := some 5 }
    let e := { applies with ran := true }
    let s := on e { dev0 with time := 5, hosts := { dev0.hosts with install := some i } }
    s.dev.running = true ∧ s.dev.hosts.install = some i ∧ s.dev.entry i.entry = some e ∧ s.dev.drained = true ∧ e.op = .configApply
      ∧ i.limitAt = some 5 ∧ 5 ≤ s.dev.time := ⟨rfl, rfl, rfl, by decide, rfl, rfl, by decide⟩

def role (a : Nat) : Entry := { cmd .hostRole [(16, 1, a)] with lot := 0 }
def policy : Entry := { cmd .powerPolicy [(16, 1, 0xFF), (18, 2, 800)] with lot := 0 }

theorem witness_HostRole : Turn (on (role 0)) 9 .hostRole (role 0) ∧ (on (role 0)).dev.hosts.holder = some ((role 0).param 16 1)
    ∧ (role 0).param 16 1 < Config.attachments ∧ (on (role 0)).dev.attached ((role 0).param 16 1) = true := ⟨⟨rfl, rfl⟩, rfl, by decide, rfl⟩
theorem witness_PowerPolicy : Turn (on policy) 9 .powerPolicy policy ∧ policy.policy.pstate = 0xFF ∧ 800 ≤ policy.policy.cap ∧ policy.policy.cap ≤ 2800
    ∧ policy.policy.c2Delay ≤ 100000000 ∧ policy.policy.wakeTimer ≤ 100000000 := ⟨⟨rfl, rfl⟩, by decide, by decide, by decide, by decide, by decide⟩

/-- Domain commands on core 5. -/
def enable5 : Entry := { cmd .domainEnable [(16, 1, 1), (18, 2, 5)] with lot := 0 }
def disable5 : Entry := { cmd .domainDisable [(16, 1, 1), (18, 2, 5)] with lot := 0 }
def core5 (v : Domain) (e : Entry) : State := on e { dev0 with power := { up with cores := [(5, v)] } }

theorem witness_DomainEnable : targetOf (enable5.param 16 1) (enable5.param 18 2) = some (.core 5) ∧ Turn (core5 {} enable5) 9 .domainEnable enable5
    ∧ ((core5 {} enable5).dev.domain (.core 5)).2.1 = false ∧ ((core5 {} enable5).dev.domain (.core 5)).1 = .enabled
    ∧ ((core5 { state := .disabled } enable5).dev.domain (.core 5)).1 = .disabled ∧ ((core5 { state := .disabled } enable5).dev.domain (.core 5)).2.1 = false
    ∧ (Target.core 5).power.isSome = true := ⟨rfl, ⟨rfl, rfl⟩, by decide, by decide, by decide, by decide, by decide⟩
theorem witness_DomainDisable : Turn (core5 {} disable5) 9 .domainDisable disable5 ∧ disable5.ran = false
    ∧ targetOf (disable5.param 16 1) (disable5.param 18 2) = some (.core 5) ∧ ((core5 {} disable5).dev.coreDom 5).state = .enabled
    ∧ (core5 {} disable5).coreIdle 5 = true ∧ ((core5 {} disable5).dev.coreDom 5).pendingBy = none
    ∧ ((core5 { state := .disabled } disable5).dev.domain (.core 5)).1 = .disabled := ⟨⟨rfl, rfl⟩, rfl, rfl, by decide, by decide, by decide, by decide⟩
theorem witness_StackRetrain : let s := on enable5 { dev0 with power := { up with stackDoms := [(19, { state := .enabling, enabler := some 1 })] } }
    (s.dev.stackDom 19).state = .enabling ∧ s.dev.clocked = true ∧ (s.dev.stackDom 19).enabler = some 1 ∧ (s.dev.entry 1).isSome = true := by decide

def selftest (scope i : Nat) : Entry := { cmd .selftest [(16, 1, scope), (18, 2, i)] with lot := 0 }

theorem witness_Selftest : Turn (on (selftest 0 0)) 9 .selftest (selftest 0 0) ∧ (selftest 0 0).param 16 1 = 0
    ∧ Turn (on (selftest 2 19)) 9 .selftest (selftest 2 19) ∧ (selftest 2 19).param 18 2 < Config.memStacks ∧ (on (selftest 2 19)).dev.stackEmpty 19 = true
    ∧ Turn (on (selftest 3 95)) 9 .selftest (selftest 3 95) ∧ (selftest 3 95).param 18 2 < Config.ports ∧ ((on (selftest 3 95)).dev.port 95).state = .disabled
    ∧ (0xFFFFFFFF : Nat) < 2 ^ 32 :=
  ⟨⟨rfl, rfl⟩, rfl, ⟨rfl, rfl⟩, by decide, by decide, ⟨rfl, rfl⟩, by decide, by decide, by decide⟩
theorem witness_SelftestCluster : let s := on (selftest 1 31) { dev0 with power := { up with clusters := [(31, { state := .disabled })] } }
    Turn s 9 .selftest (selftest 1 31) ∧ (selftest 1 31).param 18 2 < Config.clusters ∧ (s.dev.cluster 31).state = .disabled := ⟨⟨rfl, rfl⟩, by decide, by decide⟩

/-- The Ready device at a late TIME, with core 255 in a C-state. -/
def sleepy (c : Nat) : State := { dev := { dev0 with time := 10 ^ 9, power := { up with cores := [(255, { cstate := c })], policy := { c3Delay := 1 }, wakeAt := some 5 } } }

theorem witness_IdleEntries : (sleepy 1).mayEnter (.core 255) 2 = true ∧ (sleepy 2).mayEnter (.core 255) 3 = true := by decide
theorem witness_D0Idle : let s : State := { dev := { dev0 with time := 10000000, power := { up with clusters := (List.range 32).map fun c => (c, { cstate := 2 }) } } }
    s.dev.running = true ∧ s.dev.power.d0Idle = false ∧ s.dev.packageIdle = true ∧ s.dev.power.idleSince + s.dev.power.policy.idleDelay ≤ s.dev.time
      ∧ s.dev.power.timerWake = false := by decide
theorem witness_Wakes : (sleepy 2).dev.clocked = true ∧ ((sleepy 2).dev.coreDom 255).state = .enabled ∧ ((sleepy 2).dev.cluster 31).state = .enabled
    ∧ 2 ≤ ((sleepy 2).dev.coreDom 255).cstate ∧ (sleepy 2).dev.power.wakeAt = some 5 ∧ 5 ≤ (sleepy 2).dev.time := by decide

/-- An installation in progress, and a queue entry under another version. -/
def busy (s : State) : State :=
  { dev := { s.dev with hosts := { s.dev.hosts with install := some { entry := 4, image := testImage, version := 2, limitAt := some 5 } } } }
def old (e : Entry) : Entry := { e with packet := wrAt e.packet 12 (toLE 2 9) }

theorem witness_InstallWaits : Turn (busy (configuring applies)) 9 .configApply applies ∧ (busy (configuring applies)).dev.hosts.install.isSome = true
    ∧ Turn (busy (configuring rollsBack)) 9 .configRollback rollsBack ∧ Turn (busy creating2) 9 .lotCreate creates2 := ⟨⟨rfl, rfl⟩, rfl, ⟨rfl, rfl⟩, ⟨rfl, rfl⟩⟩
theorem witness_InstallStale : Turn (configuring (old applies)) 9 .configApply (old applies)
    ∧ rd (old applies).packet 12 2 ≠ (configuring (old applies)).dev.hosts.version ∧ Turn (configuring (old rollsBack)) 9 .configRollback (old rollsBack)
    ∧ Turn (on (old creates2) creating2.dev) 9 .lotCreate (old creates2) := ⟨⟨rfl, rfl⟩, by decide, ⟨rfl, rfl⟩, ⟨rfl, rfl⟩⟩
theorem witness_LotCreateLater : let d := { creating2.dev with hosts := { creating2.dev.hosts with lots := [(1, { destroying := some 7 })] } }
    (on creates2 d).dev.lotDom 1 = .disabling ∧ ((on creates2 d).dev.lotState 1).pendingBy ≠ some creates2.id ∧ creating2.dev.lotDom 1 = .enabled
      ∧ (parseLot (lotBytes 1)).valid = true ∧ (parseLot (lotBytes 1)).tag = 1 := by decide
theorem witness_LotDestroyWaits : let s := on (destroy 1) { dev0 with hosts := { dev0.hosts with lots := [(1, { destroying := some 1 })] } }
    (busy s).dev.hosts.install.isSome = true ∧ (busy s).dev.lotDom 1 = .disabling
      ∧ (let t := on (destroy 2) { dev0 with hosts := { dev0.hosts with lots := [(2, { creating := some 4 })] } }
         Turn t 9 .lotDestroy (destroy 2) ∧ t.dev.lotDom 2 = .enabling) := ⟨rfl, rfl, ⟨rfl, rfl⟩, rfl⟩
theorem witness_InstallNothing : State.reset.dev.running = false ∧ dev0State.dev.hosts.install = none
    ∧ ((busy dev0State).dev.hosts.install.bind (·.limitAt)) = some 5 ∧ (busy dev0State).dev.time < 5 := by decide
theorem witness_ManagementFails : Turn (on (role 1)) 9 .hostRole (role 1) ∧ (on (role 1)).dev.attached 1 = false ∧ (on (role 1)).dev.hosts.holder ≠ some 1
    ∧ (let e := { cmd .powerPolicy [(16, 1, 3), (18, 2, 800)] with lot := 0 }
       Turn (on e) 9 .powerPolicy e ∧ 2 < e.policy.pstate ∧ e.policy.pstate ≠ 0xFF)
    ∧ Turn (on (selftest 3 96)) 9 .selftest (selftest 3 96) ∧ Config.ports ≤ (selftest 3 96).param 18 2 :=
  ⟨⟨rfl, rfl⟩, rfl, by decide, ⟨⟨rfl, rfl⟩, by decide, by decide⟩, ⟨rfl, rfl⟩, by decide⟩
theorem witness_DomainWaits : ((core5 { state := .disabling } enable5).dev.domain (.core 5)).1 = .disabling
    ∧ (Target.core 5).power = some (1, 5) ∧ ((core5 { state := .disabled } enable5).dev.powerDom 1 5).state = .disabled
    ∧ ((core5 { state := .enabling } enable5).dev.powerDom 1 5).state = .enabling
    ∧ ((core5 { state := .enabling } enable5).dev.powerDom 1 5).readyAt ≤ (core5 { state := .enabling } enable5).dev.time
    ∧ (dev0.stackDom 19).state ≠ .enabling := by decide
/-- A cluster whose cores all sleep, and one with a core that does not. -/
theorem witness_ClusterEntry : let s : State := { dev := { dev0 with power := { up with cores := (List.range 8).map fun n => (n, { cstate := 2 }) } } }
    s.dev.running = true ∧ (s.dev.cluster 0).state = .enabled ∧ (s.dev.cluster 0).cstate < 2 ∧ s.dev.clusterQuiet 0 = true
      ∧ (∀ m ∈ coresOf 0, (s.dev.coreDom m).state = .disabled ∨ 2 ≤ (s.dev.coreDom m).cstate) ∧ (s.dev.coreDom 8).cstate = 0 := by decide
theorem witness_CoreEntry : (sleepy 1).dev.running = true ∧ ((sleepy 1).dev.coreDom 255).state = .enabled ∧ ((sleepy 1).dev.coreDom 255).cstate < 2
    ∧ (sleepy 1).coreIdle 255 = true ∧ ((sleepy 1).dev.coreDom 255).idleSince + (sleepy 1).dev.power.policy.c2Delay ≤ (sleepy 1).dev.time
    ∧ ((sleepy 1).dev.coreDom 255).idleSince + (sleepy 1).dev.power.policy.c3Delay ≤ (sleepy 1).dev.time := by decide
theorem witness_NoWake : State.reset.dev.clocked = false ∧ PowerUnit.package.wakes .scanHalt = false ∧ dev0State.dev.power.wakeAt = none := by decide

/-! ### Witnesses: counters, watches, ledgers, dump, log -/

/-- PMON_CONFIG of a counter of cores 0 to 255, of a cluster counter, and the stop of a dump. -/
def counts : Entry := cmd .pmonConfig [(20, 2, 255), (22, 1, 7), (24, 4, 0x29)]
def clusterCounts : Entry := cmd .pmonConfig [(16, 1, 1), (18, 2, 31), (20, 2, 31), (22, 1, 15), (24, 4, 0x113)]
def dumpStops : Entry := cmd .pmonConfig [(16, 1, 4)]

theorem witness_CountersConfigure : Turn (on counts) 9 .pmonConfig counts ∧ counts.param 17 1 % 4 = 0 ∧ counts.param 16 1 ≤ 1
    ∧ counts.param 18 2 ≤ counts.param 20 2 ∧ counts.param 20 2 < 256 ∧ counts.param 22 1 < 8 ∧ counts.ofClusters = false
    ∧ coreSelectOk (counts.param 24 4) = true ∧ (on counts).dev.counters false = []
    ∧ Turn (on dumpStops) 9 .pmonConfig dumpStops ∧ dumpStops.param 17 1 % 4 = 0 ∧ dumpStops.param 16 1 = 4 :=
  ⟨⟨rfl, rfl⟩, rfl, by decide, by decide, by decide, by decide, by decide, by decide, rfl, ⟨rfl, rfl⟩, rfl, rfl⟩
theorem witness_ClusterCountersConfigure : Turn (on clusterCounts) 9 .pmonConfig clusterCounts ∧ clusterCounts.param 17 1 % 4 = 0
    ∧ clusterCounts.param 16 1 ≤ 1 ∧ clusterCounts.param 18 2 ≤ clusterCounts.param 20 2 ∧ clusterCounts.param 20 2 < 32 ∧ clusterCounts.param 22 1 < 16
    ∧ clusterCounts.ofClusters = true ∧ clusterSelectOk (clusterCounts.param 24 4) = true ∧ (on clusterCounts).dev.counters true = [] :=
  ⟨⟨rfl, rfl⟩, rfl, by decide, by decide, by decide, by decide, by decide, by decide, rfl⟩
theorem witness_CountersRelease : let e := cmd .pmonConfig [(16, 1, 2), (20, 2, 255), (22, 1, 7)]
    Turn (on e) 9 .pmonConfig e ∧ e.param 16 1 = 2 ∧ e.param 24 4 < 2 ^ 10 := ⟨⟨rfl, rfl⟩, rfl, by decide⟩
theorem witness_DumpStarts : let e := cmd7 .pmonConfig [(16, 4, 3), (28, 4, h7), (32, 4, 1000)]
    let t : Tensor := { tensor7 with fmt := .uint8, dims := [106624], size := 106624 }
    Turn (on e (dev7 t)) 9 .pmonConfig e ∧ e.param 16 1 = 3 ∧ (on e (dev7 t)).dev.find e (e.param 28 4) = .ok (k7, t) ∧ 2 * 53312 ≤ t.count
      ∧ e.param 32 4 = 1000 := ⟨⟨rfl, rfl⟩, rfl, rfl, by decide, rfl⟩

def watches7 : Entry := cmd7 .watchConfig [(20, 1, 1), (21, 1, 1), (32, 4, 0x7F800000)]
def unwatches7 : Entry := cmd7 .watchConfig []

theorem witness_WatchesConfigure : (on watches7 dev7).dev.find watches7 (watches7.param 16 4) = .ok (k7, tensor7)
    ∧ Turn (on watches7 dev7) 9 .watchConfig watches7 ∧ watches7.param 20 1 = 1 ∧ watches7.param 21 1 = 1
    ∧ (on watches7 dev7).dev.watchesOf 1 + (((on watches7 dev7).dev.newWatches 1 1).filter (· ≠ k7)).length < 256 ∧ watches7.param 28 4 = 0
    ∧ watches7.param 32 4 = 0x7F800000 ∧ (on unwatches7 dev7).dev.find unwatches7 (unwatches7.param 16 4) = .ok (k7, tensor7)
    ∧ Turn (on unwatches7 dev7) 9 .watchConfig unwatches7 ∧ unwatches7.param 20 1 = 0 ∧ unwatches7.param 21 1 ≤ 1 ∧ (0 : Nat) ≠ k7 :=
  ⟨rfl, ⟨rfl, rfl⟩, rfl, rfl, by decide, rfl, rfl, rfl, ⟨rfl, rfl⟩, rfl, by decide, by decide⟩
theorem witness_WatchQuery : let e := cmd7 .watchConfig [(20, 1, 2), (36, 4, h7)]
    let s := on e { dev7 bytes7 with observe := { (dev0).observe with watches := [(k7, {})] } }
    Turn s 9 .watchConfig e ∧ e.param 20 1 = 2 ∧ s.dev.find e (e.param 36 4) = .ok (k7, bytes7) ∧ 64 ≤ bytes7.count
      ∧ ∃ w d1 d2, Tab.find s.dev.observe.watches k7 = some w ∧ s.dev.claim e [(k7, 0, 64)] = .ok d1
        ∧ d1.putTensor e k7 0 (w.record (bytes7.handle k7)) = .ok d2 := ⟨⟨rfl, rfl⟩, rfl, rfl, by decide, _, _, _, rfl, rfl, rfl⟩

/-- A dump of lot 1 into tensor 7 with a period of 1 µs. -/
def dumping (t : Nat) : State :=
  { dev := { dev7 with time := t, observe := { (dev7).observe with dumps := [(1, { running := true, ring := k7, period := 1 })] } } }

theorem witness_DumpTicks : (dumping 200).dev.running = true ∧ (Tab.look {} (dumping 200).dev.observe.dumps 1).running = true
    ∧ (dumping 200).dev.time % 100 = 0 ∧ (dumping 200).dev.tensor k7 = some tensor7 ∧ (Tab.look {} (dumping 200).dev.observe.dumps 1).last = []
    ∧ (dumping 250).dev.time % 100 ≠ 0 := by decide

def audit (handle : Nat := 0) : Entry := cmd7 .ledgerAudit [(16, 4, 0x3F), (20, 4, handle)]

theorem witness_LedgersAudit : let s := on (audit) { dev0 with observe := { (dev0).observe with voids := [(5, 0), (0, 767)] } }
    Turn s 9 .ledgerAudit (audit) ∧ (audit).param 20 4 = 0 ∧ s.dev.observe.resetPoint = [] ∧ 0x456 < ledgerInstances 3 ∧ ledgerInstances 5 ≤ 1 :=
  ⟨⟨rfl, rfl⟩, rfl, rfl, by decide, by decide⟩
theorem witness_LedgersRecord : let s := on (audit h7) { dev7 bytes7 with observe := { (dev0).observe with voids := [(5, 0), (0, 767)] } }
    Turn s 9 .ledgerAudit (audit h7) ∧ s.dev.find (audit h7) ((audit h7).param 20 4) = .ok (k7, bytes7) ∧ bytes7.fmt = .uint8
      ∧ ∃ d1, s.dev.claim (audit h7) [(k7, 0, bytes7.count)] = .ok d1
        ∧ ∃ d4, d1.putTensor (audit h7) k7 0 ((finding d1 (0, 767)).1 ++ (finding d1 (5, 0)).1) = .ok d4 := ⟨⟨rfl, rfl⟩, rfl, rfl, _, rfl, _, rfl⟩

/-- A read of the one entry of the log into pinned tensor 7, dispatched while the log held it. -/
def logDest : Nat := 100 * 2 ^ 21 + 64
def readsLog : Entry := { cmd .selvageRead [(32, 4, 1), (40, 8, logDest)] with logAt := (0, 1) }
def pinned7 : Tensor := { tensor7 with pinned := true }
def logged : State :=
  on readsLog { dev7 pinned7 with observe := { (dev0).observe with
    nextLog := 1, log := [(0, false, { source := 0, kind := 0x21, dye := 0, srcSeq := 0, prio := 0, time := 0, payload := zeros 12, queue := none })] } }

theorem witness_SelvageReads : Turn logged 9 .selvageRead readsLog ∧ readsLog.param 16 1 = 0 ∧ readsLog.param 32 4 = 1 ∧ readsLog.param 40 8 % 64 = 0
    ∧ (readsLog.param 48 1).testBit 0 = false
    ∧ ∃ es r1 d0 d1 d2, logged.dev.selvageEntries 0 0 1 readsLog.logAt = some (es, r1) ∧ logged.dev.needAddr (srcLot 1) 1 logDest 32 = .ok d0
      ∧ d0.tensorAt 1 (logDest / Config.extentBytes) = some (k7, pinned7) ∧ d0.needAddr (srcLot 1) 1 logDest 32 = .ok d1
      ∧ (es.flatMap fun y => y.2.bytes y.1) ≠ [] ∧ d1.writePlane readsLog false logDest (es.flatMap fun y => y.2.bytes y.1) = .ok d2 :=
  ⟨⟨rfl, rfl⟩, rfl, rfl, by decide, rfl, _, _, _, _, _, rfl, rfl, rfl, rfl, by decide, rfl⟩
theorem witness_SelvageGone : let d := { logged.dev with observe := { logged.dev.observe with nextLog := 5 } }
    max 0 (0 : Nat) < d.observe.nextLog - d.observe.log.length ∧ d.power.keptFlush = none := by decide

/-! ### Witnesses: the register file -/

/-- Queue 0 of lot 1 with counts in its status, and the event queue of lot 1 with records. -/
def rec1 (q : Option Nat := some 1) : EventRec := { source := 7, kind := 0x21, dye := 1, srcSeq := 0, prio := 0, time := 0, payload := zeros 12, queue := q }

theorem witness_RegisterAccesses : let s := dev0State
    (0x10428 : BitVec 20).toNat % 4 = 0 ∧ s.dev.completes pf = true ∧ s.dev.completes vf1 = true ∧ s.dev.completes vf2 = true
      ∧ regAt 0x10428 = some (.sqStat 1 0) ∧ (Reg.sqStat 1 0).wide = false ∧ s.dev.answers vf1 = true ∧ s.dev.visible vf1 (.sqStat 1 0) = true
      ∧ regAt 0x20054 = some (.evqHoldoff 1) ∧ (Reg.evqHoldoff 1).wide = false ∧ s.dev.visible vf1 (.evqHoldoff 1) = true
      ∧ s.dev.visible vf1 (.sqStat 0 0) = false ∧ regAt 0x10028 = some (.sqStat 0 0) ∧ regAt 0xFFFFC = none ∧ s.dev.answers vf2 = false
      ∧ [0x7, 0x8, 0x9].contains (0xFFFFC / 2 ^ 16) = false ∧ regAt 0x9FFFC = none ∧ s.dev.mgmtWrites pf = true := by decide

theorem witness_OffsetsOutOfReach : let s := dev0State
    accessAligned 0xFFFF8 true = true ∧ s.dev.completes pf = true ∧ 0xD0000 ≤ 0xFFFF8 ∧ 0xD0000 ≤ 0xFFFF8 + 4
      ∧ Tab.find s.dev.hosts.latches pf.key = none ∧ accessAligned 0x10428 false = true ∧ s.dev.completes vf2 = true
      ∧ Tab.find s.dev.hosts.latches vf2.key = none := by decide
theorem witness_OffsetsOfAnotherLot : ∃ r l L, regAt 0x10428 = some r ∧ r.lotOf = some L ∧ vf2.vf = some l ∧ l.val ≠ L :=
  ⟨.sqStat 1 0, 2, 1, rfl, rfl, rfl, by decide⟩

theorem witness_QueueRegistersAct : let s := dev0State
    s.dev.writesQueue vf1 1 = true ∧ (0x80000000 : BitVec 32).toNat.testBit 31 = true ∧ (s.dev.queue 1 3).enable = false
      ∧ s.dev.queueAllowed 1 3 ((s.dev.queue 1 3).setCtl 0x80000000) = true ∧ s.dev.queueAllowed 1 4 ((s.dev.queue 1 4).setCtl 0x80000000) = false
      ∧ (0x7FFFFFFF : BitVec 32).toNat.testBit 31 = false ∧ s.dev.writesQueue vf2 1 = false := by decide

theorem witness_EventQueueRegistersAct : let s := dev0State
    s.dev.sees vf1 1 = true ∧ (s.dev.evq 1).spill = [] ∧ (0x80000000 : BitVec 32).toNat.testBit 31 = true ∧ (s.dev.evq 1).enable = false
      ∧ ((s.dev.evq 1).setCtl 0x80000000).loc = false ∧ (0x7FFFFFFF : BitVec 32).toNat.testBit 31 = false ∧ s.dev.events.buffer = []
      ∧ s.dev.sees vf2 1 = false := by decide

theorem witness_SourceBitsAct : let s := dev0State
    s.dev.events.buffer = [] ∧ s.dev.barOpen pf = true ∧ s.dev.isMgmt pf = true ∧ (s.dev.evq 0).kindMask.testBit 0x0E = false
      ∧ (0x80000000 : BitVec 32).toNat.testBit 31 = true ∧ sourceAssigned (32 * 0 + 31) = true ∧ s.dev.pendingBit (32 * 0 + 31) = false
      ∧ 32 / 32 ≠ 0 ∧ s.dev.isMgmt vf1 = false := by decide

/-- Consumers: one with an interrupted handler, one whose source fired again. -/
theorem witness_InterruptsProceed : let v : Consumer := { running := [(5, 3), (4, 6)] }
    let w : Consumer := { running := [(5, 3)], again := [5], waiting := [5] }
    let s : State := { dev := { dev0 with events := { (dev0).events with consumers := [(0, v), (259, w)], queues := [(1, { timerAt := some 10 }), (63, { timerAt := some 0 })] } } }
    (s.dev.consumer 0).running = (5, 3) :: [(4, 6)] ∧ v.again.contains 5 = false ∧ v.waiting = []
      ∧ (s.dev.consumer 259).running = [(5, 3)] ∧ w.again.contains 5 = true ∧ (∀ y ∈ w.waiting, s.dev.prio y ≤ s.dev.prio 5)
      ∧ 4095 < 4096 ∧ 0 ≠ vectorKey vf1 4095 ∧ (s.dev.evq 1).timerAt = some 10 ∧ s.dev.time < 10 ∧ (s.dev.evq 63).timerAt = some 0
      ∧ 0 ≤ s.dev.time := by decide

/-- A record of source 7 for the event queue of lot 1, whose ring has room, or holds all it can. -/
def collecting (tail : Nat) : State :=
  { dev := { dev0 with events := { (dev0).events with sources := [(7, { raised := [rec1] })], queues := [(1, { enable := true, threshold := 7, tail := tail })] } } }

theorem witness_EventRecordsAccepted : let s := collecting 62
    s.dev.clocked = true ∧ s.dev.events.buffer = [] ∧ s.dev.raisedSources = [7] ∧ (s.dev.source 7).raised = [rec1] ∧ rec1.source = 7
      ∧ (s.dev.source 7).masked = false ∧ rec1.queue = some 1 ∧ rec1.prio < (s.dev.evq 1).threshold ∧ s.dev.ringOpen 1 = true
      ∧ (s.dev.evq 1).spill = [] ∧ (s.dev.evq 1).ringFull = false := by decide
theorem witness_EventRecordsSpilled : let s := collecting 63
    s.dev.raisedSources = [7] ∧ (s.dev.source 7).raised = [rec1] ∧ s.dev.ringOpen 1 = true ∧ (s.dev.evq 1).ringFull = true ∧ s.dev.spillRoom 1 = true := by decide

/-- A port in a state. -/
def ported (p : Nat) (v : Port) (d : Device := dev0) : State := { dev := { d with links := { d.links with ports := [(p, v)] } } }

theorem witness_PortRequests : dev0State.dev.mgmtWrites pf = true ∧ ((ported 95 { state := .disabled }).dev.port 95).state = .disabled
    ∧ (ported 95 { state := .disabled }).dev.mgmtWrites pf = true ∧ ((ported 0 { state := .enabled }).dev.port 0).state = .enabled
    ∧ dev0State.dev.mgmtWrites vf1 = false ∧ dev0State.dev.barOpen vf1 = true := by decide

theorem witness_ResetRegisterAndHandshake : let s := dev0State
    let t : State := { dev := { dev0 with hosts := { dev0.hosts with attaches := [(3, { link := 1, started := some 0, hostVer := 1 })] } } }
    s.dev.resets pf = true ∧ field (0xB0070002 : BitVec 32).toNat 31 16 = 0xB007 ∧ (0xB0070002 : BitVec 32).toNat.testBit 1 = true
      ∧ (0xB0070001 : BitVec 32).toNat.testBit 1 = false ∧ (0xB0070001 : BitVec 32).toNat.testBit 0 = true ∧ s.dev.power.stage = 7
      ∧ s.dev.power.failing = none ∧ s.dev.resets vf1 = false ∧ t.dev.answers { attach := 3 } = true ∧ (t.dev.attachment 3).link = 1
      ∧ (t.dev.attachment 3).started.isSome = true ∧ t.dev.clocked = true ∧ t.dev.power.stage = 7 ∧ (t.dev.attachment 3).hostVer = 1 := by decide

theorem witness_RegisterEdges : let s := dev0State
    let t : State := { dev := { dev0 with hosts := { dev0.hosts with latches := [(vf1.key, (0x10410, 7))] } } }
    s.dev.completes vf1 = true ∧ (0x1042A : BitVec 20).toNat % 4 ≠ 0 ∧ State.reset.dev.completes pf = false ∧ regAt 0x10400 = some (.sqBase 1 0)
      ∧ (Reg.sqBase 1 0).wide = true ∧ (0x10400 : BitVec 20).toNat % 8 = 0 ∧ s.dev.visible vf1 (.sqBase 1 0) = true
      ∧ Tab.find t.dev.hosts.latches vf1.key = some (0x10410, 7) := by decide
/-- A handler whose source fired again while one of a higher priority waits, a vector with a pending message, and a masked source. -/
theorem witness_InterruptsWait : let v : Consumer := { running := [(5, 3)], again := [5], waiting := [srcFatal] }
    let s : State := { dev := { dev0 with events := { (dev0).events with vectors := [(vectorKey vf1 4095, { pend := true })] } } }
    v.again.contains 5 = true ∧ (∃ y ∈ v.waiting, s.dev.prio 5 < s.dev.prio y) ∧ v.threshold < s.dev.prio srcFatal
      ∧ s.dev.clocked = true ∧ (Tab.look {} s.dev.events.vectors (vectorKey vf1 4095)).pend = true ∧ State.reset.dev.clocked = false := by decide
theorem witness_EventRecordsMasked : let s : State := { dev := { dev0 with events := { (dev0).events with sources := [(7, { masked := true, raised := [rec1] })] } } }
    s.dev.clocked = true ∧ s.dev.events.buffer = [] ∧ s.dev.raisedSources = [7] ∧ (s.dev.source 7).masked = true ∧ (7 : Nat) ≠ srcFatal := by decide
theorem witness_PortPending : ((ported 95 { state := .disabling }).dev.port 95).state = .disabling ∧ ((ported 95 { state := .disabling }).dev.port 95).pendingBy = none
    ∧ (dev0State.dev.port 95).state ≠ .enabled ∧ dev0State.dev.answers vf1 = true ∧ dev0State.dev.answers vf2 = false := by decide

/-! ### Witnesses: reset, cold start, power -/

/-- A board record up to its zeros, with rails of 800 mV and lot 0. -/
def boardHead : Bytes := toLE 4 0x44524342 ++ toLE 2 1 ++ zeros 2
def boardBody : Bytes := zeros 8 ++ (List.replicate 10 (toLE 2 800)).flatten ++ zeros 20 ++ lotBytes 0 ++ zeros 320
def boardCrc : Nat := crc64 (boardHead ++ zeros 8 ++ boardBody)
def boardBytes : Bytes := boardHead ++ toLE 8 boardCrc ++ boardBody
theorem board_crc : rd boardBytes 8 8 = crc64 (boardBytes.take 8 ++ zeros 8 ++ boardBytes.drop 16) := by
  have a : boardBytes.take 8 = boardHead := rfl
  have b : boardBytes.drop 16 = boardBody := rfl
  have c : (boardBytes.drop 8).take 8 = toLE 8 boardCrc := rfl
  rw [a, b, rd, c, leNat_toLE, Nat.mod_eq_of_lt]
  · rfl
  · exact crc64_lt _ 0 (by decide)
theorem board_parses : (parseBoard boardBytes).isSome = true := by
  unfold parseBoard
  simp only [← board_crc, decide_true, Bool.and_true]
  rfl

def coldStarts : State := { dev := { hosts := { attaches := [(0, { perst := true })] } } }

theorem witness_ColdStart : let i : ColdStartInput := { board := some boardBytes, badStacks := [0, 19], imageA := false }
    coldStarts.dev.mayStartCold = true ∧ i.warnDuring = false ∧ i.pllLocks = true ∧ i.board = some boardBytes
      ∧ chooseImage 0 i.imageA i.imageB = some (1, true) ∧ i.badStacks.eraseDups.length ≤ 4 ∧ i.hubOk = true := by
  refine ⟨by decide, rfl, rfl, rfl, rfl, by decide, rfl⟩
theorem witness_ColdStartBoard : ∃ r, parseBoard boardBytes = some r ∧ chooseImage r.image false true = some (1, true) := by
  obtain ⟨r, h⟩ := Option.isSome_iff_exists.mp board_parses
  refine ⟨r, h, ?_⟩
  have : r.image = 0 := by
    unfold parseBoard at h
    simp only [← board_crc, decide_true, Bool.and_true] at h
    have e : some r = _ := h.symm
    exact congrArg (fun x : Option Board => (x.map fun b => b.image).getD 0) e
  rw [this]; rfl

theorem witness_ColdStartFails : coldStarts.dev.mayStartCold = true ∧ ({ pllLocks := false, board := none } : ColdStartInput).warnDuring = false
    ∧ ({ pllLocks := false, board := none } : ColdStartInput).pllLocks = false ∧ ({ board := none } : ColdStartInput).board = none := by decide

/-- The Ready device in which something of its power block differs. -/
def powered (p : Power) : State := { dev := { dev0 with power := p } }
def warmDue : State := powered { up with stage := 9, warmDue := true }

theorem witness_WarmReset : let i : WarmResetInput := {}
    dev0State.dev.clocked = true ∧ dev0State.dev.power.stage = 7 ∧ dev0State.dev.power.failing = none ∧ warmDue.dev.power.warmDue = true
      ∧ warmDue.dev.clocked = true ∧ warmDue.dev.power.failing = none ∧ i.warnDuring = false ∧ i.fatalReplay = false ∧ i.writeBackOk = true
      ∧ i.imageA = true ∧ i.imageB = true ∧ warmDue.dev.power.coldDue = false
      ∧ ({ writeBackOk := false } : WarmResetInput).fatalReplay = false ∧ ({ writeBackOk := false } : WarmResetInput).writeBackOk = false := by decide

theorem witness_PowerFail : let f : PowerFail := { at_ := 0, record := some 0 }
    dev0State.dev.power.pwrgd = true ∧ dev0State.dev.power.locked = true ∧ dev0State.dev.power.stage = 7 ∧ dev0State.dev.power.coldDue = false
      ∧ dev0State.dev.power.failing = none ∧ (powered { up with failing := some f }).dev.power.failing = some f ∧ f.record = some 0
      ∧ (powered { up with failing := some f }).dev.power.tripped = false ∧ (powered up).dev.power.slots.idxOf? none = some 0 := by decide
theorem witness_ClockStops : dev0State.dev.clocked = true ∧ dev0State.dev.power.stage = 7 ∧ dev0State.dev.power.failing = none
    ∧ (powered { up with locked := false }).dev.power.locked = false ∧ (powered { up with locked := false }).dev.power.pwrgd = true
    ∧ (powered { up with locked := false }).dev.power.tripped = false ∧ (powered { up with locked := false }).dev.power.coldDue = false
    ∧ (powered { up with locked := false }).dev.power.stage ≠ 0xF := by decide

theorem witness_PerformanceChanges : let c : PChange := { target := 1, faster := false, ready := true }
    let r : RailRequest := { rail := 3, mv := 800, sentAt := 0 }
    let s := powered { up with change := some c, requests := [r, { rail := 9, mv := 800, tries := 3, sentAt := 0 }] }
    dev0State.dev.clocked = true ∧ dev0State.dev.power.policy.pstate = 0xFF ∧ dev0State.dev.gapOver dev0State.dev.power.lastMove = true
      ∧ dev0State.dev.power.policy.cap < 2801 ∧ dev0State.dev.power.pstate < 2 ∧ dev0State.dev.power.change = none ∧ s.dev.clocked = true
      ∧ s.dev.power.change = some c ∧ c.ready = true ∧ (s.dev.power.requests.find? fun x => x.rail = 3) = some r
      ∧ ({ s with dev := { s.dev with time := 20000 } } : State).dev.power.requests = s.dev.power.requests ∧ r.sentAt + 20000 ≤ 20000 ∧ r.tries < 3
      ∧ ((s.dev.power.requests.find? fun x => x.rail = 9).map fun x => x.tries) = some 3
      ∧ dev0State.dev.gapOver dev0State.dev.power.lastThermal = true ∧ 95 ≤ 95 := by decide

theorem witness_ColdStartEnds : ({ board := none, warnDuring := true } : ColdStartInput).warnDuring = true ∧ dev0State.dev.mayStartCold = false
    ∧ chooseImage 0 false false = none ∧ 4 < (([0, 1, 2, 3, 4] : List StackId).eraseDups).length
    ∧ ({ board := none, hubOk := false } : ColdStartInput).hubOk = false := by decide
/-- A launch that runs when a fatal condition arises, and one that arises in the power-fail sequence. -/
theorem witness_FatalCommand : let e := { cmd .tensorFree [] with ran := true }
    (on e).dev.clocked = true ∧ (on e).dev.power.stage = 7 ∧ (on e).dev.runningOf 9 = some e ∧ (on e).dev.entry e.id = some e
      ∧ (powered { up with failing := some { at_ := 0, record := some 0 } }).dev.power.failing.isSome = true
      ∧ (powered { up with failing := some { at_ := 0, record := some 0 } }).dev.power.stage = 7 := ⟨rfl, rfl, rfl, rfl, rfl, rfl⟩
theorem witness_WarmResetEnds : warmDue.dev.power.warmDue = true ∧ ({ warnDuring := true } : WarmResetInput).warnDuring = true
    ∧ chooseImage 0 ({ imageA := false, imageB := false } : WarmResetInput).imageA false = none := by decide
theorem witness_PowerFailCases : (powered { up with coldDue := true }).dev.power.coldDue = true ∧ (powered { up with locked := false }).dev.power.coldDue = false
    ∧ (powered { up with failing := some { at_ := 0, record := none } }).dev.power.failing = some { at_ := 0, record := none }
    ∧ (powered { up with tripped := true }).dev.power.tripped = true ∧ (powered { up with locked := false, lockLost := true }).dev.power.lockLost = true
    ∧ (powered { up with failing := some { at_ := 0, record := some 0 } }).dev.clocked = true := by decide

/-- A warm reset after which the record of the one entry of the journal, wherever it stands, is uncorrectable. -/
def lostEntry : Entry := { cmd .tensorFree [] with phase := .accepted }
def losing : State := on lostEntry { warmDue.dev with mem := { poison := [physAddr [] (64 * ((Config.journalPlace 1 + 0) % 2 ^ 23))] } }

theorem witness_WarmResetLoses : ∃ e, losing.dev.warmState.journal.filter losing.dev.warmState.journalLost = [e] ∧ e.phase ≠ .committed := by
  have hj : ∃ e, losing.dev.warmState.journal = [e] ∧ e.id = 1 ∧ e.args = [] ∧ e.tbl = [] ∧ e.phase = .accepted := ⟨_, rfl, rfl, rfl, rfl, rfl⟩
  have hp : losing.dev.warmState.mem.poison = [physAddr [] (64 * ((Config.journalPlace 1 + 0) % 2 ^ 23))] := rfl
  have ho : losing.dev.warmState.mem.owners = [] := rfl
  obtain ⟨e, h, hi, ha, ht, hc⟩ := hj
  refine ⟨e, ?_, by rw [hc]; decide⟩
  have hl : losing.dev.warmState.journalLost e = true := by
    have hn : List.range (ceilDiv (64 + 0 + 0) 64) = [0] := rfl
    simp only [Device.journalLost, Device.journalWords, hp, ho, hi, ha, ht, List.length_nil, hn, List.filter_nil, List.map_nil, List.map_cons,
      List.any_cons, List.contains_cons, beq_self_eq_true, Bool.true_or]
  rw [h, List.filter_cons_of_pos hl, List.filter_nil]

/-! ### Witnesses: hosts, security, weft ports -/

/-- Attachments: 0 attached and the holder, 1 attached and the standby, 2 with its link, 3 without. -/
def hosted (t : Nat) (a : Attachment) : State :=
  { dev := { dev0 with
    time := t
    hosts := { dev0.hosts with standby := some 1, attaches := [(0, a), (1, { link := 2, ready := true, perst := true }), (2, { link := 1, sessions := 4, secure := [4] })] } } }

theorem witness_AttachmentsComeAndGo : let s := hosted 0 { perst := true }
    s.dev.subPortOn 0 = true ∧ (s.dev.attachment 0).link = 0 ∧ (s.dev.attachment 0).perst = true ∧ (s.dev.attachment 1).link ≠ 0 ∧ (0 : Nat) ≠ 1 := by decide
theorem witness_HostsComeAndGo : let s := hosted 0 { link := 2, perst := true }
    s.dev.clocked = true ∧ (s.dev.attachment 0).link ≠ 0 ∧ (1 : Lot).val ∈ s.dev.hostedLots 0 ∧ (2 : Lot).val ∉ s.dev.hostedLots 0
      ∧ (hosted 0 {}).dev.subPortOn 0 = true ∧ ((hosted 0 {}).dev.attachment 0).perst = false := by decide
theorem witness_Takeover : let s := hosted 1000000 { detachedAt := some 0 }
    s.dev.hosts.holder = some 0 ∧ s.dev.hosts.standby = some 1 ∧ (s.dev.attachment 0).detachedAt = some 0 ∧ s.dev.attached 0 = false
      ∧ s.dev.attached 1 = true ∧ 0 + 1000000 ≤ s.dev.time ∧ (hosted 999999 { detachedAt := some 0 }).dev.time < 0 + 1000000 := by decide
theorem witness_FunctionReset : (1 : Lot).val ≠ 0 ∧ (1 : Lot).val ∈ dev0State.dev.hostedLots 0 := by decide
theorem witness_SecurityInterfaces : let s := hosted 0 {}
    let t : State := { dev := { dev0 with hosts := { dev0.hosts with lots := [(1, { tdi := 1 })] } } }
    (s.dev.attachment 2).link ≠ 0 ∧ s.dev.clocked = true ∧ (s.dev.attachment 2).sessions ≠ 0 ∧ 4 ∈ (s.dev.attachment 2).secure
      ∧ (1 : Lot).val ≠ 0 ∧ s.dev.lotDom 1 = .enabled ∧ (s.dev.lotState 1).tdi = 0 ∧ t.dev.lotDom 1 = .enabled ∧ (t.dev.lotState 1).tdi = 1 := by decide
theorem witness_SidebandAnswers : dev0State.dev.clocked = true ∧ 2 ≤ dev0State.dev.power.stage ∧ Jtag.sample.drives = false ∧ Jtag.sample ≠ .idcode
    ∧ Jtag.extest.drives = true ∧ dev0State.dev.attached 0 = true := by decide
theorem witness_SidebandNotHalt : ∀ c, Jtag.sample ≠ .halt c := by intro c h; cases h

/-- Port 95 in training, and one that goes away. -/
theorem witness_PortsTrain : let p (v : Port) : Port := (ported 95 v).dev.port 95
    dev0State.dev.clocked = true ∧ (p { state := .enabled, step := 1 }).lit = true ∧ (p { state := .enabling, step := 2 }).lit = true
      ∧ (p { state := .enabled, step := 2, adaptFails := 1 }).adaptFails < 2 ∧ 2 ≤ (p { state := .enabled, step := 2, adaptFails := 2 }).adaptFails
      ∧ (p { state := .enabled, step := 3 }).step = 3 ∧ (p { state := .enabled, lstate := 2 }).lstate = 2 ∧ 2 ∈ [2, 3, 5, 6]
      ∧ (p { state := .enabled, lstate := 0 }).waitUntil ≤ dev0State.dev.time ∧ (ported 95 { state := .enabled }).dev.power.failing = none
      ∧ (p { state := .enabling, enabler := some 1 }).enabler = some 1 ∧ dev0.links.log2.length = 3 := by decide

/-- Identity records: a good one for an auxiliary port, and one of another role. -/
theorem witness_PortsComeAndGo : let s := ported 95 { state := .enabled, lstate := 2 }
    s.dev.clocked = true ∧ (s.dev.port 95).lit = true ∧ (s.dev.port 95).lstate ∈ [2, 3, 5, 6] ∧ s.dev.judgeIdentity 95 (fit 64 (pk [(16, 1, 2)])) = 4
      ∧ s.dev.judgeIdentity 95 (fit 64 []) ≠ 4 ∧ s.dev.links.portTo 95 = none
      ∧ ((ported 0 { lstate := 4, replaySeq := 4095, replayCount := 15 }).dev.port 0).lstate = 4
      ∧ ((ported 0 { lstate := 4, replaySeq := 4095, replayCount := 15 }).dev.port 0).replaySeq = 4095 := by decide
/-- A port that a disable has drained, one whose disable has run out of time, and one with an enable held; a port whose one message is lost. -/
theorem witness_PortsEnd : let v : Port := { state := .disabling, disableAt := 5 }
    let m : Message := { id := 4, port := 0, entry := 1, target := 9 }
    let e := cmd .snapshotShip []
    let s := on e { dev0 with links := { dev0.links with ports := [(0, { lstate := 4 })], messages := [m] } }
    ((ported 0 v).dev.port 0).state = .disabling ∧ ((ported 0 v).dev.port 0).retry = [] ∧ ((ported 0 v).dev.port 0).waiting = []
      ∧ (∀ m ∈ (ported 0 v).dev.links.messages, m.port ≠ 0) ∧ ((ported 0 v).dev.port 0).pendingBy = none
      ∧ ((ported 0 { v with disableAt := 0, pendingBy := some (some 1) }).dev.port 0).disableAt ≤ dev0State.dev.time
      ∧ ((ported 0 { v with disableAt := 0, pendingBy := some (some 1) }).dev.port 0).pendingBy = some (some 1)
      ∧ (s.dev.port 0).lstate = 4 ∧ (s.dev.links.messages.filter fun m => m.port = 0) = [m] ∧ s.dev.entry m.entry = some e
      ∧ e.op ≠ .collective ∧ e.op ≠ .rethread := by decide

/-- A flit of 252 bytes and its CRC: the first byte, epoch 3, SEQ 4095, ACK of 4000, the credits, lot 1, and a target. -/
def flitBody (ctl cr dest : Nat) : Bytes :=
  [BitVec.ofNat 8 ctl, 3] ++ toLE 2 4095 ++ toLE 2 (0x8000 + 4000) ++ [BitVec.ofNat 8 cr, 1] ++ toLE 4 dest ++ zeros 240
def flit (ctl : Nat) (cr dest : Nat := 0) : Bytes := flitBody ctl cr dest ++ toLE 4 (crc32 (flitBody ctl cr dest))

theorem revBits_lt (l : List Nat) (v a : Nat) : l.foldl (fun a i => a * 2 + b2n (v.testBit i)) a < (a + 1) * 2 ^ l.length := by
  induction l generalizing a with
  | nil => simp
  | cons i l ih =>
    have h := ih (a * 2 + b2n (v.testBit i))
    have b : b2n (v.testBit i) ≤ 1 := by unfold b2n; split <;> omega
    have : (a * 2 + b2n (v.testBit i) + 1) * 2 ^ l.length ≤ (a + 1) * 2 ^ (l.length + 1) := by
      rw [Nat.pow_succ, Nat.mul_comm (2 ^ l.length) 2, ← Nat.mul_assoc]
      exact Nat.mul_le_mul_right _ (by omega)
    exact Nat.lt_of_lt_of_le h this
theorem crc32_lt (b : Bytes) : crc32 b < 2 ^ 32 := Nat.xor_lt_two_pow (by simpa [revBits] using revBits_lt (List.range 32) _ 0) (by decide)
theorem flitBody_length (ctl cr dest : Nat) : (flitBody ctl cr dest).length = 252 := by simp [flitBody, toLE_length, zeros]
theorem flit_length (ctl cr dest : Nat) : (flit ctl cr dest).length = 256 := by rw [flit, List.length_append, toLE_length, flitBody_length]
theorem flit_fit (ctl cr dest : Nat) : fit 256 (flit ctl cr dest) = flit ctl cr dest := by simp [fit, flit_length]
/-- A flit with its own CRC and a header that R279 admits passes. -/
theorem flit_good (ctl cr dest : Nat) (hk : (flitFields (flit ctl cr dest)).kind ≤ 3)
    (hc : (flitFields (flit ctl cr dest)).kind ≠ 0 ∨ rd (flit ctl cr dest) 6 1 = 0) :
    flitGood (fit 256 (flit ctl cr dest)) false = true := by
  rw [flit_fit]
  have a : (flit ctl cr dest).take 252 = flitBody ctl cr dest := by
    rw [flit, List.take_append_of_le_length (by simp [flitBody_length]), List.take_of_length_le (by simp [flitBody_length])]
  have b : (flit ctl cr dest).drop 252 = toLE 4 (crc32 (flitBody ctl cr dest)) := by
    rw [flit, ← flitBody_length ctl cr dest, List.drop_left]
  have c : crc32 (flitBody ctl cr dest) = rd (flit ctl cr dest) 252 4 := by
    rw [rd, b, List.take_of_length_le (by simp [toLE_length]), leNat_toLE, Nat.mod_eq_of_lt]
    exact crc32_lt _
  rw [flitGood, a, c]
  simpa [hk] using hc

/-- Port 10, ACTIVE in an epoch, of a device that has one neighbour in a box of two; the neighbour's copies are ACTIVE or not. -/
def flits (epoch : Nat) (peer : Port := {}) (v : Port := { lstate := 4, epoch := epoch, recvSeq := 4095 }) : State :=
  { dev := { dev0 with links := { dev0.links with dims := 1, log2 := [1, 0, 0], coord := 0, ports := [(10, v), (0, peer)] } } }

/-- An IDLE flit, a CREDIT flit of VC 0, flits of kind 3, of DATA on VC 0, and of DATA for the neighbour on VC 4, in sequence and good. -/
theorem witness_FlitsReceived : ((flits 3).dev.port 10).lstate = 4 ∧ ((flits 3).dev.port 10).epoch = 3 ∧ ((flits 4).dev.port 10).epoch = 4
    ∧ ((flits 3).dev.port 10).recvSeq = 4095 ∧ ((flits 3).dev.port 10).waiting = [] := by decide
theorem witness_FlitsGood : flitGood (fit 256 (flit 0)) false = true ∧ flitGood (fit 256 (flit 2 5)) false = true
    ∧ flitGood (fit 256 (flit 3)) false = true ∧ flitGood (fit 256 (flit 1)) false = true ∧ flitGood (fit 256 (flit 137 0 1)) false = true :=
  ⟨flit_good 0 0 0 (by decide) (by decide), flit_good 2 5 0 (by decide) (by decide), flit_good 3 0 0 (by decide) (by decide),
    flit_good 1 0 0 (by decide) (by decide), flit_good 137 0 1 (by decide) (by decide)⟩
theorem witness_FlitFields : let f (ctl cr dest : Nat) := flitFields (fit 256 (flit ctl cr dest))
    (f 1 0 0).epoch = 3 ∧ (f 1 0 0).seq = 4095 ∧ (f 0 0 0).kind = 0 ∧ (f 0 0 0).ack = some 4000 ∧ (f 2 5 0).kind = 2 ∧ (f 3 0 0).kind = 3
      ∧ (f 1 0 0).kind = 1 ∧ vcAllowed 10 (f 1 0 0).vc = true ∧ vcAllowed 95 (f 33 0 0).vc = false ∧ (flits 3).dev.passing (f 1 0 0) = false
      ∧ (flits 3).dev.foreignFlit (f 1 0 0).tag 0 = false ∧ (flits 3).dev.foreignFlit (f 1 0 0).tag 9 = true := by
  simp only [flit_fit]; decide
theorem witness_FlitsPass : let f := flitFields (fit 256 (flit 137 0 1))
    (flits 3).dev.passing f = true ∧ f.pos = 1 ∧ hops (if f.vc = 4 then [0, 1, 2] else [2, 1, 0]) (flits 3).dev.links.coord f.dest = [1]
      ∧ (flits 3).dev.isCut 0 1 = true ∧ (flits 3 { lstate := 4 }).dev.isCut 0 1 = false ∧ 10 ∉ (flits 3).dev.links.copiesTo 1
      ∧ (flits 3 { lstate := 4 }).dev.copyFor 1 f.vc = some 0 ∧ ((flits 3 { lstate := 4 }).dev.port 0).canSend f.vc = false
      ∧ ((flits 3 { lstate := 4, credits := fullCredits }).dev.port 0).canSend f.vc = true
      ∧ (flits 3 { lstate := 4, credits := fullCredits }).dev.copyFor 1 f.vc = some 0 := by
  simp only [flit_fit]; decide
theorem witness_FlitsFail : flitGood (fit 256 (flit 7)) true = false
    ∧ ((flits 3 {} { lstate := 4, askedSeq := some 0, asks := 16 }).dev.port 10).askedSeq = some 0
    ∧ 16 ≤ ((flits 3 {} { lstate := 4, askedSeq := some 0, asks := 16 }).dev.port 10).asks := by
  refine ⟨?_, by decide, by decide⟩
  simp [flitGood]

theorem witness_CutsAndNacks : let m : Message := { id := 4, port := 0, entry := 1, target := 9 }
    let e := cmd .snapshotShip []
    let s := on e { dev0 with links := { dev0.links with cuts := [cutKey 5 6], messages := [m] } }
    s.dev.clocked = true ∧ cutKey 5 7 ∉ s.dev.links.cuts ∧ cutKey 5 6 ∈ s.dev.links.cuts
      ∧ (s.dev.links.messages.find? fun x => x.id = 4) = some m ∧ s.dev.entry m.entry = some e := by decide

/-! ### Witnesses: memory and engines -/

/-- The second extent of the tensor moves from 100 to 200 on another stack. -/
def move7 : Move := { tensor := k7, index := 0, from_ := 100, to_ := 20000 }
def moving (time : Nat := 0) (served : Table Nat := []) : State :=
  { dev := { dev7 with time := time, mem := { owners := [(100, .lot 1), (20000, .lot 1)], moves := [move7], served := served } } }

theorem witness_PlacementMoves : (moving 1000000).dev.running = true ∧ (moving 1000000).dev.time / 1000000 ≠ (moving 1000000).dev.mem.epoch
    ∧ (moving 999999).dev.time / 1000000 = (moving 999999).dev.mem.epoch
    ∧ (moving.dev.mem.moves.find? fun x => x.from_ = 100) = some move7 ∧ moving.dev.tensor k7 = some tensor7 ∧ 100 ≠ move7.to_
    ∧ (∀ w ∈ (moving.dev.strike []).mem.faulty, w.1 / Config.extentBytes ≠ 100) := by decide
theorem witness_PlacementBusy : let counts := (List.range Config.memStacks).map fun m => Tab.look 0 (moving 1000000).dev.mem.served m + ([5, 5] : List Nat).getD m 0
    ∃ m, m < 20 ∧ 5 * counts.sum < 80 * counts.getD m 0 := by decide
theorem witness_PlacementQuiet : let counts := (List.range Config.memStacks).map fun m => Tab.look 0 (moving 1000000).dev.mem.served m + ([] : List Nat).getD m 0
    ∀ m, m < 20 → 80 * counts.getD m 0 ≤ 5 * counts.sum := by decide

/-- The codeword of the tensor at its first byte, with so many bad symbols. -/
def codeword (bad : Nat) (other : Option Bytes := none) : CodewordError := { addr := 100 * 2 ^ 21 + 5, bad := bad, other := other }

theorem witness_ScrubReads : let d (e : List CodewordError) : Device := (dev7).strike e
    (dev7).running = true ∧ (dev7).mem.scrubOn = true ∧ (d []).scrubNext = some (100 * 2 ^ 21) ∧ (dev0.strike []).scrubNext = none
      ∧ Tab.find (d []).mem.faulty (100 * 2 ^ 21) = none ∧ Tab.find (d [codeword 4]).mem.faulty (100 * 2 ^ 21) = some (4, none)
      ∧ Tab.find (d [codeword 5 (some [1])]).mem.faulty (100 * 2 ^ 21) = some (5, some [1])
      ∧ (Tab.look {} (dev7).mem.stackRegs (stackOf (100 * 2 ^ 21))).detect8 = false ∧ (dev7).mem.ue.valid = false
      ∧ (codeword 4).sram = false ∧ (codeword 4).addr / 64 * 64 < Config.memTop := by decide
/-- Extents that are due: a FREE one, one of the unpinned tensor, and the same with the tensor pinned. -/
def retiring (t : Tensor := tensor7) : State :=
  { dev := { dev7 t with mem := { (dev7 t).mem with retireWait := [100, 300], owners := [(100, .lot 1)] } } }
theorem witness_Retires : let s := retiring
    s.dev.running = true ∧ 300 ∈ s.dev.mem.retireWait ∧ s.dev.owner 300 = .free ∧ s.dev.owner 100 = .lot 1 ∧ s.dev.mapped 100 = some (k7, tensor7, 0)
      ∧ tensor7.pinned = false ∧ (retiring { tensor7 with pinned := true }).dev.mapped 100 = some (k7, { tensor7 with pinned := true }, 0)
      ∧ s.dev.chooseStack tensor7.stackIds none (some (extentStack 100)) = some 0 ∧ s.dev.lowestFree 0 ≠ 100
      ∧ (∀ w ∈ s.dev.mem.moves, w.from_ ≠ 100) ∧ (∀ w ∈ s.dev.mem.faulty, w.1 / Config.extentBytes ≠ 100) := by decide
theorem witness_RetireWaits : let s : State := { dev := { dev7 with mem := { (dev7).mem with retireWait := [100], retireTold := [100], owners := [(100, .system)] } } }
    s.dev.running = true ∧ 100 ∈ s.dev.mem.retireWait ∧ s.dev.owner 100 = .system ∧ 100 ∈ s.dev.mem.retireTold
      ∧ (s.dev.evq 0).kindMask.testBit 5 = false := by decide

def atomic7 (kind : AtomicKind) (operands : List Nat) (compare : List Nat := []) (off : Nat := 248) : Atomic :=
  { core := 0, stream := 9, addr := 100 * 2 ^ 21 + off, kind := kind, operands := operands, compare := compare }

/-- 1 and 2 added to zeros. -/
theorem witness_AtomicAdd : let a := atomic7 .f32 [0x3F800000, 0x40000000]
    let s := onCore0
    let e := running8
    let d := { s.dev with mem := { s.dev.mem with
      atomics := [{ entry := e.id, lot := e.lot, fn := .add, op := a, queued := true }]
      atomicTurn := Tab.put 0 ((e.lot + 1) % Config.lots) s.dev.mem.atomicTurn (homeSlice a.addr) } }
    Runs s 0 e ∧ e.stream = a.stream.val ∧ a.wf .add = true ∧ a.addr + 8 ≤ Config.memTop ∧ a.addr % a.kind.bytes = 0 ∧ e.lot < Config.lots
      ∧ s.dev.mem.atomics = [] ∧ s.dev.owner (a.addr / Config.extentBytes) = .lot e.lot ∧ s.dev.tensorAt e.lot 100 = some (k7, tensor7)
      ∧ tensor7.extents.idxOf 100 * Config.extentBytes + a.addr % Config.extentBytes = 248
      ∧ ∃ d1 r d3, d.stageRange e k7 248 8 = .ok d1 ∧ d1.fetchTensor e k7 248 8 = .ok r
          ∧ r.2.putTensor e k7 248 ([0x3F800000, 0x40000000].flatMap (toLE 4)) = .ok d3 :=
  ⟨⟨rfl, rfl⟩, by decide, by decide, by decide, by decide, by decide, rfl, by decide, by decide, by decide,
    ok3_of _ _ (fun (_ : Device) (r : Bytes × Device) => r.2.putTensor running8 k7 248 ([0x3F800000, 0x40000000].flatMap (toLE 4))) (by decide)⟩
theorem witness_AtomicCas : let a := atomic7 .w64 [7] [0]
    a.addr % a.kind.bytes = 0 ∧ a.wf .cas = true ∧ (atomic7 .w64 [7]).wf .swap = true ∧ (atomic7 .w64 [7]).wf .cas = false
      ∧ (atomic7 .w64 [7] [0] 252).wf .cas = true ∧ (atomic7 .w64 [7] [0] 252).addr % 8 ≠ 0
      ∧ onCore0.dev.owner ((atomic7 .w64 [7] [0] (2 ^ 21)).addr / Config.extentBytes) ≠ .lot 1 := by decide
theorem test_atomicAdd : (match exec (.atomicAdd (atomic7 .f32 [0x3F800000, 0x40000000])) onCore0 with
    | .next t => t.dev.getTensor running8 k7 248 8 = toLE 4 0x3F800000 ++ toLE 4 0x40000000
    | _ => false) = true := by decide
theorem test_atomicCas : (match exec (.atomicCas (atomic7 .w64 [7] [0])) onCore0 with
    | .next t => Tab.find t.dev.mem.atomicOld 0 = some [0] && t.dev.getTensor running8 k7 248 8 = toLE 8 7
    | _ => false) = true := by decide
/-- An atomic in wait: its lot's turn comes. -/
theorem witness_AtomicTurn : let d : Device := { dev0 with mem := { dev0.mem with
      atomics := [{ entry := 1, lot := 1, fn := .add, op := atomic7 .f32 [0], queued := true }] } }
    d.atomicLot (homeSlice (atomic7 .f32 [0]).addr) = some 1 ∧ Tab.look 0 d.mem.atomicTurn 0 < 64 := by decide

/-- A region of two contributions whose first line waits for the first or for the second. -/
def region7 : Region := { lot := 1, entry := 1, fn := .sum, n := 2, tensor := k7, offset := 0 }
def reducing (v : LineState) (lot : Nat := 1) : State :=
  { onCore0 with dev := { onCore0.dev with mem := { onCore0.dev.mem with
      regions := [(0, region7)], lines := [(0, v)], scratch := [{ entry := 1, lot := lot, line := some 0, runs := [] }] } } }
theorem witness_ContributionsReduce : let s := reducing {}
    s.dev.running = true ∧ Tab.find s.dev.mem.regions 0 = some region7 ∧ s.dev.entry region7.entry = some running8
      ∧ Tab.find s.dev.mem.lines (0 * 2 ^ 24 + 0) = some {} ∧ 0 < region7.n ∧ ({} : LineState).next = 0 ∧ ({} : LineState).window = [] ∧ 0 + 1 < region7.n
      ∧ s.dev.scratchOwned running8 = true ∧ (reducing {} 2).dev.scratchOwned running8 = false := by decide
theorem witness_ContributionWaits : let s : State := { onCore0 with dev := { onCore0.dev with
      hosts := { onCore0.dev.hosts with image := { lots := [{ valid := true }, { valid := true, tag := 1 }] } }
      mem := { onCore0.dev.mem with regions := [(0, region7)] } } }
    Tab.find s.dev.mem.lines 0 = none ∧ rangesSize (s.dev.scratchFree 1 (s.dev.lineSlice running8 region7 0)) < lineStateBytes region7.n / 256
      ∧ (1 : Nat) ≠ ({} : LineState).next ∧ (∀ w ∈ ({} : LineState).window, w.1 ≠ ({} : LineState).next) := by decide
theorem witness_ContributionEnds : let s := reducing { next := 1, stack := [(1, List.replicate 64 0)] }
    (1 : Nat) + 1 = region7.n ∧ (Tab.find s.dev.mem.lines 0).isSome = true
      ∧ ∃ d2, s.dev.putTensor running8 region7.tensor 0 ((List.replicate 64 0).flatMap (toLE 4)) = .ok d2 := by
  refine ⟨rfl, rfl, ?_⟩
  obtain ⟨b, h, -⟩ := ok_of ((reducing { next := 1, stack := [(1, List.replicate 64 0)] }).dev.putTensor running8 region7.tensor 0
    ((List.replicate 64 0).flatMap (toLE 4))) (fun _ => true) (by decide)
  exact ⟨b, h⟩

def permute7 : PermuteOp := { width := 2, groups := 1, src := 0, dst := 2048, index := 4096 }
def shuffle7 : ShuffleOp := { pattern := .exchange 7, width := 8, groups := 1, src := 0, dst := 2048 }
def bits7 : BitsOp := { predicate := 1, addr := 0, count := 9 }
def weave7 : InterleaveOp := { width := 8, count := 2, parts := [0, 16, 32, 48], whole := 64 }

theorem witness_MovesOfElements : Runs onCore0 0 running8 ∧ permute7.width ∈ [1, 2, 4] ∧ 1 ≤ permute7.groups ∧ spanOk permute7.src 2048 = true
    ∧ spanOk permute7.dst 2048 = true ∧ spanOk permute7.index 1024 = true ∧ spanOk (2 ^ 30) 2048 = false ∧ shuffle7.width ∈ [1, 2, 4, 8]
    ∧ 2 ^ 7 < 2048 / shuffle7.width ∧ spanOk 0 shuffle7.indexBytes = true ∧ spanOk bits7.addr (ceilDiv bits7.count 8) = true ∧ weave7.wf = true
    ∧ weave7.inside = true ∧ (weave7.parts.Pairwise fun a b => a + 16 ≤ b ∨ b + 16 ≤ a) :=
  ⟨⟨rfl, rfl⟩, by decide, by decide, by decide, by decide, by decide, by decide, by decide, by decide, by decide, by decide, by decide, by decide, by decide⟩
/-- Element 0 of a group of 64-bit elements goes to place 128 = 0 exclusive-or 2^7. -/
theorem test_shuffle : (match exec (.shuffle 0 shuffle7) { onCore0 with eng := { onCore0.eng with stores := [(0, 9)] } } with
    | .next t => t.eng.read 0 (2048 + 128 * 8) 8 = toLE 8 9
    | _ => false) = true := by decide

def mx7 : MxOp := { fmt := .mx8, block := 16, blocks := 1, plane := 0, scales := 64, data := 128 }
def sp7 : Sp24Op := { fmt := .bf16, groups := 2, values := 0, meta24 := 64, data := 128 }

/-- The launch on core 0 whose local store holds the metadata 01 00 and 11 10. -/
def sparse0 : State := { onCore0 with eng := { onCore0.eng with stores := [(64, 0xE4)] } }

theorem witness_PackingCompletes : let nibs (s : State) : List Nat := (List.range sp7.groups).map fun g => bitElem 4 g (s.eng.read 0 sp7.meta24 (ceilDiv sp7.groups 2))
    Runs onCore0 0 running8 ∧ mx7.wf = true ∧ mx7.inside = true ∧ Runs sparse0 0 running8 ∧ sp7.wf = true ∧ sp7.inside = true
      ∧ (nibs sparse0).all nibbleOk = true ∧ (nibs onCore0).all nibbleOk = false := ⟨⟨rfl, rfl⟩, by decide, by decide, ⟨rfl, rfl⟩, by decide, by decide, by decide, by decide⟩

/-- Two FP32 elements at 64 and at 128, added to 0. -/
def desc7 (base : Nat) : Desc := { base := base, fmt := .fp32, extents := [2], strides := [1] }
def add7 : VectorOp := { op := .add, dst := desc7 0, srcs := [desc7 64, desc7 128] }
def vector0 : State := { onCore0 with eng := { onCore0.eng with stores := [(66, 0x80), (67, 0x3F), (71, 0x40), (130, 0x80), (131, 0x3F), (135, 0xC0)] } }
/-- The same with the maximum of the row into a scalar register, or into the store. -/
def max7 (mode : RedMode) : Channel := { input := none, fn := .max, mode := mode, dst := { base := 256, fmt := .fp32, extents := [1], strides := [1] } }

theorem witness_VectorOperations : Runs vector0 0 running8 ∧ add7.wf = true ∧ (add7.srcs.all fun x => x.inside [2]) = true
    ∧ add7.dst.inside [2] = true ∧ (add7.channels.all fun ch => ch.inside [2]) = true
    ∧ (∀ a, a < 2 → ∀ b, b < 2 → a ≠ b → (add7.dst.addr (indexOf [2] a)).toNat + 4 ≤ (add7.dst.addr (indexOf [2] b)).toNat
        ∨ (add7.dst.addr (indexOf [2] b)).toNat + 4 ≤ (add7.dst.addr (indexOf [2] a)).toNat)
    ∧ ({ add7 with summary := some 3 } : VectorOp).wf = true ∧ ({ add7 with op := .cmp .lt } : VectorOp).wf = true
    ∧ spaceOk [2] = true ∧ (add7.srcs.all fun x => x.wf [2] && x.inside [2]) = true :=
  ⟨⟨rfl, rfl⟩, by decide, by decide, by decide, by decide, by decide, by decide, by decide, by decide, by decide⟩
theorem witness_VectorChannels : ({ add7 with channels := [max7 (.scalar 2)] } : VectorOp).wf = true
    ∧ ({ add7 with channels := [max7 .row] } : VectorOp).wf = true ∧ (max7 .row).inside [2] = true ∧ (max7 .row).fn.indexed = false := by decide
theorem witness_VectorNoCompare : ¬ ∃ c, add7.op = .cmp c := by rintro ⟨c, h⟩; cases h
/-- 1 + 1 and 2 − 2, and their maximum. -/
theorem test_vectorAdd : (match exec (.vectorOperation 0 add7) vector0 with
    | .next t => t.eng.read 0 0 8 = toLE 4 0x40000000 ++ toLE 4 0
    | _ => false) = true := by decide
theorem test_vectorMax : (match exec (.vectorOperation 0 { add7 with channels := [max7 (.scalar 2)] }) vector0 with
    | .next t => Tab.look 0 (t.eng.core 0).scalars 2 = 0x40000000
    | _ => false) = true := by decide
/-- A source with a zero stride. -/
theorem witness_BroadcastHeld : let x : Desc := { base := 64, fmt := .fp32, extents := [2], strides := [0] }
    x.wf [2] = true ∧ x.inside [2] = true ∧ x.footprint [2] = some 4 := by decide

/-- One element of depth 2 of BF16: (1, 2) · (1, 2). -/
def view7 (base : Nat) : OperandView := { base := base, fmt := .bf16, laneStride := 4, kStride := 1 }
def tile7 : Tile := { rows := 1, cols := 1, depth := 2, a := view7 64, b := view7 128, out := { base := 0, fmt := .fp32, stride := 1 } }
def matrix0 : State := { onCore0 with eng := { onCore0.eng with stores := [(64, 0x80), (65, 0x3F), (67, 0x40), (128, 0x80), (129, 0x3F), (131, 0x40)] } }

theorem witness_MatrixTile : let fed (v : OperandView) (r k : Nat) : Fed := v.fed matrix0.eng 0 r k
    Runs matrix0 0 running8 ∧ tile7.wf = true ∧ tile7.inside = true ∧ tile7.a.fmt.isMx = false ∧ tile7.b.fmt.isMx = false ∧ tile7.a.fmt ≠ .fp64
      ∧ (∀ r, r < 1 → ∀ k, k < 2 → fed tile7.a r k ≠ .badMeta) ∧ (∀ c, c < 1 → ∀ k, k < 2 → fed tile7.b c k ≠ .badMeta)
      ∧ tile7.a.laneStride % 4 = 0 ∧ tile7.out.fmt.isMx = false ∧ tile7.cols ≤ tile7.out.stride ∧ tile7.drain.z = none ∧ tile7.taps = [] :=
  ⟨⟨rfl, rfl⟩, by decide, by decide, rfl, rfl, by decide, by decide, by decide, rfl, rfl, by decide, rfl, rfl⟩
/-- An MX operand with its blocks off K, one of bad metadata, and a tap that the launch holds. -/
theorem witness_MatrixTileFails : let v : OperandView := { view7 64 with fmt := .mx8, kStride := 2 }
    let m : OperandView := { view7 64 with meta24 := some 256 }
    let c : LaunchTap := { key := tensorKeyOf 1 (h7 % 2 ^ 24) * 2 ^ 16, kind := 0, width := 1, subsample := 0, phase := 0, origin := 0 }
    ({ tile7 with a := v, b := v } : Tile).wf = true ∧ ({ tile7 with a := v, b := v } : Tile).inside = true ∧ v.fmt.isMx = true ∧ v.kStride ≠ 1
      ∧ m.fed matrix0.eng 0 0 0 = .badMeta ∧ c.expert = false
      ∧ (({ running8 with taps := [c] }).taps.find? fun c => c.key = tensorKeyOf 1 (h7 % 2 ^ 24) * 2 ^ 16 + 0) = some c := by decide
theorem test_matrixTile : (match exec (.matrixTile 0 tile7) matrix0 with
    | .next t => t.eng.read 0 0 4 = toLE 4 0x40A00000
    | _ => false) = true := by decide

theorem witness_EnginesKeep : (Instr.mctpMessage .control).reachesEngines = false ∧ (∃ t, exec (.mctpMessage .control) dev0State = .next t) := ⟨rfl, _, rfl⟩
theorem witness_InterfacesKeep : (Instr.mctpMessage .control).interfaceOnly = true ∧ (∃ t, exec (.mctpMessage .control) dev0State = .next t) := ⟨rfl, _, rfl⟩

end Sys2Proof.Tests
end

section
/-!
Accesses of BAR0 at offsets that a function does not reach (R11, R12): the value is 0, and what such an access leaves behind is at most the latch of
the function, the answer of the read, and the record of a probe (R7, R13).
-/
namespace Sys2Proof.Machine

/-! ### Offsets out of reach -/

/-- On no device does the function see a register at the offset. -/
def Fn.blindAt (f : Fn) (n : Nat) : Prop := ∀ r, regAt n = some r → ∀ d : Device, d.visible f r = false

theorem regAt_of_reserved {n : Nat} (h : 0xD0000 ≤ n) : regAt n = none := by
  have block : 0xD ≤ n / 2 ^ 16 := by omega
  unfold regAt
  dsimp only
  split
  case h_14 => rfl
  all_goals omega

theorem Device.mgmtWrites_of_vf (d : Device) {f : Fn} {l : Lot} (hf : f.vf = some l) : d.mgmtWrites f = false := by
  simp [Device.mgmtWrites, Device.isMgmt, hf]

theorem Device.sees_of_other_lot (d : Device) {f : Fn} {l : Lot} {n : Nat} (hf : f.vf = some l) (hn : l.val ≠ n) : d.sees f n = false := by
  simp [Device.sees, hf, hn]

/-- A register of a lot's slice is seen by who sees the lot, or, in the block LOT, by the management function (R12, R13). -/
theorem Device.visible_of_lotOf (d : Device) (f : Fn) {r : Reg} {n : Nat} (h : r.lotOf = some n) :
    d.visible f r = d.sees f n ∨ d.visible f r = d.mgmtWrites f := by
  cases r
  case lotStat | lotMem | lotHold => exact .inr rfl
  all_goals cases h <;> exact .inl rfl

theorem Fn.blindAt_of_reserved (f : Fn) {n : Nat} (h : 0xD0000 ≤ n) : f.blindAt n := by
  intro r hr
  rw [regAt_of_reserved h] at hr
  cases hr

theorem Fn.blindAt_of_other_lot {f : Fn} {n m : Nat} {r : Reg} {l : Lot} (hr : regAt n = some r) (hm : r.lotOf = some m) (hf : f.vf = some l)
    (hl : l.val ≠ m) : f.blindAt n := by
  intro r' hr' d
  cases hr.symm.trans hr'
  rcases d.visible_of_lotOf f hm with h | h
  · rw [h, d.sees_of_other_lot hf hl]
  · rw [h, d.mgmtWrites_of_vf hf]

/-! ### What an access may leave behind -/

/-- The state with other latches of reads, another answer of the last read, and other records that wait in their sources. -/
def State.retraced (s : State) (latches : Table (Nat × Nat)) (answer : BitVec 64) (sources : Table EventSource) : State :=
  { s with dev := { s.dev with
      hosts := { s.dev.hosts with latches := latches, readData := answer }, events := { s.dev.events with sources := sources } } }

/-- Two states that differ in these alone: every register of every block is the same. -/
def TracesOnly (s t : State) : Prop := ∃ latches answer sources, t = s.retraced latches answer sources

theorem TracesOnly.refl (s : State) : TracesOnly s s := ⟨_, _, _, rfl⟩

theorem TracesOnly.trans {s t u : State} (h : TracesOnly s t) (h' : TracesOnly t u) : TracesOnly s u := by
  obtain ⟨_, _, _, rfl⟩ := h
  obtain ⟨latches, answer, sources, rfl⟩ := h'
  exact ⟨latches, answer, sources, rfl⟩

theorem TracesOnly.dropLatch (s : State) (f : Fn) : TracesOnly s { s with dev := s.dev.dropLatch f } := ⟨_, _, _, rfl⟩

theorem TracesOnly.probe (s : State) (f : Fn) (n : Nat) : TracesOnly s { s with dev := s.dev.probe f n } := by
  unfold Device.probe
  split
  · exact ⟨_, _, _, rfl⟩
  · exact .refl s

/-! ### Reads -/

theorem State.seen_of_not_visible {s : State} {f : Fn} {r : Reg} (h : s.dev.visible f r = false) : s.seen f r = 0 := by
  simp [State.seen, h]

theorem State.clearSeen_of_not_visible {s : State} {f : Fn} {r : Reg} (h : s.dev.visible f r = false) (hi lo : Nat) :
    s.clearSeen f r hi lo = s := by
  simp [State.clearSeen, h]

/-- A 32-bit read out of reach, where no 64-bit register lies, discards the latch and gives 0. -/
theorem State.read32_of_blindAt_narrow (s : State) {f : Fn} {n : Nat} (h : f.blindAt n) (hw : ∀ r, regAt n = some r → r.wide = false) :
    s.read32 f n = (0, { s with dev := s.dev.dropLatch f }) := by
  unfold State.read32
  cases hr : regAt n with
  | none => rfl
  | some r => simp [hw r hr, seen_of_not_visible (h r hr _), clearSeen_of_not_visible (h r hr _)]

/-- A 32-bit read out of reach gives 0, where it does not fetch the high half that an earlier read has latched (R7). -/
theorem State.read32_of_blindAt (s : State) {f : Fn} {n : Nat} (h : f.blindAt n)
    (hl : ∀ x, Tab.find s.dev.hosts.latches f.key = some x → x.1 + 4 ≠ n) :
    (s.read32 f n).1 = 0 ∧ TracesOnly s (s.read32 f n).2 := by
  unfold State.read32
  cases hr : regAt n with
  | none => exact ⟨rfl, .dropLatch s f⟩
  | some r =>
    simp only [seen_of_not_visible (h r hr _), clearSeen_of_not_visible (h r hr _)]
    by_cases narrow : r.wide = false
    · simpa [narrow] using TracesOnly.dropLatch s f
    by_cases low : n % 8 = 0
    · simpa [narrow, low] using ⟨_, _, _, rfl⟩
    cases latched : Tab.find s.dev.hosts.latches f.key with
    | none => simpa [narrow, low] using TracesOnly.dropLatch s f
    | some x => simpa [narrow, low, hl x latched] using TracesOnly.dropLatch s f

/-- A 64-bit read where no 64-bit register lies reads the lower half, then the upper. -/
theorem State.read64_of_narrow (s : State) (f : Fn) {n : Nat} (hw : ∀ r, regAt n = some r → r.wide = false) :
    s.read64 f n = ((s.read32 f n).1 + ((s.read32 f n).2.read32 f (n + 4)).1 * 2 ^ 32, ((s.read32 f n).2.read32 f (n + 4)).2) := by
  unfold State.read64
  cases hr : regAt n with
  | none => rfl
  | some r => simp only [hw r hr, Bool.false_eq_true, if_false]

/-- A 64-bit read out of reach gives 0: its first half leaves no latch that the second could fetch. -/
theorem State.read64_of_blindAt (s : State) {f : Fn} {n : Nat} (h : f.blindAt n) (h4 : f.blindAt (n + 4)) :
    (s.read64 f n).1 = 0 ∧ TracesOnly s (s.read64 f n).2 := by
  by_cases narrow : ∀ r, regAt n = some r → r.wide = false
  · obtain ⟨zero, kept⟩ := State.read32_of_blindAt { s with dev := s.dev.dropLatch f } h4 (by simp [Device.dropLatch])
    rw [s.read64_of_narrow f narrow, s.read32_of_blindAt_narrow h narrow]
    exact ⟨by rw [zero, Nat.zero_mul], .trans (.dropLatch s f) kept⟩
  · obtain ⟨r, hr, hw⟩ : ∃ r, regAt n = some r ∧ r.wide = true := by simpa using narrow
    unfold State.read64
    simpa [hr, hw, seen_of_not_visible (h r hr _), clearSeen_of_not_visible (h r hr _)] using TracesOnly.dropLatch s f

/-- REGISTER_READ_CLEAR out of reach answers 0. -/
theorem execRegisterReadClear_of_blindAt {s : State} {f : Fn} {o : BitVec 20} {wide : Bool} (hc : s.dev.completes f = true)
    (h : f.blindAt o.toNat) (h4 : wide = true → f.blindAt (o.toNat + 4))
    (hl : ∀ x, Tab.find s.dev.hosts.latches f.key = some x → x.1 + 4 ≠ o.toNat) :
    ∃ t, execRegisterReadClear f o wide s = .next t ∧ t.dev.hosts.readData = 0 ∧ TracesOnly s t := by
  have answered {v : Nat} {t : State} (h : v = 0 ∧ TracesOnly s t) :
      ∃ u, (.next { t with dev := { t.dev with hosts := { t.dev.hosts with readData := BitVec.ofNat 64 v } } } : Out) = .next u
        ∧ u.dev.hosts.readData = 0 ∧ TracesOnly s u := by
    obtain ⟨rfl, kept⟩ := h
    exact ⟨_, rfl, rfl, kept.trans ⟨_, _, _, rfl⟩⟩
  unfold execRegisterReadClear
  rw [if_neg (by simp [hc])]
  by_cases refused : (!s.dev.answers f || !accessAligned o.toNat wide) = true
  · rw [if_pos refused]
    exact answered ⟨rfl, .refl s⟩
  rw [if_neg refused]
  by_cases hw : wide = true
  · rw [if_pos hw]
    exact answered (s.read64_of_blindAt h (h4 hw))
  · rw [if_neg hw]
    exact answered (s.read32_of_blindAt h hl)

/-! ### Writes -/

/-- A write of a register out of reach is ignored, but for the record of a probe (R13). -/
theorem State.writeReg_of_blindAt (s : State) {f : Fn} {n : Nat} (h : f.blindAt n) (half : Option Bool) (v : Nat) :
    TracesOnly s (s.writeReg f n half v) := by
  unfold State.writeReg
  dsimp only
  split
  · exact .trans (.dropLatch s f) (.probe _ f n)
  · cases hr : regAt n with
    | none => exact .dropLatch s f
    | some r => simpa [h r hr _] using TracesOnly.dropLatch s f

theorem State.write64_of_blindAt (s : State) {f : Fn} {n : Nat} (h : f.blindAt n) (h4 : f.blindAt (n + 4)) (v : Nat) :
    TracesOnly s (s.write64 f n v) := by
  unfold State.write64
  extract_lets isWide
  by_cases whole : isWide = true
  · rw [if_pos whole]
    exact s.writeReg_of_blindAt h none v
  · rw [if_neg whole]
    exact .trans (s.writeReg_of_blindAt h _ _) (State.writeReg_of_blindAt _ h4 _ _)

/-- REGISTER_WRITE out of reach is ignored. -/
theorem execRegisterWrite_of_blindAt (s : State) {f : Fn} {o : BitVec 20} {wide : Bool} (v : BitVec 64)
    (h : f.blindAt o.toNat) (h4 : wide = true → f.blindAt (o.toNat + 4)) :
    ∃ t, execRegisterWrite f o wide v s = .next t ∧ TracesOnly s t := by
  unfold execRegisterWrite
  split
  · exact ⟨s, rfl, .refl s⟩
  · split
    · rename_i hw; exact ⟨_, rfl, s.write64_of_blindAt h (h4 hw) _⟩
    · exact ⟨_, rfl, s.writeReg_of_blindAt h _ _⟩

/-! ### The statement -/

/-- Settles O43: the offsets named are those where the function is blind on every device, and there an access leaves traces alone. -/
theorem offsetsOutOfReachReadZero : Obligations.OffsetsOutOfReachReadZero := by
  intro s f o wide v away hc ho ho4 hl i hi
  have blind {n : Nat} (h : away n) : f.blindAt n := by
    rcases h with reserved | ⟨r, l, m, hr, hm, hf, hlm⟩
    · exact f.blindAt_of_reserved reserved
    · exact Fn.blindAt_of_other_lot hr hm hf hlm
  have blind4 (hw : wide = true) : f.blindAt (o.toNat + 4) := blind (ho4 hw)
  rcases hi with rfl | rfl
  · obtain ⟨t, run, zero, _, _, _, rfl⟩ := execRegisterReadClear_of_blindAt hc (blind ho) blind4 hl
    exact ⟨_, run, fun _ => zero, rfl, rfl, rfl, rfl, rfl, rfl, rfl, rfl, rfl, rfl, rfl, rfl, rfl, rfl⟩
  · obtain ⟨t, run, _, _, _, rfl⟩ := execRegisterWrite_of_blindAt s v (blind ho) blind4
    exact ⟨_, run, nofun, rfl, rfl, rfl, rfl, rfl, rfl, rfl, rfl, rfl, rfl, rfl, rfl, rfl, rfl⟩

end Sys2Proof.Machine
end

section
/-!
The phases of a job (R27, R28): a boundary leaves the job in its phase, with at most the parts held for a PARTNER sent on to their blend (R160),
or brings it into the next one.
-/
namespace Sys2Proof.Machine

/-! ### What belongs to the solver -/

/-- The devices that differ from a device in the solver's part of the state alone: its units, contexts and preconditioners. -/
def SolverOnly (d d' : Device) : Prop := ∃ solver, d' = { d with solver := solver }

theorem SolverOnly.refl (d : Device) : SolverOnly d d := ⟨_, rfl⟩

theorem SolverOnly.trans {d d' d'' : Device} (h : SolverOnly d d') (h' : SolverOnly d' d'') : SolverOnly d d'' := by
  obtain ⟨_, rfl⟩ := h
  obtain ⟨solver, rfl⟩ := h'
  exact ⟨solver, rfl⟩

theorem SolverOnly.job {d d' : Device} (h : SolverOnly d d') (k : Nat) : d'.job k = d.job k := by
  obtain ⟨_, rfl⟩ := h
  rfl

theorem Device.setUnit_solverOnly (d : Device) (c : Nat) (u : SolverUnit) : SolverOnly d (d.setUnit c u) := ⟨_, rfl⟩

theorem Device.takeBlend_solverOnly (d : Device) (c : Nat) : SolverOnly d (d.takeBlend c) := by
  unfold Device.takeBlend
  dsimp only
  split
  · split
    · exact .refl d
    · exact d.setUnit_solverOnly c _
  · exact .refl d

theorem Device.queueBlend_solverOnly (d : Device) (b : BlendJob) : SolverOnly d (d.queueBlend b) :=
  .trans (d.setUnit_solverOnly _ _) (Device.takeBlend_solverOnly _ _)

theorem Device.dropHeld_solverOnly (d : Device) (parts : List BlendPart) : SolverOnly d (d.dropHeld parts) := ⟨_, rfl⟩

theorem SolverOnly.foldl {α : Type} {f : Device → α → Device} (hf : ∀ d a, SolverOnly d (f d a)) (d : Device) (l : List α) :
    SolverOnly d (l.foldl f d) :=
  List.foldlRecOn l f (.refl d) fun _ h a _ => h.trans (hf _ a)

/-! ### The map of a job -/

/-- A change of map that settles touches its job alone, and neither the phase of the job nor its step (R316). -/
theorem Device.settleMap_cases (d : Device) (job : Nat) :
    d.settleMap job = d ∨
      ∃ j : Job, d.settleMap job = d.setJob job j ∧ j.phase = (d.job job).phase ∧ j.phaseStep = (d.job job).phaseStep := by
  unfold Device.settleMap
  dsimp only
  split
  · exact .inl rfl
  · split
    · exact .inr ⟨_, rfl, rfl, rfl⟩
    · exact .inl rfl

theorem Device.settleMap_phase (d : Device) (job : Nat) :
    ((d.settleMap job).job job).phase = (d.job job).phase ∧ ((d.settleMap job).job job).phaseStep = (d.job job).phaseStep := by
  rcases d.settleMap_cases job with same | ⟨j, settled, phase, step⟩
  · simp [same]
  · simp [settled, phase, step]

/-! ### One job alone -/

/-- No other job, no memory, no shard and no command in flight differs. -/
def JobFrame (job : Nat) (d d' : Device) : Prop :=
  (∀ k, k ≠ job → d'.job k = d.job k) ∧ d'.mem = d.mem ∧ d'.shards = d.shards ∧ d'.journal = d.journal

theorem JobFrame.refl (job : Nat) (d : Device) : JobFrame job d d := ⟨fun _ _ => rfl, rfl, rfl, rfl⟩

theorem JobFrame.trans {job : Nat} {d d' d'' : Device} (h : JobFrame job d d') (h' : JobFrame job d' d'') : JobFrame job d d'' := by
  obtain ⟨jobs, mem, shards, journal⟩ := h
  obtain ⟨jobs', mem', shards', journal'⟩ := h'
  exact ⟨fun k hk => (jobs' k hk).trans (jobs k hk), mem'.trans mem, shards'.trans shards, journal'.trans journal⟩

theorem SolverOnly.jobFrame {d d' : Device} (h : SolverOnly d d') (job : Nat) : JobFrame job d d' := by
  obtain ⟨_, rfl⟩ := h
  exact .refl job d

theorem Device.setJob_jobFrame (d : Device) (job : Nat) (v : Job) : JobFrame job d (d.setJob job v) :=
  ⟨fun k hk => by simp [hk], rfl, rfl, rfl⟩

theorem Device.settleMap_jobFrame (d : Device) (job : Nat) : JobFrame job d (d.settleMap job) := by
  rcases d.settleMap_cases job with same | ⟨j, settled, -, -⟩
  · rw [same]
    exact .refl job d
  · rw [settled]
    exact d.setJob_jobFrame job j

/-! ### The boundary -/

/-- Whether a key is that of a tensor of the job. -/
def Device.keyOfJob (d : Device) (job key : Nat) : Bool := match d.tensor key with | some t => t.job = job | none => false

/-- The job in the phase that follows, and in the next step where that is the forward phase (R27). -/
def Job.advanced (j : Job) : Job :=
  { j with phase := (j.phase + 1) % 5, phaseStep := if (j.phase + 1) % 5 = 0 then j.phaseStep + 1 else j.phaseStep }

/-- A running device whose phase of the job has ended, with no blend under way where it is the curvature phase (R27). -/
def Device.phaseOver (d : Device) (job : Nat) : Prop :=
  d.running = true ∧ d.phaseEnded job = true ∧ ((d.job job).phase = 2 → d.blending (d.keyOfJob job) = false)

/-- The same as the test that PHASE_BOUNDARY makes. -/
theorem Device.phaseOver_iff (d : Device) (job : Nat) :
    d.phaseOver job ↔ (!d.running || !d.phaseEnded job || (d.job job).phase = 2 && d.blending (d.keyOfJob job)) = false := by
  simp [Device.phaseOver, and_assoc]

/-- The parts that a curvature phase must still blend before it ends (R160). -/
def Device.partsLeft (d : Device) (job : Nat) : List BlendPart := if (d.job job).phase = 2 then d.heldParts (d.keyOfJob job) else []

theorem Device.partsLeft_eq_nil_iff (d : Device) (job : Nat) :
    d.partsLeft job = [] ↔ ((d.job job).phase = 2 → d.heldParts (d.keyOfJob job) = []) := ite_eq_right_iff

/-- What PHASE_BOUNDARY makes of a device: it waits for the end of the phase, sends the parts that are left to their blends, or brings the job into
the phase that follows, where a pending map may settle. -/
inductive PhaseBoundary (d : Device) (job : Nat) : Device → Prop where
  | waits (goesOn : ¬ d.phaseOver job) : PhaseBoundary d job d
  | blends {d' : Device} (ended : d.phaseOver job) (left : d.partsLeft job ≠ []) (solver : SolverOnly d d') : PhaseBoundary d job d'
  | advances {d' : Device} (ended : d.phaseOver job) (left : d.partsLeft job = []) (solver : SolverOnly d d') :
      PhaseBoundary d job ((d'.setJob job (d.job job).advanced).settleMap job)

theorem execPhaseBoundary_next (job : Nat) (s : State) :
    ∃ d, execPhaseBoundary job s = .next { s with dev := d } ∧ PhaseBoundary s.dev job d := by
  refine ⟨_, rfl, ?_⟩
  dsimp -zeta only
  extract_lets j ofJob held next step _ d old
  have test := s.dev.phaseOver_iff job
  have solver : SolverOnly s.dev d := by
    unfold d
    split
    · exact ⟨_, rfl⟩
    · split
      · exact ⟨_, rfl⟩
      · exact .refl _
  split
  case isTrue stays => exact .waits fun ended => Bool.false_ne_true ((test.mp ended).symm.trans stays)
  case isFalse moves =>
    have ended : s.dev.phaseOver job := test.mpr (eq_false_of_ne_true moves)
    split
    case isTrue left =>
      have left : held ≠ [] := by simpa using left
      exact .blends ended left (.trans (s.dev.dropHeld_solverOnly held) (.foldl (fun d _ => d.queueBlend_solverOnly _) _ _))
    case isFalse left =>
      have left : held = [] := by simpa using left
      rw [show old = s.dev.job job from solver.job job]
      exact .advances ended left solver

/-! ### What a boundary changes, and what it does not -/

theorem PhaseBoundary.jobFrame {d d' : Device} {job : Nat} (h : PhaseBoundary d job d') : JobFrame job d d' := by
  cases h with
  | waits => exact .refl job d
  | blends _ _ solver => exact solver.jobFrame job
  | advances _ _ solver => exact ((solver.jobFrame job).trans (Device.setJob_jobFrame _ job _)).trans (Device.settleMap_jobFrame _ job)

/-- Where the phase is over and no part is left, the job is in the phase that follows; elsewhere it is in its phase and step still. -/
theorem PhaseBoundary.phase {d d' : Device} {job : Nat} (h : PhaseBoundary d job d') :
    ((d.phaseOver job ∧ d.partsLeft job = [])
      ∧ (d'.job job).phase = (d.job job).advanced.phase ∧ (d'.job job).phaseStep = (d.job job).advanced.phaseStep)
    ∨ (¬ (d.phaseOver job ∧ d.partsLeft job = [])
      ∧ (d'.job job).phase = (d.job job).phase ∧ (d'.job job).phaseStep = (d.job job).phaseStep) := by
  cases h with
  | waits goesOn => exact .inr ⟨fun h => goesOn h.1, rfl, rfl⟩
  | blends _ left solver => exact .inr ⟨fun h => left h.2, by rw [solver.job], by rw [solver.job]⟩
  | advances ended left _ =>
    exact .inl ⟨⟨ended, left⟩, by simpa using Device.settleMap_phase (Device.setJob _ job _) job⟩

/-- A command of the phase that is still under way holds the job in it (R27). -/
theorem Device.phaseEnded_eq_false {d : Device} {job : Nat} {e : Entry} (he : e ∈ d.journal) (hj : (d.stream e.stream).job = job)
    (hg : e.status.good = true)
    (h : ((e.op = .opLaunch ∨ e.op = .graphLaunch) ∧ e.phase = .dispatched ∧ e.ran = true ∧ e.phaseByte = (d.job job).phase)
      ∨ ((d.job job).phase = 3 ∧ e.op = .solve ∧ e.phase = .dispatched ∧ e.ran = false)
      ∨ ((d.job job).phase = 4 ∧ e.op = .shardUpdate ∧ e.phase ≠ .committed ∧ e.param 24 8 = (d.job job).phaseStep)) :
    d.phaseEnded job = false := by
  have uncommitted : e.phase ≠ .committed := by
    rcases h with ⟨-, dispatched, -⟩ | ⟨-, -, dispatched, -⟩ | ⟨-, -, uncommitted, -⟩
    · simp [dispatched]
    · simp [dispatched]
    · exact uncommitted
  refine List.all_eq_false.mpr ⟨e, he, ?_⟩
  rcases h with ⟨op | op, dispatched, ran, phase⟩ | ⟨phase, op, dispatched, waits⟩ | ⟨phase, op, -, step⟩
  · simp [hj, hg, dispatched, ran, phase, op]
  · simp [hj, hg, dispatched, ran, phase, op]
  · simp [hj, hg, dispatched, waits, phase, op]
  · simp [hj, hg, uncommitted, step, phase, op]

/-! ### The statement -/

/-- Settles O25, by the three things that a boundary can do. -/
theorem phaseBoundaryAdvances : Obligations.PhaseBoundaryAdvances := by
  intro s job j ofJob next
  obtain ⟨d, run, boundary⟩ := execPhaseBoundary_next job s
  refine ⟨_, run, ?_, ?_, ?_, boundary.jobFrame⟩
  · rcases boundary.phase with ⟨-, advanced⟩ | ⟨-, same⟩
    · exact .inr advanced
    · exact .inl same
  · intro running ended blended
    have left : s.dev.partsLeft job = [] := (s.dev.partsLeft_eq_nil_iff job).mpr fun curvature => (blended curvature).2
    rcases boundary.phase with ⟨-, phase, -⟩ | ⟨held, -⟩
    · exact phase
    · exact absurd ⟨⟨running, ended, fun curvature => (blended curvature).1⟩, left⟩ held
  · intro busy
    rcases boundary.phase with ⟨⟨⟨running, ended, -⟩, -⟩, -⟩ | ⟨-, same⟩
    · rcases busy with stopped | ⟨e, he, hj, good, under⟩
      · exact absurd running (by simp [stopped])
      · exact absurd ended (by simp [Device.phaseEnded_eq_false he hj good under])
    · exact same

end Sys2Proof.Machine
end

section
/-!
Hosts that come and go (R33, R352 to R359): a detach, a takeover and a function-level reset change queues of the lots that they reach, raise events,
and write the attachment, the role or the reset time; memory, journal, tensors and streams stay.
-/
namespace Sys2Proof.Machine

/-! ### Queues and events alone -/

/-- Two devices that differ in their queues and events alone. -/
def QueuesAndEvents (d d' : Device) : Prop := ∃ queues events, d' = { d with queues := queues, events := events }

theorem QueuesAndEvents.refl (d : Device) : QueuesAndEvents d d := ⟨_, _, rfl⟩

theorem QueuesAndEvents.trans {d d' d'' : Device} (h : QueuesAndEvents d d') (h' : QueuesAndEvents d' d'') : QueuesAndEvents d d'' := by
  obtain ⟨_, _, rfl⟩ := h
  obtain ⟨queues, events, rfl⟩ := h'
  exact ⟨queues, events, rfl⟩

theorem QueuesAndEvents.hosts {d d' : Device} (h : QueuesAndEvents d d') : d'.hosts = d.hosts := by
  obtain ⟨_, _, rfl⟩ := h
  rfl

theorem QueuesAndEvents.time {d d' : Device} (h : QueuesAndEvents d d') : d'.time = d.time := by
  obtain ⟨_, _, rfl⟩ := h
  rfl

theorem QueuesAndEvents.journal {d d' : Device} (h : QueuesAndEvents d d') : d'.journal = d.journal := by
  obtain ⟨_, _, rfl⟩ := h
  rfl

theorem QueuesAndEvents.attachment {d d' : Device} (h : QueuesAndEvents d d') (a : Nat) : d'.attachment a = d.attachment a := by
  obtain ⟨_, _, rfl⟩ := h
  rfl

theorem QueuesAndEvents.hostedLots {d d' : Device} (h : QueuesAndEvents d d') (a : Nat) : d'.hostedLots a = d.hostedLots a := by
  obtain ⟨_, _, rfl⟩ := h
  rfl

theorem Device.setEvq_queuesAndEvents (d : Device) (t : Nat) (v : EventQueue) : QueuesAndEvents d (d.setEvq t v) := ⟨_, _, rfl⟩

theorem Device.hostEvent_queuesAndEvents (d : Device) (a code : Nat) : QueuesAndEvents d (d.hostEvent a code) := by
  unfold Device.hostEvent Device.raiseMgmt Device.raiseRec
  dsimp only
  split
  · exact .refl d
  · exact ⟨_, _, rfl⟩

@[simp] theorem Device.hostEvent_queue (d : Device) (a code l q : Nat) : (d.hostEvent a code).queue l q = d.queue l q := by
  simp [Device.queue, Device.hostEvent]

@[simp] theorem Device.queue_setAttachment (d : Device) (a : Nat) (v : Attachment) (l q : Nat) : (d.setAttachment a v).queue l q = d.queue l q := rfl

@[simp] theorem Device.queue_setEvq (d : Device) (t : Nat) (v : EventQueue) (l q : Nat) : (d.setEvq t v).queue l q = d.queue l q := rfl

/-! ### Changes of some queues -/

theorem queueKey_inj {l q l' q' : Nat} (hq : q < Config.queuesPerLot) (hq' : q' < Config.queuesPerLot) :
    queueKey l q = queueKey l' q' ↔ l = l' ∧ q = q' := by
  unfold Config.queuesPerLot at hq hq'
  unfold queueKey
  omega

/-- The queues in `S` become `G` of what they were, the other queues stay, and but for events nothing else differs. -/
structure Rewrites (S : Nat → Nat → Prop) (G : Nat → SubQueue → SubQueue) (d d' : Device) : Prop where
  rest : QueuesAndEvents d d'
  inside : ∀ l q, q < Config.queuesPerLot → S l q → d'.queue l q = G l (d.queue l q)
  outside : ∀ l q, q < Config.queuesPerLot → ¬ S l q → d'.queue l q = d.queue l q

theorem Rewrites.congr {S S' : Nat → Nat → Prop} {G : Nat → SubQueue → SubQueue} {d d' : Device} (h : Rewrites S G d d')
    (same : ∀ l q, q < Config.queuesPerLot → (S' l q ↔ S l q)) : Rewrites S' G d d' where
  rest := h.rest
  inside l q hq hs := h.inside l q hq ((same l q hq).mp hs)
  outside l q hq hs := h.outside l q hq fun s => hs ((same l q hq).mpr s)

theorem Rewrites.setQueue {G : Nat → SubQueue → SubQueue} {d : Device} {tag q : Nat} {v : SubQueue} (hq : q < Config.queuesPerLot)
    (hv : v = G tag (d.queue tag q)) : Rewrites (fun l k => l = tag ∧ k = q) G d (d.setQueue tag q v) where
  rest := ⟨_, _, rfl⟩
  inside l k _ := by
    rintro ⟨rfl, rfl⟩
    simp [hv]
  outside l k hk other := by simp [queueKey_inj hk hq, other]

/-- A queue that `G` leaves as it is counts as rewritten. -/
theorem Rewrites.unchanged {G : Nat → SubQueue → SubQueue} {d : Device} {tag q : Nat} (h : d.queue tag q = G tag (d.queue tag q)) :
    Rewrites (fun l k => l = tag ∧ k = q) G d d where
  rest := .refl d
  inside l k _ := by
    rintro ⟨rfl, rfl⟩
    exact h
  outside _ _ _ _ := rfl

theorem Rewrites.setEvq {S : Nat → Nat → Prop} {G : Nat → SubQueue → SubQueue} {d d' : Device} (h : Rewrites S G d d') (t : Nat)
    (v : EventQueue) : Rewrites S G d (d'.setEvq t v) where
  rest := h.rest.trans (d'.setEvq_queuesAndEvents t v)
  inside l q hq s := (d'.queue_setEvq t v l q).trans (h.inside l q hq s)
  outside l q hq s := (d'.queue_setEvq t v l q).trans (h.outside l q hq s)

/-- One change after the other rewrites the queues of both, where rewriting twice is rewriting once. -/
theorem Rewrites.trans {S S' : Nat → Nat → Prop} {G : Nat → SubQueue → SubQueue} {d d' d'' : Device} (idem : ∀ l v, G l (G l v) = G l v)
    (h : Rewrites S G d d') (h' : Rewrites S' G d' d'') : Rewrites (fun l q => S l q ∨ S' l q) G d d'' where
  rest := h.rest.trans h'.rest
  inside l q hq either := by
    by_cases first : S l q
    · by_cases second : S' l q
      · rw [h'.inside l q hq second, h.inside l q hq first, idem]
      · rw [h'.outside l q hq second, h.inside l q hq first]
    · rw [h'.inside l q hq (either.resolve_left first), h.outside l q hq first]
  outside l q hq neither := by
    obtain ⟨first, second⟩ := not_or.mp neither
    rw [h'.outside l q hq second, h.outside l q hq first]

/-- A loop whose step at `x` rewrites the queues in `S x` rewrites those of all its steps. -/
theorem Rewrites.foldl {α : Type} {S : α → Nat → Nat → Prop} {G : Nat → SubQueue → SubQueue} {step : Device → α → Device}
    (idem : ∀ l v, G l (G l v) = G l v) (xs : List α) (d : Device)
    (h : ∀ d', QueuesAndEvents d d' → ∀ x ∈ xs, Rewrites (S x) G d' (step d' x)) :
    Rewrites (fun l q => ∃ x ∈ xs, S x l q) G d (xs.foldl step d) := by
  induction xs generalizing d with
  | nil => exact ⟨.refl d, by simp, fun _ _ _ _ => rfl⟩
  | cons x xs ih =>
    have first := h d (.refl d) x (by simp)
    have later := ih (step d x) fun d' only y hy => h d' (first.rest.trans only) y (by simp [hy])
    exact (first.trans idem later).congr fun l q _ => by simp

/-- A loop over the queues of a lot rewrites them all. -/
theorem Rewrites.ofLot {G : Nat → SubQueue → SubQueue} {step : Device → Nat → Device} (idem : ∀ l v, G l (G l v) = G l v) (tag : Nat)
    (d : Device) (h : ∀ d', QueuesAndEvents d d' → ∀ q, q < Config.queuesPerLot → Rewrites (fun l k => l = tag ∧ k = q) G d' (step d' q)) :
    Rewrites (fun l _ => l = tag) G d ((List.range Config.queuesPerLot).foldl step d) :=
  (Rewrites.foldl idem _ d fun d' only q hq => h d' only q (List.mem_range.mp hq)).congr fun l q hq => by
    simp only [List.mem_range]
    exact ⟨fun e => ⟨q, hq, e, rfl⟩, fun ⟨_, _, e, _⟩ => e⟩

/-- A loop over lots rewrites every queue of each. -/
theorem Rewrites.ofLots {G : Nat → SubQueue → SubQueue} {step : Device → Nat → Device} (idem : ∀ l v, G l (G l v) = G l v) (lots : List Nat)
    (d : Device) (h : ∀ d', QueuesAndEvents d d' → ∀ t, Rewrites (fun l _ => l = t) G d' (step d' t)) :
    Rewrites (fun l _ => l ∈ lots) G d (lots.foldl step d) :=
  (Rewrites.foldl idem lots d fun d' only t _ => h d' only t).congr fun l q _ => by simp

/-! ### What becomes of a queue -/

/-- A queue that lies in host memory without ENABLE (R355). -/
def SubQueue.offHost (v : SubQueue) : SubQueue := { v with enable := v.enable && v.sqLoc }

theorem SubQueue.offHost_of_loc {v : SubQueue} (h : v.sqLoc = true) : v.offHost = v := by
  have same : (v.enable && v.sqLoc) = v.enable := by rw [h, Bool.and_true]
  rw [SubQueue.offHost, same]

/-- A queue without ENABLE (R359). -/
def SubQueue.off (v : SubQueue) : SubQueue := { v with enable := false }

/-- A queue whose reply ring lies in host memory, changed. -/
def SubQueue.onHostRing (f : SubQueue → SubQueue) (v : SubQueue) : SubQueue := if v.rqLoc then v else f v

/-- Whether a queue of a lot with these contents reaches its reply ring (R33, R362). -/
def Device.reachesRing (d : Device) (lot : Nat) (v : SubQueue) : Bool :=
  if v.rqLoc then d.ringOk lot (v.rqBase * 4096) (32 * v.size)
  else match v.ringHost with
    | some a => d.attached a && !(d.attachment a).d3hot
    | none => d.hostReachable lot

/-- A queue of a lot with its replies held, where it has some and does not reach its ring (R33). -/
def SubQueue.held (d : Device) (lot : Nat) (v : SubQueue) : SubQueue :=
  if v.replies.isEmpty || d.reachesRing lot v then v else { v with replyHold := true }

theorem Device.ringReachable_eq (d : Device) (lot q : Nat) : d.ringReachable lot q = d.reachesRing lot (d.queue lot q) := rfl

theorem QueuesAndEvents.reachesRing {d d' : Device} (h : QueuesAndEvents d d') : d'.reachesRing = d.reachesRing := by
  obtain ⟨_, _, rfl⟩ := h
  rfl

theorem QueuesAndEvents.held {d d' : Device} (h : QueuesAndEvents d d') : SubQueue.held d' = SubQueue.held d := by
  unfold SubQueue.held
  rw [h.reachesRing]

theorem SubQueue.held_held (d : Device) (l : Nat) (v : SubQueue) : (v.held d l).held d l = v.held d l := by
  unfold SubQueue.held
  by_cases h : (v.replies.isEmpty || d.reachesRing l v) = true
  · rw [if_pos h, if_pos h]
  · rw [if_neg h]
    exact ite_self _

theorem SubQueue.onHostRing_idem {f : SubQueue → SubQueue} (loc : ∀ v, (f v).rqLoc = v.rqLoc) (idem : ∀ v, f (f v) = f v) (v : SubQueue) :
    (v.onHostRing f).onHostRing f = v.onHostRing f := by
  unfold SubQueue.onHostRing
  by_cases h : v.rqLoc = true
  · rw [if_pos h, if_pos h]
  · rw [if_neg h, if_neg (loc v ▸ h), idem]

@[simp] theorem SubQueue.held_enable (d : Device) (l : Nat) (v : SubQueue) : (v.held d l).enable = v.enable := by
  unfold SubQueue.held
  split <;> rfl

/-- Replies that wait for a ring in the memory of a host out of reach are held (R33). -/
theorem SubQueue.held_replyHold {d : Device} {l : Nat} {v : SubQueue} (ring : v.rqLoc = false) (host : v.ringHost = none) (waits : v.replies ≠ [])
    (away : d.hostReachable l = false) : (v.held d l).replyHold = true := by
  simp [SubQueue.held, Device.reachesRing, ring, host, waits, away]

/-! ### The operations on the queues of a lot -/

theorem Device.closeHostQueues_rewrites (d : Device) (tag : Nat) :
    Rewrites (fun l _ => l = tag) (fun _ => SubQueue.offHost) d (d.closeHostQueues tag) :=
  .ofLot (fun _ v => by simp [SubQueue.offHost]) tag d fun d' _ q hq => by
    split
    case isTrue loc => exact .unchanged (SubQueue.offHost_of_loc loc).symm
    case isFalse loc => exact .setQueue hq (by simp [SubQueue.offHost, loc])

theorem Device.closeQueues_rewrites (d : Device) (tag : Nat) : Rewrites (fun l _ => l = tag) (fun _ => SubQueue.off) d (d.closeQueues tag) :=
  .ofLot (G := fun _ => SubQueue.off) (step := fun d q => d.clearEnable tag q) (fun _ _ => rfl) tag d fun d' _ q hq =>
    .setQueue (v := (d'.queue tag q).off) hq rfl

theorem Device.modHostRings_rewrites (d : Device) (tag : Nat) {f : SubQueue → SubQueue} (loc : ∀ v, (f v).rqLoc = v.rqLoc)
    (idem : ∀ v, f (f v) = f v) : Rewrites (fun l _ => l = tag) (fun _ => SubQueue.onHostRing f) d (d.modHostRings tag f) :=
  .ofLot (fun _ => SubQueue.onHostRing_idem loc idem) tag d fun d' _ q hq => by
    split
    case isTrue h => exact .unchanged (by simp [SubQueue.onHostRing, h])
    case isFalse h => exact .setQueue hq (by simp [SubQueue.onHostRing, h])

theorem Device.holdAll_rewrites (d : Device) (tag : Nat) : Rewrites (fun l _ => l = tag) (SubQueue.held d) d (d.holdAll tag) :=
  .ofLot (SubQueue.held_held d) tag d fun d' only q hq => by
    unfold Device.holdReplies
    dsimp only
    rw [d'.ringReachable_eq, only.reachesRing]
    split
    case isTrue h => exact .unchanged (by rw [SubQueue.held, if_pos h])
    case isFalse h => exact .setQueue hq (by rw [SubQueue.held, if_neg h])

/-! ### A link that forms -/

theorem Device.linkUp_of_forms (d : Device) {a : Nat} {l : LinkFormed} (trains : d.subPortOn a = true) (free : (d.attachment a).link = 0)
    (perst : (d.attachment a).perst = true) : (d.linkUp a (some l)).attachment a =
      { d.attachment a with link := 1, d3hot := false, speed := l.speed, width := l.width, flit := l.flit } := by
  simp [Device.linkUp, trains, free, perst, (Device.hostEvent_queuesAndEvents _ a 4).attachment]

theorem Device.linkUp_of_not_forms {d : Device} {a : Nat} (link : Option LinkFormed)
    (h : d.subPortOn a = false ∨ (d.attachment a).link ≠ 0 ∨ (d.attachment a).perst = false) : d.linkUp a link = d := by
  cases link with
  | none => rfl
  | some l =>
    refine if_neg ?_
    rcases h with h | h | h
    all_goals simp [h]

/-- A sub-port trains with clocks alone, so that a test for them changes nothing. -/
theorem Device.linkUp_if_clocked (d : Device) (a : Nat) (link : Option LinkFormed) :
    (if d.clocked then d.linkUp a link else d) = d.linkUp a link := by
  split
  case isTrue => rfl
  case isFalse stopped => exact (d.linkUp_of_not_forms link (.inl (by simp [Device.subPortOn, stopped]))).symm

/-- The device with PERST_N of an attachment released. -/
def Device.releasePerst (d : Device) (a : Nat) : Device := d.setAttachment a { d.attachment a with perst := true }

theorem Device.releasePerst_subPortOn (d : Device) (a : Nat) : (d.releasePerst a).subPortOn a = d.subPortOn a := rfl

theorem Device.releasePerst_attachment (d : Device) (a : Nat) : (d.releasePerst a).attachment a = { d.attachment a with perst := true } := by
  simp [Device.releasePerst]

theorem exec_perstNRelease (a : AttachId) (link : Option LinkFormed) (s : State) :
    exec (.perstNRelease a link) s = .next { s with dev := (s.dev.releasePerst a).linkUp a link } := by
  rw [← Device.linkUp_if_clocked]
  rfl

theorem exec_hostLinkRetry (a : AttachId) (link : Option LinkFormed) (s : State) :
    exec (.hostLinkRetry a link) s = .next { s with dev := s.dev.linkUp a link } := by
  rw [← Device.linkUp_if_clocked]
  rfl

theorem exec_perstNRelease_of_forms {a : AttachId} {s : State} (l : LinkFormed) (trains : s.dev.subPortOn a = true)
    (free : (s.dev.attachment a).link = 0) : ∃ t, exec (.perstNRelease a (some l)) s = .next t ∧ t.dev.attachment a =
      { s.dev.attachment a with perst := true, link := 1, d3hot := false, speed := l.speed, width := l.width, flit := l.flit } := by
  have released := s.dev.releasePerst_attachment a
  have after := (s.dev.releasePerst a).linkUp_of_forms (l := l) trains (by rw [released]; exact free) (by rw [released])
  rw [released] at after
  exact ⟨_, exec_perstNRelease a (some l) s, after⟩

theorem exec_hostLinkRetry_of_forms {a : AttachId} {s : State} (l : LinkFormed) (trains : s.dev.subPortOn a = true)
    (free : (s.dev.attachment a).link = 0) (perst : (s.dev.attachment a).perst = true) :
    ∃ t, exec (.hostLinkRetry a (some l)) s = .next t ∧ t.dev.attachment a =
      { s.dev.attachment a with link := 1, d3hot := false, speed := l.speed, width := l.width, flit := l.flit } :=
  ⟨_, exec_hostLinkRetry a (some l) s, s.dev.linkUp_of_forms trains free perst⟩

/-- PERST_N_RELEASE with no link that can form releases PERST_N alone. -/
theorem exec_perstNRelease_of_not_forms {a : AttachId} (link : Option LinkFormed) {s : State}
    (h : link = none ∨ s.dev.subPortOn a = false ∨ (s.dev.attachment a).link ≠ 0) :
    exec (.perstNRelease a link) s = .next { s with dev := s.dev.setAttachment a { s.dev.attachment a with perst := true } } := by
  have same : (s.dev.releasePerst a).linkUp a link = s.dev.releasePerst a := by
    rcases h with rfl | off | linked
    · rfl
    · exact Device.linkUp_of_not_forms link (.inl (by rw [Device.releasePerst_subPortOn, off]))
    · exact Device.linkUp_of_not_forms link (.inr (.inl (by rw [Device.releasePerst_attachment]; exact linked)))
  rw [exec_perstNRelease, same, Device.releasePerst]

theorem exec_hostLinkRetry_of_not_forms {a : AttachId} (link : Option LinkFormed) {s : State}
    (h : s.dev.subPortOn a = false ∨ (s.dev.attachment a).link ≠ 0 ∨ (s.dev.attachment a).perst = false) :
    exec (.hostLinkRetry a link) s = .next s := by
  rw [exec_hostLinkRetry, Device.linkUp_of_not_forms link h]

/-! ### Detach -/

/-- A queue with its replies held where its ring lies in the memory of this attachment, an earlier holder of the role (R362). -/
def SubQueue.holdRingOf (a : Nat) (v : SubQueue) : SubQueue := { v with replyHold := v.replyHold || v.ringHost = some a }

theorem SubQueue.holdRingOf_holdRingOf (a : Nat) (v : SubQueue) : (v.holdRingOf a).holdRingOf a = v.holdRingOf a := by
  refine congrArg (fun h => { v with replyHold := h }) ?_
  exact (Bool.or_assoc _ _ _).trans (congrArg _ (Bool.or_self _))

theorem SubQueue.onHostRing_holdRingOf (a : Nat) (v : SubQueue) : ∃ h, v.onHostRing (.holdRingOf a) = { v with replyHold := h } := by
  unfold SubQueue.onHostRing
  split
  · exact ⟨_, rfl⟩
  · exact ⟨_, rfl⟩

/-- The attachment after a detach. -/
def Device.detached (d : Device) (a : Nat) (keep : Attachment) : Attachment :=
  { keep with detachedAt := some d.time, ideFaults := (d.attachment a).ideFaults }

theorem Device.hostReachable_of_link {d : Device} {l a : Nat} (hosted : d.hosting l = some a) (h : (d.attachment a).link = 0) :
    d.hostReachable l = false := by
  simp [Device.hostReachable, hosted, h]

/-- A detach replaces the attachment; beside that it changes queues and events alone. The queues of the lots that it hosts leave host memory, and
their replies are held as the rings are reached without its link (R355). -/
theorem Device.detach_rest_and_queues (d : Device) (a : Nat) (keep : Attachment) :
    QueuesAndEvents (d.setAttachment a (d.detached a keep)) (d.detach a keep)
    ∧ ∀ l ∈ d.hostedLots a, ∀ q, q < Config.queuesPerLot →
      ∃ h, (d.detach a keep).queue l q =
        SubQueue.held (d.setAttachment a (d.detached a keep)) l { (d.queue l q).offHost with replyHold := h } := by
  unfold Device.detach
  extract_lets closed rings moved
  have close : Rewrites (fun l _ => l ∈ d.hostedLots a) (fun _ => SubQueue.offHost) d closed :=
    .ofLots (fun _ v => by simp [SubQueue.offHost]) _ d fun d' _ t => d'.closeHostQueues_rewrites t
  have ring : Rewrites (fun l _ => l = 0) (fun _ => SubQueue.onHostRing (.holdRingOf a)) closed rings :=
    closed.modHostRings_rewrites 0 (fun _ => rfl) (SubQueue.holdRingOf_holdRingOf a)
  have lost : QueuesAndEvents (d.setAttachment a (d.detached a keep)) moved := by
    obtain ⟨_, _, same⟩ := close.rest.trans ring.rest
    exact ⟨_, _, by simp only [moved, same]; rfl⟩
  have lots : moved.hostedLots a = d.hostedLots a := lost.hostedLots a
  have hold : Rewrites (fun l _ => l ∈ d.hostedLots a) (SubQueue.held moved) moved ((moved.hostedLots a).foldl Device.holdAll moved) := by
    rw [lots]
    exact .ofLots (SubQueue.held_held moved) _ moved fun d' only t => only.held ▸ d'.holdAll_rewrites t
  refine ⟨(lost.trans hold.rest).trans (Device.hostEvent_queuesAndEvents _ a 1), fun l hl q hq => ?_⟩
  have before : ∃ h, moved.queue l q = { (d.queue l q).offHost with replyHold := h } := by
    have same : moved.queue l q = rings.queue l q := rings.queue_setAttachment a _ l q
    rw [← close.inside l q hq hl]
    by_cases first : l = 0
    · obtain ⟨h, e⟩ := (closed.queue l q).onHostRing_holdRingOf a
      exact ⟨h, same.trans ((ring.inside l q hq first).trans e)⟩
    · exact ⟨_, same.trans (ring.outside l q hq first)⟩
  obtain ⟨h, e⟩ := before
  exact ⟨h, by rw [Device.hostEvent_queue, hold.inside l q hq hl, e, lost.held]⟩

theorem Device.detach_enable (d : Device) {a : Nat} (keep : Attachment) {l q : Nat} (hl : l ∈ d.hostedLots a) (hq : q < Config.queuesPerLot) :
    ((d.detach a keep).queue l q).enable = ((d.queue l q).enable && (d.queue l q).sqLoc) := by
  obtain ⟨-, queues⟩ := d.detach_rest_and_queues a keep
  obtain ⟨h, e⟩ := queues l hl q hq
  rw [e, SubQueue.held_enable]
  rfl

theorem Device.hosting_of_hosted {d : Device} {a l : Nat} (hl : l ∈ d.hostedLots a) : d.hosting l = some a := by
  obtain ⟨-, h⟩ := List.mem_filter.mp hl
  simp only [Bool.and_eq_true, decide_eq_true_eq] at h
  exact h.2

theorem Device.detach_replyHold (d : Device) {a : Nat} {keep : Attachment} (link : keep.link = 0) {l q : Nat} (hl : l ∈ d.hostedLots a)
    (hq : q < Config.queuesPerLot) (ring : (d.queue l q).rqLoc = false) (host : (d.queue l q).ringHost = none)
    (waits : (d.queue l q).replies ≠ []) : ((d.detach a keep).queue l q).replyHold = true := by
  obtain ⟨-, queues⟩ := d.detach_rest_and_queues a keep
  obtain ⟨h, e⟩ := queues l hl q hq
  rw [e]
  refine SubQueue.held_replyHold ring host waits (Device.hostReachable_of_link (a := a) (Device.hosting_of_hosted hl) ?_)
  simp [Device.detached, link]

theorem Device.detach_attachment (d : Device) (a : Nat) (keep : Attachment) (b : Nat) :
    (d.detach a keep).attachment b = if b = a then d.detached a keep else d.attachment b := by
  obtain ⟨rest, -⟩ := d.detach_rest_and_queues a keep
  rw [rest.attachment, Device.attachment_setAttachment]

theorem Device.detach_frame (d : Device) (a : Nat) (keep : Attachment) :
    (d.detach a keep).mem = d.mem ∧ (d.detach a keep).journal = d.journal ∧ (d.detach a keep).hosts.holder = d.hosts.holder := by
  obtain ⟨⟨queues, events, same⟩, -⟩ := d.detach_rest_and_queues a keep
  rw [same]
  exact ⟨rfl, rfl, rfl⟩

/-- What an attachment keeps beside the time of its detach: HOST_DETACH leaves the D3hot state and asserts PERST_N where that is the cause,
D3HOT_ENTRY of the physical function leaves PERST_N and enters D3hot (R355, R358). -/
inductive Keeps (v : Attachment) (a : AttachId) : Instr → Attachment → Prop where
  | detach (c : DetachCause) : Keeps v a (.hostDetach a c) { perst := v.perst && decide (c ≠ .perst), d3hot := v.d3hot }
  | d3hot : Keeps v a (.d3hotEntry { attach := a }) { perst := v.perst, d3hot := true }

theorem Keeps.link {v : Attachment} {a : AttachId} {i : Instr} {keep : Attachment} (h : Keeps v a i keep) : keep.link = 0 := by
  cases h <;> rfl

/-- With a link and clocks, HOST_DETACH and D3HOT_ENTRY of the physical function are a detach. -/
theorem exec_of_keeps {s : State} {a : AttachId} {i : Instr} {keep : Attachment} (h : Keeps (s.dev.attachment a) a i keep)
    (linked : (s.dev.attachment a).link ≠ 0) (clocked : s.dev.clocked = true) :
    exec i s = .next { s with dev := s.dev.detach a keep } := by
  cases h with
  | detach c =>
    change execHostDetach a c s = _
    simp [execHostDetach, State.onDev, linked, clocked]
  | d3hot =>
    change execD3hotEntry { attach := a } s = _
    simp [execD3hotEntry, State.onClocked, linked, clocked]

theorem exec_hostDetach_of_no_link {s : State} {a : AttachId} (c : DetachCause) (h : (s.dev.attachment a).link = 0 ∨ s.dev.clocked = false) :
    exec (.hostDetach a c) s =
      .next { s with dev := s.dev.setAttachment a { s.dev.attachment a with perst := (s.dev.attachment a).perst && decide (c ≠ .perst) } } := by
  change execHostDetach a c s = _
  rcases h with h | h
  all_goals simp [execHostDetach, State.onDev, h]

theorem exec_d3hotEntry_of_no_link {s : State} (f : Fn) (h : (s.dev.attachment f.attach).link = 0 ∨ s.dev.clocked = false) :
    exec (.d3hotEntry f) s = .next s := by
  change execD3hotEntry f s = _
  rcases h with h | h
  all_goals simp [execD3hotEntry, State.onClocked, h]

/-! ### D3hot of a virtual function -/

/-- The queues in host memory of one lot lose ENABLE, and no queue of another lot changes (R358). -/
theorem Device.leaveHost_spec (d : Device) (t : Nat) :
    (∀ q, q < Config.queuesPerLot → (((d.closeHostQueues t).holdAll t).queue t q).enable = ((d.queue t q).enable && (d.queue t q).sqLoc))
    ∧ (∀ k q, k ≠ t → q < Config.queuesPerLot → ((d.closeHostQueues t).holdAll t).queue k q = d.queue k q)
    ∧ ((d.closeHostQueues t).holdAll t).hosts = d.hosts := by
  have close := d.closeHostQueues_rewrites t
  have hold := (d.closeHostQueues t).holdAll_rewrites t
  refine ⟨fun q hq => ?_, fun k q other hq => ?_, (close.rest.trans hold.rest).hosts⟩
  · rw [hold.inside t q hq rfl, SubQueue.held_enable, close.inside t q hq rfl]
    rfl
  · rw [hold.outside k q hq other, close.outside k q hq other]

theorem exec_d3hotEntry_vf {s : State} {a : AttachId} (l : Lot) (linked : (s.dev.attachment a).link ≠ 0) (clocked : s.dev.clocked = true) :
    exec (.d3hotEntry { attach := a, vf := some l }) s =
      .next { s with dev := if l.val ∈ s.dev.hostedLots a then (s.dev.closeHostQueues l).holdAll l else s.dev } := by
  change execD3hotEntry _ s = _
  simp [execD3hotEntry, State.onClocked, linked, clocked]

/-! ### The takeover -/

/-- A queue of lot 0 whose ring stays with the holder that the role leaves, its replies held where that holder is not ATTACHED (R362). -/
def SubQueue.leaveRing (d : Device) (a : Nat) (v : SubQueue) : SubQueue :=
  { v with ringHost := some (v.ringHost.getD a), replyHold := v.replyHold || !d.attached (v.ringHost.getD a) }

theorem SubQueue.leaveRing_leaveRing (d : Device) (a : Nat) (v : SubQueue) : (v.leaveRing d a).leaveRing d a = v.leaveRing d a := by
  simp [SubQueue.leaveRing]

/-- The device whose lot 0 has left the memory of a holder, before the role is another's. -/
def Device.leaveHolder (d : Device) (h : Nat) : Device := ((d.modHostRings 0 (.leaveRing d h)).closeHostQueues 0).closeHostEvq 0

theorem Device.closeHostEvq_queuesAndEvents (d : Device) (t : Nat) : QueuesAndEvents d (d.closeHostEvq t) := by
  unfold Device.closeHostEvq
  split
  · exact .refl d
  · exact d.setEvq_queuesAndEvents t _

@[simp] theorem Device.closeHostEvq_queue (d : Device) (t l q : Nat) : (d.closeHostEvq t).queue l q = d.queue l q := by
  unfold Device.closeHostEvq
  split <;> rfl

/-- The device whose management role is an attachment's. -/
def Device.giveRole (d : Device) (n : Nat) : Device := { d with hosts := { d.hosts with holder := some n } }

@[simp] theorem Device.giveRole_holder (d : Device) (n : Nat) : (d.giveRole n).hosts.holder = some n := rfl

@[simp] theorem Device.giveRole_journal (d : Device) (n : Nat) : (d.giveRole n).journal = d.journal := rfl

@[simp] theorem Device.giveRole_queue (d : Device) (n l q : Nat) : (d.giveRole n).queue l q = d.queue l q := rfl

theorem Device.moveRole_of_ne {d : Device} {h n : Nat} (holder : d.hosts.holder = some h) (ne : h ≠ n) :
    d.moveRole n = ((d.leaveHolder h).giveRole n).hostEvent n 2 := by
  unfold Device.moveRole
  rw [if_neg (by rw [holder]; exact fun same => ne (Option.some.inj same))]
  extract_lets rings left
  have same : rings = d.modHostRings 0 (.leaveRing d h) := by
    unfold rings
    rw [holder]
    rfl
  have same : left = d.leaveHolder h := by rw [Device.leaveHolder, ← same]
  rw [← same]
  rfl

/-- Lot 0's queues in host memory lose ENABLE as the role leaves a holder (R362). -/
theorem Device.leaveHolder_spec (d : Device) (h : Nat) :
    QueuesAndEvents d (d.leaveHolder h)
    ∧ ∀ q, q < Config.queuesPerLot → ((d.leaveHolder h).queue 0 q).enable = ((d.queue 0 q).enable && (d.queue 0 q).sqLoc) := by
  have ring := d.modHostRings_rewrites 0 (f := .leaveRing d h) (fun _ => rfl) (SubQueue.leaveRing_leaveRing d h)
  have close := (d.modHostRings 0 (.leaveRing d h)).closeHostQueues_rewrites 0
  refine ⟨(ring.rest.trans close.rest).trans (Device.closeHostEvq_queuesAndEvents _ 0), fun q hq => ?_⟩
  rw [Device.leaveHolder, Device.closeHostEvq_queue, close.inside 0 q hq rfl, ring.inside 0 q hq rfl]
  unfold SubQueue.offHost SubQueue.onHostRing
  split <;> rfl

theorem Device.moveRole_spec {d : Device} {h n : Nat} (holder : d.hosts.holder = some h) (ne : h ≠ n) :
    (d.moveRole n).hosts.holder = some n ∧ (d.moveRole n).journal = d.journal
    ∧ ∀ q, q < Config.queuesPerLot → ((d.moveRole n).queue 0 q).enable = ((d.queue 0 q).enable && (d.queue 0 q).sqLoc) := by
  obtain ⟨left, enable⟩ := d.leaveHolder_spec h
  rw [Device.moveRole_of_ne holder ne]
  refine ⟨by simp [Device.hostEvent], by simp [Device.hostEvent, left.journal], fun q hq => ?_⟩
  rw [Device.hostEvent_queue, Device.giveRole_queue, enable q hq]

/-- Whether a standby takes the role over: 10 ms after the detach of the holder, while it is ATTACHED itself (R357). -/
def Device.takesOver (d : Device) (h n : Nat) : Prop :=
  d.hosts.holder = some h ∧ d.hosts.standby = some n ∧ d.attached h = false ∧ d.attached n = true
  ∧ ∃ at_, (d.attachment h).detachedAt = some at_ ∧ at_ + 1000000 ≤ d.time

theorem Device.takesOver_unique {d : Device} {h n h' n' : Nat} (holder : d.hosts.holder = some h) (standby : d.hosts.standby = some n)
    (due : d.takesOver h' n') : h' = h ∧ n' = n := by
  obtain ⟨holder', standby', -⟩ := due
  exact ⟨Option.some.inj (holder'.symm.trans holder), Option.some.inj (standby'.symm.trans standby)⟩

theorem exec_standbyTakeover_of_not {s : State} (h : s.dev.clocked = false ∨ ∀ h n, ¬ s.dev.takesOver h n) :
    exec .standbyTakeover s = .next s := by
  change execStandbyTakeover s = _
  unfold execStandbyTakeover State.onClocked
  split
  case isFalse => rfl
  case isTrue clocked =>
    have never := h.resolve_left (by simp [clocked])
    dsimp only
    split
    case h_2 => rfl
    case h_1 h n holder standby =>
      split
      case h_2 => rfl
      case h_1 at_ detached =>
        rw [if_neg]
        simp only [Bool.and_eq_true, Bool.not_eq_true', decide_eq_true_eq]
        rintro ⟨⟨away, due⟩, here⟩
        exact never h n ⟨holder, standby, away, here, at_, detached, due⟩

theorem exec_standbyTakeover_of_takesOver {s : State} {h n : Nat} (clocked : s.dev.clocked = true) (due : s.dev.takesOver h n) :
    exec .standbyTakeover s = .next { s with dev := s.dev.moveRole n } := by
  obtain ⟨holder, standby, away, here, at_, detached, time⟩ := due
  change execStandbyTakeover s = _
  simp [execStandbyTakeover, State.onClocked, clocked, holder, standby, away, here, detached, time]

/-! ### Function-level reset -/

/-- An event queue that masks no kind, with threshold 0 (R359). -/
def EventQueue.unmasked (e : EventQueue) : EventQueue := { e with kindMask := 0, threshold := 0 }

@[simp] theorem EventQueue.unmasked_unmasked (e : EventQueue) : e.unmasked.unmasked = e.unmasked := rfl

/-- What a function-level reset does to one lot (R359). -/
def Device.resetLot (d : Device) (t : Nat) : Device := (d.closeQueues t).setEvq t (d.evq t).unmasked

theorem Device.closeQueues_evq (d : Device) (t l : Nat) : (d.closeQueues t).evq l = d.evq l := by
  unfold Device.closeQueues
  exact List.foldlRecOn (motive := fun d' : Device => d'.evq l = d.evq l) _ _ rfl fun _ same _ _ => same

theorem Device.resetLot_rewrites (d : Device) (t : Nat) : Rewrites (fun l _ => l = t) (fun _ => SubQueue.off) d (d.resetLot t) :=
  (d.closeQueues_rewrites t).setEvq t _

theorem Device.resetLots_rewrites (d : Device) (lots : List Nat) :
    Rewrites (fun l _ => l ∈ lots) (fun _ => SubQueue.off) d (lots.foldl Device.resetLot d) :=
  .ofLots (G := fun _ => SubQueue.off) (fun _ _ => rfl) lots d fun d' _ t => d'.resetLot_rewrites t

theorem Device.resetLot_evq (d : Device) (t l : Nat) : (d.resetLot t).evq l = if l = t then (d.evq l).unmasked else d.evq l := by
  rw [Device.resetLot, Device.evq_setEvq, Device.closeQueues_evq]
  split
  case isTrue same => rw [same]
  case isFalse => rfl

theorem Device.resetLots_evq (d : Device) (lots : List Nat) (l : Nat) :
    (lots.foldl Device.resetLot d).evq l = if l ∈ lots then (d.evq l).unmasked else d.evq l := by
  induction lots generalizing d with
  | nil => rfl
  | cons t lots ih =>
    rw [List.foldl_cons, ih, Device.resetLot_evq]
    by_cases here : l = t
    · subst here
      simp
    · simp [here]

/-- The device with a function that does not answer for 100 ms. -/
def Device.startFlr (d : Device) (f : Fn) : Device :=
  { d with hosts := { d.hosts with flr := Tab.insert (d.time + 10000000) d.hosts.flr f.key } }

/-- The device after a function-level reset. -/
def Device.resetFn (d : Device) (f : Fn) : Device := ((d.flrLots f).foldl Device.resetLot d).startFlr f

theorem exec_functionLevelReset (f : Fn) (s : State) :
    exec (.functionLevelReset f) s = .next { s with dev := if s.dev.clocked then s.dev.resetFn f else s.dev } := rfl

theorem Device.flrLots_eq (d : Device) (f : Fn) :
    d.flrLots f = (d.hostedLots f.attach).filter fun l => f.vf.isNone || (f.vf.map Fin.val == some l && l != 0) := by
  unfold Device.flrLots
  split
  case h_1 pf =>
    refine (List.filter_eq_self.mpr fun t _ => ?_).symm
    rw [pf, Option.isNone_none, Bool.true_or]
  case h_2 l vf =>
    refine List.filter_congr fun t _ => ?_
    rw [Bool.eq_iff_iff, vf]
    simpa using (fun _ => eq_comm : t ≠ 0 → (t = l.val ↔ l.val = t))

theorem Device.resetFn_queuesAndEvents (d : Device) (f : Fn) : QueuesAndEvents (d.startFlr f) (d.resetFn f) := by
  obtain ⟨queues, events, same⟩ := (d.resetLots_rewrites (d.flrLots f)).rest
  exact ⟨queues, events, by rw [Device.resetFn, same]; rfl⟩

theorem Device.resetFn_frame (d : Device) (f : Fn) : (d.resetFn f).journal = d.journal ∧ (d.resetFn f).tensors = d.tensors
    ∧ (d.resetFn f).streams = d.streams ∧ (d.resetFn f).hosts.holder = d.hosts.holder := by
  obtain ⟨_, _, same⟩ := d.resetFn_queuesAndEvents f
  rw [same]
  exact ⟨rfl, rfl, rfl, rfl⟩

theorem Device.resetFn_flr (d : Device) (f : Fn) : Tab.find (d.resetFn f).hosts.flr f.key = some (d.time + 10000000) := by
  rw [(d.resetFn_queuesAndEvents f).hosts]
  simp [Device.startFlr]

theorem Device.resetFn_inFlr (d : Device) (f : Fn) : (d.resetFn f).inFlr f = true := by
  have time : (d.resetFn f).time = d.time := (d.resetFn_queuesAndEvents f).time
  simp [Device.inFlr, Device.resetFn_flr, time]

theorem Device.resetFn_queue (d : Device) (f : Fn) (l q : Nat) :
    (d.resetFn f).queue l q = ((d.flrLots f).foldl Device.resetLot d).queue l q := rfl

theorem Device.resetFn_evq (d : Device) (f : Fn) (l : Nat) :
    (d.resetFn f).evq l = if l ∈ d.flrLots f then (d.evq l).unmasked else d.evq l := d.resetLots_evq _ l

theorem Device.resetFn_queue_of_mem (d : Device) {f : Fn} {l q : Nat} (hl : l ∈ d.flrLots f) (hq : q < Config.queuesPerLot) :
    (d.resetFn f).queue l q = (d.queue l q).off := by
  rw [Device.resetFn_queue, (d.resetLots_rewrites _).inside l q hq hl]

theorem Device.resetFn_queue_of_not_mem (d : Device) {f : Fn} {l q : Nat} (hl : l ∉ d.flrLots f) (hq : q < Config.queuesPerLot) :
    (d.resetFn f).queue l q = d.queue l q := by
  rw [Device.resetFn_queue, (d.resetLots_rewrites _).outside l q hq hl]

/-! ### The statement -/

/-- Settles O48, by what a link that forms, a detach, a move of the role and a function-level reset do. -/
theorem hostsComeAndGo : Obligations.HostsComeAndGo := by
  refine ⟨fun s a => ?attachments, fun s => ?takeover, fun s f => ?reset⟩
  case attachments =>
    intro v loses
    refine ⟨exec_perstNRelease_of_not_forms none (.inl rfl), exec_hostLinkRetry a none s, fun l => ⟨?forms, ?notForms, ?perst⟩,
      fun h c => exec_hostDetach_of_no_link c h, ?noLink, fun linked clocked => ⟨?detach, fun l => ⟨fun out => ?other, fun hosted => ?own⟩⟩⟩
    case forms =>
      refine fun trains free => ⟨?_, fun perst => ?_⟩
      · obtain ⟨t, run, after⟩ := exec_perstNRelease_of_forms l trains free
        exact ⟨t, run, by simp [after]⟩
      · obtain ⟨t, run, after⟩ := exec_hostLinkRetry_of_forms l trains free perst
        exact ⟨t, run, by simp [after]⟩
    case notForms => exact fun h => ⟨exec_hostLinkRetry_of_not_forms _ (h.imp_right .inl), exec_perstNRelease_of_not_forms _ (.inr h)⟩
    case perst => exact fun perst => exec_hostLinkRetry_of_not_forms _ (.inr (.inr perst))
    case noLink =>
      rintro h f rfl
      exact exec_d3hotEntry_of_no_link f h
    case detach =>
      intro i c hi
      obtain ⟨keep, keeps⟩ : ∃ keep, Keeps v a i keep := by
        rcases hi with rfl | rfl
        · exact ⟨_, .detach c⟩
        · exact ⟨_, .d3hot⟩
      have after : (s.dev.detach a keep).attachment a = s.dev.detached a keep := by simp [Device.detach_attachment]
      have link : ((s.dev.detach a keep).attachment a).link = 0 := by rw [after]; exact keeps.link
      refine ⟨_, exec_of_keeps keeps linked clocked, link, by rw [after]; rfl, by simp [Device.attached, link], ?_, ?_,
        fun l hl q hq => ⟨s.dev.detach_enable keep hl hq, s.dev.detach_replyHold keeps.link hl hq⟩,
        fun b other => by simp [Device.detach_attachment, other], s.dev.detach_frame a keep⟩
      · rintro rfl
        rw [after]
        cases keeps
        exact Bool.and_false _
      · rintro rfl
        rw [after]
        cases keeps
        exact ⟨rfl, rfl⟩
    case other => rw [exec_d3hotEntry_vf l linked clocked, if_neg out]
    case own =>
      refine ⟨_, exec_d3hotEntry_vf l linked clocked, ?_⟩
      simp only [if_pos hosted]
      exact s.dev.leaveHost_spec l
  case takeover =>
    refine ⟨fun h => exec_standbyTakeover_of_not (h.imp_right fun nobody h n due => ?nobody), fun h n holder standby =>
      ⟨fun bad => exec_standbyTakeover_of_not (.inr fun h' n' due => ?bad), fun at_ detached =>
        ⟨fun early => exec_standbyTakeover_of_not (.inr fun h' n' due => ?early), fun clocked away here late => ?due⟩⟩⟩
    case nobody =>
      obtain ⟨holder, standby, -⟩ := due
      simp [holder, standby] at nobody
    case bad =>
      obtain ⟨rfl, rfl⟩ := Device.takesOver_unique holder standby due
      obtain ⟨-, -, away, here, at_, detached, -⟩ := due
      simp [away, here, detached] at bad
    case early =>
      obtain ⟨rfl, rfl⟩ := Device.takesOver_unique holder standby due
      obtain ⟨-, -, -, -, at', detached', late⟩ := due
      cases detached.symm.trans detached'
      omega
    case due =>
      have ne : h ≠ n := by
        rintro rfl
        simp [away] at here
      have due : s.dev.takesOver h n := ⟨holder, standby, away, here, at_, detached, late⟩
      exact ⟨_, exec_standbyTakeover_of_takesOver clocked due, Device.moveRole_spec holder ne⟩
  case reset =>
    intro lots
    have same : lots = s.dev.flrLots f := (s.dev.flrLots_eq f).symm
    rw [same]
    refine ⟨fun stopped => ?stopped, fun clocked => ⟨{ s with dev := s.dev.resetFn f }, ?run, s.dev.resetFn_inFlr f, s.dev.resetFn_flr f,
      fun l hl => ⟨fun q hq => ?enable, ?events⟩, fun l hl q hq => s.dev.resetFn_queue_of_not_mem hl hq, s.dev.resetFn_frame f⟩⟩
    case stopped =>
      rw [exec_functionLevelReset, stopped]
      rfl
    case run => rw [exec_functionLevelReset, if_pos clocked]
    case enable =>
      rw [s.dev.resetFn_queue_of_mem hl hq]
      rfl
    case events =>
      rw [s.dev.resetFn_evq, if_pos hl]
      exact ⟨rfl, rfl⟩

end Sys2Proof.Machine
end
